-- ==== Sys2Proof/Word.lean ====
section
/-! DEFINITION. The machine's words and its fixed-size tables.

A register file, a set of barriers or the cores of the package are each a fixed number of like things: `Tab α n`,
a list with the proof that it has `n` entries. It is plain data: equality and printing come from the list. -/
namespace Sys2Proof

/-- One byte, the smallest addressable unit (R95). -/
abbrev Byte := BitVec 8
/-- A lane register's word (R53). -/
abbrev Word := BitVec 32
/-- A uniform register's doubleword (R53). -/
abbrev DWord := BitVec 64

/-- A table of exactly `n` entries. -/
abbrev Tab (α : Type) (n : Nat) := { l : List α // l.length = n }

/-- Every entry the same. -/
def Tab.replicate {α : Type} (n : Nat) (a : α) : Tab α n := ⟨List.replicate n a, List.length_replicate⟩

/-- The entry at an index. -/
def Tab.get {α : Type} {n : Nat} (t : Tab α n) (i : Fin n) : α := t.val.get ⟨i.val, t.property.symm ▸ i.isLt⟩

/-- The table with one entry replaced. -/
def Tab.set {α : Type} {n : Nat} (t : Tab α n) (i : Fin n) (a : α) : Tab α n :=
  ⟨t.val.set i.val a, (List.length_set).trans t.property⟩

/-- The table whose entry `i` is `f i`. -/
def Tab.ofFn {α : Type} {n : Nat} (f : Fin n → α) : Tab α n := ⟨List.ofFn f, List.length_ofFn⟩

/-- Every entry mapped. -/
def Tab.map {α β : Type} {n : Nat} (f : α → β) (t : Tab α n) : Tab β n :=
  ⟨t.val.map f, (List.length_map f).trans t.property⟩

/-- One entry updated in place. -/
def Tab.modify {α : Type} {n : Nat} (t : Tab α n) (i : Fin n) (f : α → α) : Tab α n := t.set i (f (t.get i))

/-- The entry at a natural index, taken modulo the size (callers give an index in range). -/
def Tab.at {α : Type} {n : Nat} [NeZero n] (t : Tab α n) (i : Nat) : α := t.get (Fin.ofNat n i)

@[simp] theorem Tab.get_set_eq {α : Type} {n : Nat} (t : Tab α n) (i : Fin n) (a : α) : (t.set i a).get i = a := by
  simp [Tab.get, Tab.set]

theorem Tab.get_set_ne {α : Type} {n : Nat} (t : Tab α n) {i j : Fin n} (a : α) (h : i ≠ j) :
    (t.set i a).get j = t.get j := by
  have hv : i.val ≠ j.val := fun e => h (Fin.ext e)
  simp [Tab.get, Tab.set, hv]

@[simp] theorem Tab.get_ofFn {α : Type} {n : Nat} (f : Fin n → α) (i : Fin n) : (Tab.ofFn f).get i = f i := by
  simp [Tab.get, Tab.ofFn]

@[simp] theorem Tab.get_map {α β : Type} {n : Nat} (f : α → β) (t : Tab α n) (i : Fin n) :
    (t.map f).get i = f (t.get i) := by
  simp [Tab.get, Tab.map]

@[simp] theorem Tab.get_replicate {α : Type} {n : Nat} (a : α) (i : Fin n) : (Tab.replicate n a).get i = a := by
  simp [Tab.get, Tab.replicate]

@[simp] theorem Tab.set_set {α : Type} {n : Nat} (t : Tab α n) (i : Fin n) (a b : α) :
    (t.set i a).set i b = t.set i b := by
  apply Subtype.ext
  simp [Tab.set]

@[simp] theorem Tab.get_modify_eq {α : Type} {n : Nat} (t : Tab α n) (i : Fin n) (f : α → α) :
    (t.modify i f).get i = f (t.get i) := by
  simp [Tab.modify]

theorem Tab.get_modify_ne {α : Type} {n : Nat} (t : Tab α n) {i j : Fin n} (f : α → α) (h : i ≠ j) :
    (t.modify i f).get j = t.get j := by
  simp [Tab.modify, Tab.get_set_ne t _ h]

/-- Two tables with equal entries are equal. -/
theorem Tab.ext_get {α : Type} {n : Nat} {t u : Tab α n} (h : ∀ i, t.get i = u.get i) : t = u := by
  apply Subtype.ext
  apply List.ext_getElem
  · rw [t.property, u.property]
  · intro i h1 h2
    have := h ⟨i, t.property ▸ h1⟩
    simpa [Tab.get] using this

@[simp] theorem Tab.set_get_self {α : Type} {n : Nat} (t : Tab α n) (i : Fin n) : t.set i (t.get i) = t := by
  apply Tab.ext_get
  intro j
  by_cases h : i = j
  · subst h; simp
  · simp [Tab.get_set_ne _ _ h]

end Sys2Proof
end

