-- ==== Sys2Proof/Config.lean ====
section
/-! DEFINITION. What one part fixes and the manual leaves open. Every constant here has no body: nothing can be proved of
its value, so a claim about the machine holds whatever it is. -/
namespace Sys2Proof.Config

/-- The SYNDROME of an error-log entry (R391), which depends on the array's code. [DESIGN CHOICE, log 12] -/
opaque syndrome : Nat → BitVec 16

/-- The context key (R307), which no software can read, by the count of boots. [DESIGN CHOICE, log 16] -/
opaque contextKey : Nat → List Byte

/-- A byte of a granule that held registers, as its next owner in the same address space finds it (R59, R64), by the draw number and the
offset. [DESIGN CHOICE, log 100] -/
opaque rowByte : Nat → Nat → Byte

/-- Energy of a core's domains over one reference tick, in nJ (R361), by the draw number and the core. [DESIGN CHOICE, log 13] -/
opaque coreEnergy : Nat → Nat → Nat

/-- Energy of a die outside its cores over one reference tick, in nJ (R361), by the draw number and the die. [DESIGN CHOICE, log 13] -/
opaque dieEnergy : Nat → Nat → Nat

/-- Request energy metered for a quotation's grid over one reference tick, in nJ (R329), by the draw number and the quotation's
id. [DESIGN CHOICE, log 13] -/
opaque requestEnergy : Nat → Nat → Nat

/-- The device serial number (R387), 16 bytes. [DESIGN CHOICE, log 14] -/
opaque serial : Nat → Byte

/-- The signature made with the device identity key (R387), 512 bytes, of the report's first 0x280 bytes. [DESIGN CHOICE, log 14] -/
opaque reportSignature : List Byte → Nat → Byte

/-- The identity certificate (R388): its length, at most 4,096 once reduced, and its bytes. [DESIGN CHOICE, log 14] -/
opaque certificateLength : Nat
opaque certificateByte : Nat → Byte

/-- The serial flash as manufactured: the image of stage M0 to M3 (R382). [DESIGN CHOICE, log 14] -/
opaque factoryImage : Fin 4 → List Byte

/-- How a flash image holds its four stages (R382, R386). [DESIGN CHOICE, log 14] -/
opaque flashStage : List Byte → Fin 4 → List Byte

/-- Whether a stage image's RSA-4096 signature verifies under the fused key (R382). [DESIGN CHOICE, log 14] -/
opaque stageVerifies : List Byte → Bool

/-- Whether an item of the self-test passes (R383), by the number of the test and, for the items of one core, the core. [DESIGN CHOICE, log 14] -/
opaque selfTestPasses : Nat → Nat → Nat → Bool

/-- A byte of host memory that a device-initiated request reads (R385). [DESIGN CHOICE, log 15] -/
opaque hostByte : Nat → DWord → Byte

/-- Whether a domain spent a reference tick above sustained voltage, and its temperature in °C then (R365), by the draw number and the
domain. [DESIGN CHOICE, log 13] -/
opaque domainHigh : Nat → Nat → Bool
opaque domainTemp : Nat → Nat → Nat

/-- A byte of a core's suspend image for which the manual gives no layout (R373), by the draw number and the offset. [DESIGN CHOICE, log 22] -/
opaque imageByte : Nat → Nat → Byte

/-- The status byte of a REJECT that answers an access outside a port's window (R395), by the draw number. [DESIGN CHOICE, log 17] -/
opaque rejectStatus : Nat → Byte

/-- The local core of a die on which its scheduler thread runs (R398). [DESIGN CHOICE, log 21] -/
opaque schedulerCore : Fin 4 → Fin 32

/-- A byte that a front end reads through a CXL or peer frame, by the draw number and the physical address (R313). [DESIGN CHOICE, log 22] -/
opaque frameByte : Nat → Nat → Byte

/-- How such a read completes, by the draw number: 0 with its data, 1 refused, 2 poisoned (R313). [DESIGN CHOICE, log 22] -/
opaque frameStatus : Nat → Fin 3

/-- The REASON of a command's status where the manual gives none, by the draw number: a record that has no translation or is
misaligned (R317). [DESIGN CHOICE, log 18] -/
opaque statusReason : Nat → Byte

/-- The DIGEST of a graph's quotation record: the manual gives the digest of one kernel (R325); by the count of values drawn. [DESIGN CHOICE, log 19] -/
opaque graphDigest : Nat → DWord

/-- The bytes that CTXSV and CTXLD move as a quotation charges them (R191), which depend on the group that they name. [DESIGN CHOICE, log 20] -/
opaque contextTraffic : Nat

/-- What a quotation adds, in cycles and fJ, for a kernel with a cycle that a BRB bounds without closing it, by the kernel's
code digest: R47 gives such a cycle no charge. [DESIGN CHOICE, log 20] -/
opaque irregularCharge : DWord → Nat × Nat

/-- The last level walked of a translation that walked none (R70, R303): an address that no die translates. [DESIGN CHOICE, log 90] -/
opaque unwalkedLevel : Fin 8

/-- The LEN of a fault record for an instruction whose first parcel could not be fetched (R303). [DESIGN CHOICE, log 90] -/
opaque unfetchedWide : Bool

end Sys2Proof.Config
end

