-- ==== Sys2Proof/Syntax.lean ====
section
/-! DEFINITION. The syntax: one constructor for every row of the table of operations and events.

The first 200 constructors are the 32-bit instructions of R128 to R140, the next sixteen the compact forms of R133;
the rest are the events, commands, doorbells and messages of the table, each whole and indivisible.
`st` is STALL (R125), `la`, `lb` and `ld` are the LAST bits (R126). -/
namespace Sys2Proof

/-- A mixed field (R127): a lane register V0-V63 or a uniform register S0-S63. -/
inductive Mixed where
  | v (r : Fin 64)
  | s (r : Fin 64)
  deriving DecidableEq, Repr

/-- The conditions of ICMP (R138, R201). -/
inductive ICnd where
  | eq | ne | lt | le | gt | ge
  deriving DecidableEq, Repr

/-- The conditions of FCMP (R203). -/
inductive FCnd where
  | eq | ne | lt | le | gt | ge | un | or
  deriving DecidableEq, Repr

/-- Rounding modes, with the values of R138 and of RND in R82. -/
inductive RMode where
  | rn | rz | rp | rm
  deriving DecidableEq, Repr

/-- The atomic operations of R132 and R225. -/
inductive Aop where
  | addN32 | minI32 | minN32 | maxI32 | maxN32 | and | or | xor | exch | cas | addF32
  deriving DecidableEq, Repr

/-- The orderings of R99 and R132. -/
inductive MemOrd where
  | rlx | acq | rel | ar
  deriving DecidableEq, Repr

/-- The orderings a FENCE takes (R104, R139). -/
inductive FenceOrd where
  | acq | rel | ar
  deriving DecidableEq, Repr

/-- The scopes of R98, narrowest first. -/
inductive Scope where
  | thr | grp | team | core | die | dev | sys
  deriving DecidableEq, Repr

/-- Who issues an instruction: a group of a core, or the matrix or copy stream on a core's sequencers (R268). -/
inductive Agent where
  | group (core : Fin 128) (gid : Fin 128)
  | stream (core : Fin 128) (copy : Bool)
  deriving DecidableEq, Repr

/-- How a CXL or peer completion ends (R313). -/
inductive CxlStatus where
  | ok | abort | unsupported | poisoned
  deriving DecidableEq, Repr

/-- A register that software writes: a privileged register by selector (R296, R361, R392, R395), a front-end aperture
register by offset (R315, R351, R371, R398), or a mailbox register (R385). -/
inductive RegAddr where
  | core (c : Fin 128) (sel : BitVec 10)
  | die (d : Fin 4) (sel : BitVec 10)
  | frontEnd (d : Fin 4) (off : BitVec 16)
  | mailbox (off : BitVec 16)
  deriving DecidableEq, Repr

/-- A word of an ECC-protected array (R390): the array number, the global core or die it belongs to, and ADDR. -/
structure ArrayLoc where
  arr : Fin 8
  core : Fin 128
  addr : BitVec 48
  deriving DecidableEq, Repr

/-- The operations and events of the ZQ-4128. -/
inductive Instr where
  /-- SADD (R167). Writes the 64-bit wrapping sum of two uniform registers to a uniform register. -/
  | sadd (d : Fin 128) (a : Fin 128) (b : Fin 128) (st : Fin 8)
  /-- SSUB (R167). Writes the 64-bit wrapping difference of two uniform registers. -/
  | ssub (d : Fin 128) (a : Fin 128) (b : Fin 128) (st : Fin 8)
  /-- SMUL (R167). Writes the low 64 bits of the product of two uniform registers. -/
  | smul (d : Fin 128) (a : Fin 128) (b : Fin 128) (st : Fin 8)
  /-- SMULH (R167). Writes the high 64 bits of the signed 128-bit product of two uniform registers. -/
  | smulh (d : Fin 128) (a : Fin 128) (b : Fin 128) (st : Fin 8)
  /-- SAND (R167). Writes the bitwise AND of two uniform registers. -/
  | sand (d : Fin 128) (a : Fin 128) (b : Fin 128) (st : Fin 8)
  /-- SOR (R167). Writes the bitwise OR of two uniform registers. -/
  | sor (d : Fin 128) (a : Fin 128) (b : Fin 128) (st : Fin 8)
  /-- SXOR (R167). Writes the bitwise XOR of two uniform registers. -/
  | sxor (d : Fin 128) (a : Fin 128) (b : Fin 128) (st : Fin 8)
  /-- SSHL (R167). Shifts a uniform register left by a 6-bit count. -/
  | sshl (d : Fin 128) (a : Fin 128) (b : Fin 128) (st : Fin 8)
  /-- SSHR (R167). Shifts a uniform register right logically by a 6-bit count. -/
  | sshr (d : Fin 128) (a : Fin 128) (b : Fin 128) (st : Fin 8)
  /-- SSRA (R167). Shifts a uniform register right arithmetically by a 6-bit count. -/
  | ssra (d : Fin 128) (a : Fin 128) (b : Fin 128) (st : Fin 8)
  /-- SMIN.I64 (R167). Writes the signed minimum of two uniform registers. -/
  | sminI64 (d : Fin 128) (a : Fin 128) (b : Fin 128) (st : Fin 8)
  /-- SMAX.I64 (R167). Writes the signed maximum of two uniform registers. -/
  | smaxI64 (d : Fin 128) (a : Fin 128) (b : Fin 128) (st : Fin 8)
  /-- SCMP (R168). Writes the relation word comparing two uniform registers. -/
  | scmp (d : Fin 128) (a : Fin 128) (b : Fin 128) (st : Fin 8)
  /-- SSEL (R167). Selects S[a] or S[b] by whether the old S[d] is non-zero. -/
  | ssel (d : Fin 128) (a : Fin 128) (b : Fin 128) (st : Fin 8)
  /-- SMIN.N64 (R167). Writes the unsigned minimum of two uniform registers. -/
  | sminN64 (d : Fin 128) (a : Fin 128) (b : Fin 128) (st : Fin 8)
  /-- SMAX.N64 (R167). Writes the unsigned maximum of two uniform registers. -/
  | smaxN64 (d : Fin 128) (a : Fin 128) (b : Fin 128) (st : Fin 8)
  /-- SRDL (R172). Reads one lane's register, chosen by S[b], into a uniform register. -/
  | srdl (d : Fin 128) (a : Fin 64) (b : Fin 128) (st : Fin 8)
  /-- SMOV (R169). Copies one uniform register to another. -/
  | smov (d : Fin 128) (a : Fin 128) (st : Fin 8)
  /-- SPOPC (R169). Writes the number of set bits of a uniform register. -/
  | spopc (d : Fin 128) (a : Fin 128) (st : Fin 8)
  /-- SCLZ (R169). Writes the leading-zero count of a uniform register. -/
  | sclz (d : Fin 128) (a : Fin 128) (st : Fin 8)
  /-- SETW (R18). Requests a narrower width from a register, splitting the group if allowed, and writes the grant. -/
  | setwReg (d : Fin 128) (a : Fin 128) (st : Fin 8)
  /-- SETW (R18). Requests a narrower width from an immediate, splitting the group if allowed, and writes the grant. -/
  | setwImm (d : Fin 128) (imm : BitVec 7) (st : Fin 8)
  /-- GETW (R19). Writes the group's current grant to a uniform register. -/
  | getw (d : Fin 128) (st : Fin 8)
  /-- TID (R182). Writes each active lane's thread index to a lane register. -/
  | tid (d : Fin 64) (st : Fin 8)
  /-- HLANE (R182). Writes each active lane's home lane to a lane register. -/
  | hlane (d : Fin 64) (st : Fin 8)
  /-- RANK (R182). Writes each active lane's rank among the lanes in ACT. -/
  | rank (d : Fin 64) (st : Fin 8)
  /-- TEAM (R182). Writes each active lane's team coordinate on the named axis. -/
  | team (d : Fin 64) (axis : Fin 3) (st : Fin 8)
  /-- GRID (R182). Writes the team's grid coordinate on the named axis to a uniform register. -/
  | grid (d : Fin 128) (axis : Fin 3) (st : Fin 8)
  /-- GID (R182). Writes the group number on the core. -/
  | gid (d : Fin 128) (st : Fin 8)
  /-- CORE (R182). Writes the global number of the core holding the group. -/
  | core (d : Fin 128) (st : Fin 8)
  /-- DIE (R182). Writes the die number of the core holding the group. -/
  | die (d : Fin 128) (st : Fin 8)
  /-- CYC (R183). Reads the die's cycle counter into a uniform register. -/
  | cyc (d : Fin 128) (st : Fin 8)
  /-- REFT (R183). Reads the package reference timer into a uniform register. -/
  | reft (d : Fin 128) (st : Fin 8)
  /-- XFRD (R219). Waits for earlier instructions and reads XFLAGS into a uniform register. -/
  | xfrd (d : Fin 128) (st : Fin 8)
  /-- XFCLR (R219). Waits for earlier instructions and clears the masked XFLAGS bits. -/
  | xfclr (mask : BitVec 6) (st : Fin 8)
  /-- SLI (R170). Writes a sign-extended 14-bit immediate to a uniform register. -/
  | sli (d : Fin 128) (imm : BitVec 14) (st : Fin 8)
  /-- SLIH (R170). Shifts a uniform register left by 14 and inserts a 14-bit immediate. -/
  | slih (d : Fin 128) (imm : BitVec 14) (st : Fin 8)
  /-- SLD (R171). Loads 8 bytes of pool scratch into a uniform register. -/
  | sld (d : Fin 128) (a : Fin 128) (imm : BitVec 7) (st : Fin 8)
  /-- SST (R171). Stores a uniform register to 8 bytes of pool scratch. -/
  | sst (d : Fin 128) (a : Fin 128) (imm : BitVec 7) (st : Fin 8)
  /-- CRR (R186). Reads a privileged register into a uniform register. -/
  | crr (s : Fin 64) (sel : BitVec 10) (st : Fin 8)
  /-- CRW (R186). Writes a privileged register from a uniform register. -/
  | crw (s : Fin 64) (sel : BitVec 10) (st : Fin 8)
  /-- XLINV (R187). Checks operands and hands a TLB invalidation of a range to its home die. -/
  | xlinv (s : Fin 64) (st : Fin 8)
  /-- CTXSV (R188). Saves a stopped group's context and frees its slots. -/
  | ctxsv (s : Fin 64) (st : Fin 8)
  /-- CTXLD (R189). Checks and loads a saved context onto the executing core. -/
  | ctxld (s : Fin 64) (st : Fin 8)
  /-- ERET (R302). Returns the handler's lanes to the kernel at the resume offset. -/
  | eret (st : Fin 8)
  /-- IDLE (R190). Stops the group's issue until a notify, fault record or timer match. -/
  | idle (st : Fin 8)
  /-- BRC (R173). Moves each active lane to the target or the next address by its mask bit. -/
  | brc (off : BitVec 16) (k : Fin 8) (neg : Bool) (st : Fin 8)
  /-- BRU (R174). Branches all active lanes by whether a uniform register is non-zero. -/
  | bru (off : BitVec 13) (s : Fin 64) (neg : Bool) (st : Fin 8)
  /-- BRM (R175). Divergent branch at which eligible groups wait and may be regrouped. -/
  | brm (off : BitVec 16) (k : Fin 8) (neg : Bool) (st : Fin 8)
  /-- BRB (R37). Counts a loop trip against its declared bound and branches by mask. -/
  | brb (off : BitVec 12) (k : Fin 8) (lid : Fin 64) (st : Fin 8)
  /-- LENTER (R176). Sets a loop counter of the group to zero. -/
  | lenter (lid : Fin 64) (st : Fin 8)
  /-- CALL (R177). Calls a subroutine, writing the link register and raising call depth. -/
  | call (off : BitVec 21) (st : Fin 8)
  /-- CALLI (R178). Calls each lane's register target after checking the declared set and depth. -/
  | calli (a : Fin 64) (la : Bool) (st : Fin 8)
  /-- NOP (R180). Advances the active lanes' LPC and does nothing else. -/
  | nop (st : Fin 8)
  /-- RCV (R28). Switches the group out while any lane is parked, else advances the active lanes. -/
  | rcv (st : Fin 8)
  /-- EXIT (R35). Marks the active lanes exited, ending the group or team when none remain. -/
  | exit (st : Fin 8)
  /-- RET (R179). Returns each active lane to its link register, or ends it at depth 0. -/
  | ret (st : Fin 8)
  /-- TRAP (R180). Advances the lanes and delivers them to the trap path with a trap code. -/
  | trap (code : BitVec 8) (st : Fin 8)
  /-- BRK (R180). Delivers a breakpoint to the trap path when debug is enabled, else acts as NOP. -/
  | brk (st : Fin 8)
  /-- YIELD (R180). Advances the lanes and gives the next issue to other ready groups first. -/
  | yield (st : Fin 8)
  /-- IADD (R195). Writes the 32-bit wrapping sum per lane. -/
  | iadd (d : Fin 64) (a : Fin 64) (b : Mixed) (la : Bool) (lb : Bool) (st : Fin 8)
  /-- ISUB (R195). Writes the 32-bit wrapping difference per lane. -/
  | isub (d : Fin 64) (a : Fin 64) (b : Mixed) (la : Bool) (lb : Bool) (st : Fin 8)
  /-- IMUL (R195). Writes the low 32 bits of the product per lane. -/
  | imul (d : Fin 64) (a : Fin 64) (b : Mixed) (la : Bool) (lb : Bool) (st : Fin 8)
  /-- IMULH.I32 (R195). Writes the high 32 bits of the signed product per lane. -/
  | imulhI32 (d : Fin 64) (a : Fin 64) (b : Mixed) (la : Bool) (lb : Bool) (st : Fin 8)
  /-- IMULH.N32 (R195). Writes the high 32 bits of the unsigned product per lane. -/
  | imulhN32 (d : Fin 64) (a : Fin 64) (b : Mixed) (la : Bool) (lb : Bool) (st : Fin 8)
  /-- IMAD (R195). Writes the product plus the old destination per lane. -/
  | imad (d : Fin 64) (a : Fin 64) (b : Mixed) (la : Bool) (lb : Bool) (st : Fin 8)
  /-- IADD64 (R197). Adds 64-bit values held in register pairs per lane. -/
  | iadd64 (d : Fin 64) (a : Fin 64) (b : Mixed) (la : Bool) (lb : Bool) (st : Fin 8)
  /-- LEA (R195). Writes base plus four times the index per lane. -/
  | lea (d : Fin 64) (a : Fin 64) (b : Mixed) (la : Bool) (lb : Bool) (st : Fin 8)
  /-- IMIN.I32 (R195). Writes the signed minimum per lane. -/
  | iminI32 (d : Fin 64) (a : Fin 64) (b : Mixed) (la : Bool) (lb : Bool) (st : Fin 8)
  /-- IMIN.N32 (R195). Writes the unsigned minimum per lane. -/
  | iminN32 (d : Fin 64) (a : Fin 64) (b : Mixed) (la : Bool) (lb : Bool) (st : Fin 8)
  /-- IMAX.I32 (R195). Writes the signed maximum per lane. -/
  | imaxI32 (d : Fin 64) (a : Fin 64) (b : Mixed) (la : Bool) (lb : Bool) (st : Fin 8)
  /-- IMAX.N32 (R195). Writes the unsigned maximum per lane. -/
  | imaxN32 (d : Fin 64) (a : Fin 64) (b : Mixed) (la : Bool) (lb : Bool) (st : Fin 8)
  /-- AND (R195). Writes the bitwise AND per lane. -/
  | and (d : Fin 64) (a : Fin 64) (b : Mixed) (la : Bool) (lb : Bool) (st : Fin 8)
  /-- OR (R195). Writes the bitwise OR per lane. -/
  | or (d : Fin 64) (a : Fin 64) (b : Mixed) (la : Bool) (lb : Bool) (st : Fin 8)
  /-- XOR (R195). Writes the bitwise XOR per lane. -/
  | xor (d : Fin 64) (a : Fin 64) (b : Mixed) (la : Bool) (lb : Bool) (st : Fin 8)
  /-- MOV (R196). Copies operand B into the destination per lane. -/
  | mov (d : Fin 64) (b : Mixed) (lb : Bool) (st : Fin 8)
  /-- SHL (R195). Shifts left per lane, giving 0 for counts of 32 or more. -/
  | shl (d : Fin 64) (a : Fin 64) (b : Mixed) (la : Bool) (lb : Bool) (st : Fin 8)
  /-- SHR (R195). Shifts right logically per lane. -/
  | shr (d : Fin 64) (a : Fin 64) (b : Mixed) (la : Bool) (lb : Bool) (st : Fin 8)
  /-- SRA (R195). Shifts right arithmetically per lane. -/
  | sra (d : Fin 64) (a : Fin 64) (b : Mixed) (la : Bool) (lb : Bool) (st : Fin 8)
  /-- ROT (R195). Rotates left per lane by a 5-bit count. -/
  | rot (d : Fin 64) (a : Fin 64) (b : Mixed) (la : Bool) (lb : Bool) (st : Fin 8)
  /-- BFE.I32 (R198). Extracts a sign-extended bit field per lane. -/
  | bfeI32 (d : Fin 64) (a : Fin 64) (b : Mixed) (la : Bool) (lb : Bool) (st : Fin 8)
  /-- BFE.N32 (R198). Extracts a zero-extended bit field per lane. -/
  | bfeN32 (d : Fin 64) (a : Fin 64) (b : Mixed) (la : Bool) (lb : Bool) (st : Fin 8)
  /-- BFI (R198). Inserts a bit field into the old destination per lane. -/
  | bfi (d : Fin 64) (a : Fin 64) (b : Mixed) (la : Bool) (lb : Bool) (st : Fin 8)
  /-- IABS (R199). Writes the signed absolute value per lane. -/
  | iabs (d : Fin 64) (a : Fin 64) (la : Bool) (st : Fin 8)
  /-- INEG (R199). Writes the two's-complement negation per lane. -/
  | ineg (d : Fin 64) (a : Fin 64) (la : Bool) (st : Fin 8)
  /-- NOT (R199). Writes the bitwise complement per lane. -/
  | not (d : Fin 64) (a : Fin 64) (la : Bool) (st : Fin 8)
  /-- POPC (R199). Writes the number of set bits per lane. -/
  | popc (d : Fin 64) (a : Fin 64) (la : Bool) (st : Fin 8)
  /-- CLZ (R199). Writes the leading-zero count per lane. -/
  | clz (d : Fin 64) (a : Fin 64) (la : Bool) (st : Fin 8)
  /-- BREV (R199). Writes the bit-reversed word per lane. -/
  | brev (d : Fin 64) (a : Fin 64) (la : Bool) (st : Fin 8)
  /-- FABS (R208). Clears the sign bit of a binary32 value per lane. -/
  | fabs (d : Fin 64) (a : Fin 64) (la : Bool) (st : Fin 8)
  /-- FNEG (R208). Inverts the sign bit of a binary32 value per lane. -/
  | fneg (d : Fin 64) (a : Fin 64) (la : Bool) (st : Fin 8)
  /-- FCLASS (R208). Writes the class bit of a binary32 value per lane. -/
  | fclass (d : Fin 64) (a : Fin 64) (la : Bool) (st : Fin 8)
  /-- FRND.RN (R208). Rounds a binary32 value to an integral value, nearest even. -/
  | frndRn (d : Fin 64) (a : Fin 64) (la : Bool) (st : Fin 8)
  /-- FRND.RZ (R208). Rounds a binary32 value to an integral value toward zero. -/
  | frndRz (d : Fin 64) (a : Fin 64) (la : Bool) (st : Fin 8)
  /-- FRND.RP (R208). Rounds a binary32 value to an integral value toward +infinity. -/
  | frndRp (d : Fin 64) (a : Fin 64) (la : Bool) (st : Fin 8)
  /-- FRND.RM (R208). Rounds a binary32 value to an integral value toward -infinity. -/
  | frndRm (d : Fin 64) (a : Fin 64) (la : Bool) (st : Fin 8)
  /-- FRCP (R206). Writes the correctly rounded reciprocal per lane. -/
  | frcp (d : Fin 64) (a : Fin 64) (la : Bool) (st : Fin 8)
  /-- FRSQ (R206). Writes the correctly rounded reciprocal square root per lane. -/
  | frsq (d : Fin 64) (a : Fin 64) (la : Bool) (st : Fin 8)
  /-- FSQRT (R206). Writes the correctly rounded square root per lane. -/
  | fsqrt (d : Fin 64) (a : Fin 64) (la : Bool) (st : Fin 8)
  /-- FEXP2 (R206). Writes the correctly rounded power of two per lane. -/
  | fexp2 (d : Fin 64) (a : Fin 64) (la : Bool) (st : Fin 8)
  /-- FLOG2 (R206). Writes the correctly rounded base-2 logarithm per lane. -/
  | flog2 (d : Fin 64) (a : Fin 64) (la : Bool) (st : Fin 8)
  /-- FSIN (R206). Writes the correctly rounded sine per lane. -/
  | fsin (d : Fin 64) (a : Fin 64) (la : Bool) (st : Fin 8)
  /-- FCOS (R206). Writes the correctly rounded cosine per lane. -/
  | fcos (d : Fin 64) (a : Fin 64) (la : Bool) (st : Fin 8)
  /-- ISEL (R204). Writes B into the destination in lanes whose mask bit is set. -/
  | isel (d : Fin 64) (k : Fin 8) (b : Mixed) (lb : Bool) (st : Fin 8)
  /-- FSEL (R204). Writes B into the destination in lanes whose mask bit is set, as a float-class move. -/
  | fsel (d : Fin 64) (k : Fin 8) (b : Mixed) (lb : Bool) (st : Fin 8)
  /-- ICMP.I32.cnd (R201). Writes a mask bit per lane from a signed integer comparison. -/
  | icmpI32 (kd : Fin 7) (cnd : ICnd) (a : Fin 64) (b : Mixed) (la : Bool) (lb : Bool) (st : Fin 8)
  /-- ICMP.N32.cnd (R201). Writes a mask bit per lane from an unsigned integer comparison. -/
  | icmpN32 (kd : Fin 7) (cnd : ICnd) (a : Fin 64) (b : Mixed) (la : Bool) (lb : Bool) (st : Fin 8)
  /-- FCMP.cnd (R203). Writes a mask bit per lane from a binary32 comparison. -/
  | fcmp (kd : Fin 7) (cnd : FCnd) (a : Fin 64) (b : Mixed) (la : Bool) (lb : Bool) (st : Fin 8)
  /-- VOTE (R202). Writes a mask bit per active lane from whether its register is non-zero. -/
  | vote (kd : Fin 7) (a : Fin 64) (la : Bool) (st : Fin 8)
  /-- KAND (R205). ANDs two masks at the active positions. -/
  | kand (kd : Fin 7) (ka : Fin 8) (kb : Fin 8) (st : Fin 8)
  /-- KOR (R205). ORs two masks at the active positions. -/
  | kor (kd : Fin 7) (ka : Fin 8) (kb : Fin 8) (st : Fin 8)
  /-- KXOR (R205). XORs two masks at the active positions. -/
  | kxor (kd : Fin 7) (ka : Fin 8) (kb : Fin 8) (st : Fin 8)
  /-- KNOT (R205). Complements a mask at the active positions. -/
  | knot (kd : Fin 7) (ka : Fin 8) (st : Fin 8)
  /-- KMOV (R205). Copies a mask at the active positions. -/
  | kmov (kd : Fin 7) (ka : Fin 8) (st : Fin 8)
  /-- KPOPC (R205). Counts the set bits of a mask over ACT into a uniform register. -/
  | kpopc (sd : Fin 128) (ka : Fin 8) (st : Fin 8)
  /-- FADD (R206). Writes the rounded binary32 sum per lane. -/
  | fadd (d : Fin 64) (a : Fin 64) (b : Mixed) (la : Bool) (lb : Bool) (st : Fin 8)
  /-- FSUB (R206). Writes the rounded binary32 difference per lane. -/
  | fsub (d : Fin 64) (a : Fin 64) (b : Mixed) (la : Bool) (lb : Bool) (st : Fin 8)
  /-- FMUL (R206). Writes the rounded binary32 product per lane. -/
  | fmul (d : Fin 64) (a : Fin 64) (b : Mixed) (la : Bool) (lb : Bool) (st : Fin 8)
  /-- FFMA (R206). Writes a × b + old destination with one rounding per lane. -/
  | ffma (d : Fin 64) (a : Fin 64) (b : Mixed) (la : Bool) (lb : Bool) (st : Fin 8)
  /-- FMIN (R207). Writes the binary32 minimum per lane. -/
  | fmin (d : Fin 64) (a : Fin 64) (b : Mixed) (la : Bool) (lb : Bool) (st : Fin 8)
  /-- FMAX (R207). Writes the binary32 maximum per lane. -/
  | fmax (d : Fin 64) (a : Fin 64) (b : Mixed) (la : Bool) (lb : Bool) (st : Fin 8)
  /-- FDIV (R206). Writes the correctly rounded binary32 quotient per lane. -/
  | fdiv (d : Fin 64) (a : Fin 64) (b : Mixed) (la : Bool) (lb : Bool) (st : Fin 8)
  /-- HADD2 (R209). Adds two packed binary16 halves independently per lane. -/
  | hadd2 (d : Fin 64) (a : Fin 64) (b : Mixed) (la : Bool) (lb : Bool) (st : Fin 8)
  /-- HMUL2 (R209). Multiplies two packed binary16 halves independently per lane. -/
  | hmul2 (d : Fin 64) (a : Fin 64) (b : Mixed) (la : Bool) (lb : Bool) (st : Fin 8)
  /-- HFMA2 (R209). Fused multiply-adds two packed binary16 halves per lane. -/
  | hfma2 (d : Fin 64) (a : Fin 64) (b : Mixed) (la : Bool) (lb : Bool) (st : Fin 8)
  /-- CVT.FMTn.NARROW (R210). Rounds binary32 to the format of a slot per lane. -/
  | cvtNarrow (fs : Fin 8) (d : Fin 64) (a : Fin 64) (la : Bool) (st : Fin 8)
  /-- CVT.FMTn.WIDEN (R210). Decodes a slot-format value to binary32 per lane. -/
  | cvtWiden (fs : Fin 8) (d : Fin 64) (a : Fin 64) (la : Bool) (st : Fin 8)
  /-- CVTI.I32.rm (R210). Converts binary32 to a 32-bit integer in the instruction's mode. -/
  | cvti (mode : RMode) (signed : Bool) (d : Fin 64) (a : Fin 64) (la : Bool) (st : Fin 8)
  /-- CVTF.I32.rm (R210). Converts a 32-bit integer to binary32 in the instruction's mode. -/
  | cvtf (mode : RMode) (signed : Bool) (d : Fin 64) (a : Fin 64) (la : Bool) (st : Fin 8)
  /-- PK8.FMTn.Ek (R210). Rounds binary32 into one byte of the destination in a P3109 slot format. -/
  | pk8 (fs : Fin 8) (e : Fin 4) (d : Fin 64) (a : Fin 64) (la : Bool) (st : Fin 8)
  /-- UPK8.FMTn.Ek (R210). Decodes one 8-bit element to binary32. -/
  | upk8 (fs : Fin 8) (e : Fin 4) (d : Fin 64) (a : Fin 64) (la : Bool) (st : Fin 8)
  /-- PK4.FMTn.Ek (R210). Rounds binary32 into one nibble of the destination in a 4-bit slot format. -/
  | pk4 (fs : Fin 8) (e : Fin 8) (d : Fin 64) (a : Fin 64) (la : Bool) (st : Fin 8)
  /-- UPK4.FMTn.Ek (R210). Decodes one 4-bit element to binary32. -/
  | upk4 (fs : Fin 8) (e : Fin 8) (d : Fin 64) (a : Fin 64) (la : Bool) (st : Fin 8)
  /-- SHFL (R213). Reads the register of the lane at an indexed position. -/
  | shfl (d : Fin 64) (a : Fin 64) (b : Mixed) (la : Bool) (lb : Bool) (st : Fin 8)
  /-- SHFLUP (R213). Reads the register of the lane n positions lower. -/
  | shflup (d : Fin 64) (a : Fin 64) (b : Mixed) (la : Bool) (lb : Bool) (st : Fin 8)
  /-- SHFLDN (R213). Reads the register of the lane n positions higher. -/
  | shfldn (d : Fin 64) (a : Fin 64) (b : Mixed) (la : Bool) (lb : Bool) (st : Fin 8)
  /-- SHFLX (R213). Reads the register of the lane at position p XOR n. -/
  | shflx (d : Fin 64) (a : Fin 64) (b : Mixed) (la : Bool) (lb : Bool) (st : Fin 8)
  /-- BCAST (R214). Broadcasts one active lane's register to all active lanes. -/
  | bcast (d : Fin 64) (a : Fin 64) (b : Mixed) (la : Bool) (lb : Bool) (st : Fin 8)
  /-- REDADD.N32 (R216). Reduces by integer addition over the canonical tree of the group. -/
  | redaddN32 (d : Fin 64) (a : Fin 64) (la : Bool) (st : Fin 8)
  /-- REDADD.F32 (R216). Reduces by binary32 addition over the canonical tree of the group. -/
  | redaddF32 (d : Fin 64) (a : Fin 64) (la : Bool) (st : Fin 8)
  /-- REDMIN.I32 (R216). Reduces by signed minimum over the group. -/
  | redminI32 (d : Fin 64) (a : Fin 64) (la : Bool) (st : Fin 8)
  /-- REDMIN.N32 (R216). Reduces by unsigned minimum over the group. -/
  | redminN32 (d : Fin 64) (a : Fin 64) (la : Bool) (st : Fin 8)
  /-- REDMIN.F32 (R216). Reduces by FMIN over the group. -/
  | redminF32 (d : Fin 64) (a : Fin 64) (la : Bool) (st : Fin 8)
  /-- REDMAX.I32 (R216). Reduces by signed maximum over the group. -/
  | redmaxI32 (d : Fin 64) (a : Fin 64) (la : Bool) (st : Fin 8)
  /-- REDMAX.N32 (R216). Reduces by unsigned maximum over the group. -/
  | redmaxN32 (d : Fin 64) (a : Fin 64) (la : Bool) (st : Fin 8)
  /-- REDMAX.F32 (R216). Reduces by FMAX over the group. -/
  | redmaxF32 (d : Fin 64) (a : Fin 64) (la : Bool) (st : Fin 8)
  /-- SCANADD.N32 (R217). Inclusive integer scan over canonical subtrees with a carry-in. -/
  | scanaddN32 (d : Fin 64) (a : Fin 64) (la : Bool) (st : Fin 8)
  /-- SCANADD.F32 (R217). Inclusive binary32 scan over canonical subtrees with a carry-in. -/
  | scanaddF32 (d : Fin 64) (a : Fin 64) (la : Bool) (st : Fin 8)
  /-- SCANADD.N32.EXC (R217). Exclusive integer scan over canonical subtrees with a carry-in. -/
  | scanaddN32Exc (d : Fin 64) (a : Fin 64) (la : Bool) (st : Fin 8)
  /-- SCANADD.F32.EXC (R217). Exclusive binary32 scan over canonical subtrees with a carry-in. -/
  | scanaddF32Exc (d : Fin 64) (a : Fin 64) (la : Bool) (st : Fin 8)
  /-- MATCH (R215). Writes each lane the lowest active position holding an equal value. -/
  | matchV (d : Fin 64) (a : Fin 64) (la : Bool) (st : Fin 8)
  /-- PLD (R222). Loads 4 bytes of pool scratch per lane. -/
  | pld (d : Fin 64) (a : Fin 64) (imm : BitVec 7) (la : Bool) (st : Fin 8)
  /-- PST (R222). Stores 4 bytes to pool scratch per lane in ascending home-lane order. -/
  | pst (d : Fin 64) (a : Fin 64) (imm : BitVec 7) (la : Bool) (ld : Bool) (st : Fin 8)
  /-- PLDW.X2 (R222). Loads 8 or 16 bytes of pool scratch into a register group per lane. -/
  | pldw (x4 : Bool) (d : Fin 64) (a : Fin 64) (imm : BitVec 6) (la : Bool) (st : Fin 8)
  /-- PSTW.X2 (R222). Stores a register group of 8 or 16 bytes to pool scratch per lane. -/
  | pstw (x4 : Bool) (d : Fin 64) (a : Fin 64) (imm : BitVec 6) (la : Bool) (ld : Bool) (st : Fin 8)
  /-- PATOM.aop.ord (R224). Performs a team-scope atomic on a pool word per lane, returning the old value. -/
  | patom (aop : Aop) (ord : MemOrd) (d : Fin 64) (a : Fin 64) (la : Bool) (st : Fin 8)
  /-- BAR (R237). Arrives at a barrier for each active lane and waits for the phase to complete. -/
  | bar (bar : Fin 16) (st : Fin 8)
  /-- BARA (R237). Arrives at a barrier for each active lane without waiting. -/
  | bara (bar : Fin 16) (st : Fin 8)
  /-- BARD (R237). Arrives and drops each active thread from later phases of a barrier. -/
  | bard (bar : Fin 16) (st : Fin 8)
  /-- BARW (R237). Waits until no active thread has arrived in the current phase, then writes PHASE. -/
  | barw (bar : Fin 16) (s : Fin 64) (st : Fin 8)
  /-- BARX (R237). Arrives a counted number of untied arrivals and waits for their phase. -/
  | barx (bar : Fin 16) (s : Fin 64) (st : Fin 8)
  /-- FSET (R240). Sets a team flag as a team-scope release. -/
  | fset (flag : Fin 64) (st : Fin 8)
  /-- FCLR (R240). Clears a team flag as a team-scope release. -/
  | fclr (flag : Fin 64) (st : Fin 8)
  /-- FWAIT (R240). Waits until a team flag is 1 and acquires at team scope. -/
  | fwait (flag : Fin 64) (st : Fin 8)
  /-- FENCE.ord.scope (R234). Orders the thread's accesses at a scope, waiting for the replay queue on release. -/
  | fence (ord : FenceOrd) (sc : Scope) (st : Fin 8)
  /-- XFENCE (R115). Orders data accesses, page-table writes and XLINV completion for the thread. -/
  | xfence (st : Fin 8)
  /-- QLD.ord.scope (R227). Pushes a queue entry and sends one 4-byte load per lane. -/
  | qld (q : Fin 8) (acq : Bool) (sc : Scope) (a : Fin 64) (la : Bool) (st : Fin 8)
  /-- QST.ord.scope (R228). Pushes a queue entry and sends one 4-byte store per lane. -/
  | qst (q : Fin 8) (rel : Bool) (sc : Scope) (a : Fin 64) (d : Fin 64) (la : Bool) (ld : Bool) (st : Fin 8)
  /-- QPF (R232). Asks the home die to translate and prefetch each lane's line. -/
  | qpf (q : Fin 8) (a : Fin 64) (la : Bool) (st : Fin 8)
  /-- QPOP (R230). Moves the oldest load or atomic entry of a queue into lane registers. -/
  | qpop (d : Fin 64) (q : Fin 8) (st : Fin 8)
  /-- QWAIT (R231). Waits until at most cnt entries of a queue are incomplete. -/
  | qwait (q : Fin 8) (cnt : Fin 64) (st : Fin 8)
  /-- QATOM.aop.ord.scope (R229). Pushes a queue entry and sends one memory atomic per lane. -/
  | qatom (aop : Aop) (ord : MemOrd) (sc : Scope) (q : Fin 8) (a : Fin 64) (d : Fin 64) (st : Fin 8)
  /-- CPY (R242). Starts per-lane copies with both addresses offset by the index. -/
  | cpy (ds : Fin 64) (a : Fin 64) (sb : Fin 128) (la : Bool) (st : Fin 8)
  /-- CPYG (R242). Starts per-lane gather copies into a thread-strided destination. -/
  | cpyg (ds : Fin 64) (a : Fin 64) (sb : Fin 128) (la : Bool) (st : Fin 8)
  /-- CPYS (R242). Starts per-lane scatter copies from a thread-strided source. -/
  | cpys (ds : Fin 64) (a : Fin 64) (sb : Fin 128) (la : Bool) (st : Fin 8)
  /-- CSEAL (R244). Seals each active thread's open copy set into a batch with a token. -/
  | cseal (b : Fin 128) (st : Fin 8)
  /-- CBULK.scope (R246). Opens a bulk transfer or marks a slice arrived, starting the copy when all have. -/
  | cbulk (sc : Scope) (a : Fin 128) (b : Fin 128) (st : Fin 8)
  /-- CNTADD.scope (R247). Atomically adds to a counter as a release, saturating. -/
  | cntadd (sc : Scope) (a : Fin 128) (b : Fin 128) (st : Fin 8)
  /-- CNTWAIT.scope (R247). Waits until a counter reaches a target and acquires at its scope. -/
  | cntwait (sc : Scope) (a : Fin 128) (b : Fin 128) (st : Fin 8)
  /-- RPUT.scope (R249). Starts a copy from local memory to a peer aperture with an optional remote add. -/
  | rput (sc : Scope) (a : Fin 128) (b : Fin 128) (st : Fin 8)
  /-- RGET (R249). Starts a copy from a peer aperture to local memory. -/
  | rget (a : Fin 128) (b : Fin 128) (st : Fin 8)
  /-- WQPOP (R250). Removes the oldest work record into eight uniform registers, waiting while empty. -/
  | wqpop (d : Fin 128) (a : Fin 128) (st : Fin 8)
  /-- WQPUSH (R250). Appends eight uniform registers as a work record, releasing at device scope. -/
  | wqpush (d : Fin 128) (a : Fin 128) (st : Fin 8)
  /-- GREC (R251). Reads the firing's next record on an in-edge. -/
  | grec (d : Fin 128) (a : Fin 128) (st : Fin 8)
  /-- GEMIT (R251). Writes the firing's next record on an out-edge. -/
  | gemit (d : Fin 128) (a : Fin 128) (st : Fin 8)
  /-- TCFG (R258). Sets a tile's shape register and zeroes the tile. -/
  | tcfg (t : Fin 16) (a : Fin 128) (st : Fin 8)
  /-- TLD (R259). Loads a configured tile from pool scratch. -/
  | tld (t : Fin 16) (a : Fin 128) (st : Fin 8)
  /-- TST (R259). Stores a configured tile to pool scratch. -/
  | tst (t : Fin 16) (a : Fin 128) (st : Fin 8)
  /-- TZERO (R260). Sets every element of a configured tile to code 0. -/
  | tzero (t : Fin 16) (st : Fin 8)
  /-- TTRN (R260). Writes the transpose of one tile into another. -/
  | ttrn (tx : Fin 16) (ty : Fin 16) (st : Fin 8)
  /-- SCLD (R261). Copies bytes from pool scratch into the scale store. -/
  | scld (a : Fin 128) (st : Fin 8)
  /-- MMA (R263). Adds the block-scaled product of two tiles into the accumulator. -/
  | mma (tx : Fin 16) (ty : Fin 16) (a : Fin 128) (st : Fin 8)
  /-- MMAS (R264). Adds a 2-of-4 sparse tile product into the accumulator. -/
  | mmas (tx : Fin 16) (ty : Fin 16) (a : Fin 128) (st : Fin 8)
  /-- ACCZ (R265). Sets an accumulator range to +0. -/
  | accz (a : Fin 128) (st : Fin 8)
  /-- ACCLD (R265). Copies bytes from scratch into an accumulator range. -/
  | accld (a : Fin 128) (st : Fin 8)
  /-- ACCST.FMTn (R266). Scales and converts an accumulator block into scratch. -/
  | accst (fs : Fin 8) (a : Fin 128) (st : Fin 8)
  /-- MFRD (R267). Reads MFLAGS into a uniform register, optionally clearing it. -/
  | mfrd (d : Fin 128) (clr : Bool) (st : Fin 8)
  /-- FORK (R268). Starts a matrix stream and a copy stream on engine sequencers. -/
  | fork (a : Fin 128) (odd : Bool) (st : Fin 8)
  /-- RDV (R272). Waits until no stream of the team runs and acquires their writes. -/
  | rdv (st : Fin 8)
  /-- MEND (R272). Ends the issuing stream and frees its sequencer. -/
  | mend (st : Fin 8)
  /-- MOV (R200). Compact MOV of one lane register to another. -/
  | movCompact (d : Fin 32) (a : Fin 32) (last : Bool)
  /-- IADD (R200). Compact IADD with the destination as first source. -/
  | iaddCompact (d : Fin 32) (a : Fin 32) (last : Bool)
  /-- ISUB (R200). Compact ISUB with the destination as first source. -/
  | isubCompact (d : Fin 32) (a : Fin 32) (last : Bool)
  /-- IMUL (R200). Compact IMUL with the destination as first source. -/
  | imulCompact (d : Fin 32) (a : Fin 32) (last : Bool)
  /-- AND (R200). Compact AND with the destination as first source. -/
  | andCompact (d : Fin 32) (a : Fin 32) (last : Bool)
  /-- OR (R200). Compact OR with the destination as first source. -/
  | orCompact (d : Fin 32) (a : Fin 32) (last : Bool)
  /-- XOR (R200). Compact XOR with the destination as first source. -/
  | xorCompact (d : Fin 32) (a : Fin 32) (last : Bool)
  /-- SHL (R200). Compact SHL with the destination as first source. -/
  | shlCompact (d : Fin 32) (a : Fin 32) (last : Bool)
  /-- SHR (R200). Compact SHR with the destination as first source. -/
  | shrCompact (d : Fin 32) (a : Fin 32) (last : Bool)
  /-- SRA (R200). Compact SRA with the destination as first source. -/
  | sraCompact (d : Fin 32) (a : Fin 32) (last : Bool)
  /-- FADD (R200). Compact FADD with the destination as first source. -/
  | faddCompact (d : Fin 32) (a : Fin 32) (last : Bool)
  /-- FSUB (R200). Compact FSUB with the destination as first source. -/
  | fsubCompact (d : Fin 32) (a : Fin 32) (last : Bool)
  /-- FMUL (R200). Compact FMUL with the destination as first source. -/
  | fmulCompact (d : Fin 32) (a : Fin 32) (last : Bool)
  /-- FMIN (R200). Compact FMIN with the destination as first source. -/
  | fminCompact (d : Fin 32) (a : Fin 32) (last : Bool)
  /-- FMAX (R200). Compact FMAX with the destination as first source. -/
  | fmaxCompact (d : Fin 32) (a : Fin 32) (last : Bool)
  /-- LEA (R200). Compact LEA with the destination as base. -/
  | leaCompact (d : Fin 32) (a : Fin 32) (last : Bool)
  /-- BRM_WINDOW_EXPIRY (R31). The 256-cycle BRM wait window expires and the waiting groups form the regroup set. -/
  | brmWindowExpiry (core : Fin 128) (slot : Fin 16)
  /-- WAIT_TIMEOUT (R40). A declared wait bound elapses and every lane in ACT faults with WAITOUT. -/
  | waitTimeout (who : Agent)
  /-- CORE_RESERVE_LOAN (R62). With no group able to issue, the core lends its reserve to the oldest enlargement-stalled group. -/
  | coreReserveLoan (core : Fin 128)
  /-- TLB_TRANSLATE (R310). A request arriving at the home die's TLB is translated, walking the tables on a miss. -/
  | tlbTranslate (id : Nat)
  /-- ACCESS_PERFORM (R95). An access arrives at its point of coherence and performs in coherence order. -/
  | accessPerform (id : Nat)
  /-- RESPONSE_ARRIVAL (R74). A lane's load or atomic data arrives, filling its slot and freeing its outstanding request. -/
  | responseArrival (id : Nat)
  /-- REMOTE_SCOPE_PROMOTION (R102). An acquire meeting another core's tag is held while that core completes its releases at the wider scope. -/
  | remoteScopePromotion (id : Nat)
  /-- TOKEN_WRITE (R109). An asynchronous operation completes and its token register is written with a status. -/
  | tokenWrite (id : Nat)
  /-- XLINV_COMPLETION (R114). Once every access under the dropped entries has performed, the home die adds 1 to the completion counter. -/
  | xlinvCompletion (id : Nat)
  /-- THAW_RETRANSLATE (R401). Accesses held at a frozen entry translate again after thaw or invalidation, in arrival order. -/
  | thawRetranslate (id : Nat)
  /-- COPY_TRANSFER_PAGE (R120). The copy engine performs one transfer page of a copy in ascending destination order. -/
  | copyTransferPage (id : Nat)
  /-- COPY_COMPLETION (R121). After its last page the copy writes its status word and then its token or counter add. -/
  | copyCompletion (id : Nat)
  /-- CXL_COMPLETION (R313). A CXL or peer completion arrives and completes or faults its access. -/
  | cxlCompletion (id : Nat) (status : CxlStatus) (data : DWord)
  /-- IDLE_WAKE (R190). A notify write, fault record or timer match resumes an IDLE group's issue. -/
  | idleWake (core : Fin 128) (gid : Fin 128)
  /-- MATRIX_INSTRUCTION_COMPLETE (R255). A matrix instruction's E cycles end and its issuer is released. -/
  | matrixInstructionComplete (core : Fin 128)
  /-- FIRING_DISPATCH (R289). A firing-table entry is dispatched once its input records are committed and its output room exists. -/
  | firingDispatch (graph : Nat)
  /-- FIRING_COMMIT (R290). A completed firing commits after earlier firings of its stage, raising P and C counts. -/
  | firingCommit (graph : Nat) (firing : Nat)
  /-- REBIND_SWAP (R291). At a whole-period point the device swaps to the new firing table. -/
  | rebindSwap (graph : Nat)
  /-- UNBIND_COMPLETION (R292). Dispatched firings have completed and the graph's table and buffers are freed. -/
  | unbindCompletion (graph : Nat)
  /-- HANDLER_BANK_GRANT (R298). The partition's handler bank frees and the oldest pending delivery enters handler mode. -/
  | handlerBankGrant (core : Fin 128) (part : Fin 4)
  /-- GROUP_STOP_COMPLETE (R299). A group asked to stop finishes its issued work and its requests, and is stopped. -/
  | groupStopComplete (core : Fin 128) (gid : Fin 128)
  /-- TIMER_MATCH (R296). REFT reaches TIMERM, firing the IDLE timer event and setting TEV. -/
  | timerMatch (core : Fin 128)
  /-- RETIREMENT_COMPLETE (R314). Every access translated in the retired space has performed; the retirement counter is advanced. -/
  | retirementComplete (die : Fin 4) (space : Word)
  /-- QUOTE_EXPIRY (R326). REFT passes a quotation's EXPIRY, voiding it and releasing any reservation. -/
  | quoteExpiry (qid : DWord)
  /-- HALT_TIME (R329). REFT passes the quoted TIME under HALTT and the grid is ended. -/
  | haltTime (qid : DWord)
  /-- HALT_ENERGY (R329). Measured energy passes ENERGY under HALTE and the grid is ended. -/
  | haltEnergy (qid : DWord)
  /-- TEAM_PLACEMENT (R337). The distributor places the next waiting team on the least-loaded eligible unit. -/
  | teamPlacement
  /-- TEAM_RELEASE (R340). After the last group, streams and copies of a team end, its team resources are freed. -/
  | teamRelease (core : Fin 128) (slot : Fin 16)
  /-- FORWARD_PROGRESS_SWAP (R341). The idle count reaches FPWIN and the youngest open team is swapped out for a waiting team. -/
  | forwardProgressSwap (core : Fin 128)
  /-- SAFE_POINT_TIMEOUT (R344). A safe-point stop not reached in time falls back to an instruction-boundary stop. -/
  | safePointTimeout (core : Fin 128) (slot : Fin 16)
  /-- TEAM_SAVE (R347). A stopped team's groups are written as contexts or a continuation into the save area. -/
  | teamSave (core : Fin 128) (slot : Fin 16)
  /-- FREQUENCY_STEP (R363). A die stops its clocks, rescales deadlines, logs a step record and starts relock. -/
  | frequencyStep (die : Fin 4) (cause : Fin 4)
  /-- RELOCK_COMPLETE (R363). The PLL relocks and clocks resume at the new ratio. -/
  | relockComplete (die : Fin 4)
  /-- DROOP_STRETCH (R365). A detected droop stretches one core cycle across the die. -/
  | droopStretch (die : Fin 4)
  /-- CAP_CHANGE (R365). Accumulated wear lowers the die's boost ceiling CAP. -/
  | capChange (die : Fin 4)
  /-- ENVELOPE_CHANGE (R367). A supply, coolant or host-link condition leaves or re-enters the declared envelope. -/
  | envelopeChange (die : Fin 4) (live : BitVec 4)
  /-- BREAK_EVEN_HOLD (R368). After 50 µs clock-gated without a wake, the core enters the break-even hold. -/
  | breakEvenHold (core : Fin 128)
  /-- POWER_GATE (R368). The hold ends without a wake and the core power-gates, retaining its state. -/
  | powerGate (core : Fin 128)
  /-- CORE_WAKE (R370). A wake event restarts a gated core. -/
  | coreWake (core : Fin 128)
  /-- INRUSH_GRANT (R370). The quadrant's in-rush arbiter grants a waiting core its ramp. -/
  | inrushGrant (die : Fin 4) (quad : Fin 4)
  /-- SUSPEND_STEP (R374). The next step of device suspend begins once the previous one has finished. -/
  | suspendStep
  /-- PORT_RETRAIN (R376). A peer port retrains and exchanges its saved receive sequence. -/
  | portRetrain (port : Fin 16)
  /-- PORT_SEQUENCE_CONFIRM (R376). The peer confirms the sequence and the port becomes trained. -/
  | portSequenceConfirm (port : Fin 16) (seq : Word)
  /-- THROTTLE (R379). TMAX reaches 105 °C and the die starts throttling. -/
  | throttle (die : Fin 4) (tmax : Byte)
  /-- THROTTLE_STEP (R379). Every 10 µs of throttle the die steps down by one ratio unit. -/
  | throttleStep (die : Fin 4) (tmax : Byte)
  /-- EMERGENCY_SAVE (R380). TMAX reaches 110 °C and every resident team is stopped and saved in order. -/
  | emergencySave (die : Fin 4) (tmax : Byte)
  /-- EMERGENCY_SAVE_COMMIT (R380). A team's save has performed; its save-list entry is written and ESMARK advanced. -/
  | emergencySaveCommit (die : Fin 4)
  /-- HARD_TRIP (R381). TMAX reaches 118 °C and the analog cut-off removes power, vaults in self-refresh. -/
  | hardTrip (die : Fin 4) (tmax : Byte)
  /-- BOOT (R382). At power-on or reload the boot ROM verifies, measures and runs each stage. -/
  | boot
  /-- SCRUB_COMPLETION (R389). A vault scrub request's writes have performed; skipped count and counter add are written. -/
  | scrubCompletion (die : Fin 4)
  /-- HOST_BAR2_ACCESS (R393). A host access through BAR2 is performed at system scope at the vault buffer. -/
  | hostBar2Access (wr : Bool) (addr : BitVec 39) (size : Fin 4) (data : DWord)
  /-- DIE_LINK_RETRAIN (R394). A die link reporting errors retrains, traffic waiting in its FIFOs. -/
  | dieLinkRetrain (link : Fin 6)
  /-- WRITE (R395). An inbound WRITE message is performed within the port's inbound window or rejected. -/
  | peerWrite (port : Fin 16) (off : DWord) (bytes : List Byte)
  /-- READ (R395). An inbound READ message is answered from the inbound window or rejected. -/
  | peerRead (port : Fin 16) (off : DWord) (len : Nat)
  /-- RESPONSE (R395). A RESPONSE message completes an outstanding peer read or transfer. -/
  | peerResponse (port : Fin 16) (seq : Word) (bytes : List Byte)
  /-- ADD (R395). An inbound ADD message adds to a counter in the inbound window. -/
  | peerAdd (port : Fin 16) (off : DWord) (amount : DWord)
  /-- REQUEST (R356). Sorrel matches a REQUEST to a service entry and writes a work record or rejects it. -/
  | peerRequest (port : Fin 16) (header : List Byte) (payload : List Byte)
  /-- REJECT (R397). A REJECT message faults the requester's access with PAGE. -/
  | peerReject (port : Fin 16) (seq : Word) (status : Byte)
  /-- HEARTBEAT_WINDOW_END (R398). A heartbeat window ends; a third empty window orphans the die and moves its notifications. -/
  | heartbeatWindowEnd (die : Fin 4)
  /-- LOAD (R318). Loads, checks, finalises and digests a BOF file and writes its data sections. -/
  | cmdLoad (die : Fin 4) (queue : Byte)
  /-- UNLOAD (R318). Unloads a file and voids its quoted quotations. -/
  | cmdUnload (die : Fin 4) (queue : Byte)
  /-- QUOTE (R325). Rennet walks the kernel or graph and writes a quotation record. -/
  | cmdQuote (die : Fin 4) (queue : Byte)
  /-- ACCEPT (R327). Checks and applies a quotation at the reservation table, reserving and swapping out open teams. -/
  | cmdAccept (die : Fin 4) (queue : Byte)
  /-- DECLINE (R326). Voids a quoted or accepted quotation. -/
  | cmdDecline (die : Fin 4) (queue : Byte)
  /-- LAUNCH (R320). Checks a launch record and places a grid as open work or under an accepted quotation. -/
  | cmdLaunch (die : Fin 4) (queue : Byte)
  /-- BIND (R282). Binds or rebinds a graph: Churn solves rates, sizes buffers and writes the firing table. -/
  | cmdBind (die : Fin 4) (queue : Byte)
  /-- UNBIND (R292). Stops a graph's dispatch at the next period boundary. -/
  | cmdUnbind (die : Fin 4) (queue : Byte)
  /-- RESUME (R375). Mailbox command that resumes a suspended device, reloading images and unpausing quotations. -/
  | mbResume (len : BitVec 56)
  /-- ATTEST (R387). Mailbox command that writes a signed attestation report over a host nonce. -/
  | mbAttest (len : BitVec 56)
  /-- RELOAD (R386). Mailbox command that verifies and writes a flash image and restarts boot. -/
  | mbReload (len : BitVec 56)
  /-- LOGDUMP (R386). Mailbox command that copies every die's error log to host memory. -/
  | mbLogdump (len : BitVec 56)
  /-- IDCERT (R388). Mailbox command that writes the identity certificate and its length. -/
  | mbIdcert (len : BitVec 56)
  /-- FAULTRES (R305). A write resolves a fault record, releasing or delivering its lanes, replay entries and copies. -/
  | faultres (core : Fin 128) (value : DWord)
  /-- GSTOP_STOP (R299). A GSTOP write with STOP requests that the named group stop at an instruction boundary. -/
  | gstopStop (core : Fin 128) (gid : Fin 128)
  /-- GSTOP_RUN (R299). A GSTOP write with RUN releases a stopped group or ends a double-faulted group's trapped lanes. -/
  | gstopRun (core : Fin 128) (gid : Fin 128)
  /-- SPRETIRE (R314). A write starts retirement of a space on every die of the partition. -/
  | spretire (die : Fin 4) (space : Word)
  /-- FPWIN (R341). A write of the forward-progress window restarts the core's idle count. -/
  | fpwinWrite (core : Fin 128) (n : Word)
  /-- KRLOCK (R296). A write of 1 locks KRMAP, the map's frames and its contents until reset. -/
  | krlock (die : Fin 4)
  /-- CLKRAT_REQ (R364). A write of the requested clock ratio sets the die's target ratio. -/
  | clkratReq (die : Fin 4) (req : BitVec 7)
  /-- SUSPCTL_GO (R372). A write of GO starts a device suspend, pausing running and voiding quoted quotations. -/
  | suspctlGo
  /-- SCRUBN (R389). A write starts a request to zero N vault frames from SCRUBA. -/
  | scrubn (die : Fin 4) (n : Word)
  /-- LQDOOR (R316). A launch-queue doorbell exposes commands to the front end of the queue's die. -/
  | lqdoor (die : Fin 4) (value : DWord)
  /-- WQDOOR (R353). A host work-queue doorbell publishes records or is rejected with ERR. -/
  | wqdoor (die : Fin 4) (value : DWord)
  /-- NOTIFY_APERTURE_WRITE (R371). A write to a core's notify aperture wakes its IDLE groups, latched by Chive when gated. -/
  | notifyApertureWrite (core : Fin 128)
  /-- HBEAT (R398). The scheduler's heartbeat write marks the window live and clears ORPHAN. -/
  | hbeat (die : Fin 4) (value : DWord)
  /-- OWNER (R398). Writing OWNER back returns an orphaned die's notifications to its own scheduler. -/
  | ownerWrite (die : Fin 4) (own : Fin 4)
  /-- REGISTER_WRITE (R296). A write to a privileged or aperture register with no row of its own updates its writable fields. -/
  | registerWrite (reg : RegAddr) (value : DWord)
  /-- LINK_RETRAINING_END (R394). A die link's retraining ends: traffic held in its FIFOs resumes, or the failure is counted and the third failure in a row makes the link down. -/
  | linkRetrainingEnd (link : Fin 6) (ok : Bool)
  /-- FLIT_RETRY (R395). A transport flit not acknowledged by the peer is retried at link level and the port's RETRY count rises. -/
  | flitRetry (port : Fin 16)
  /-- PATROL_READ (R390). A patrol read of an array finds an ECC error with no consumer and logs it. -/
  | patrolRead (arr : ArrayLoc) (ue : Bool)
  /-- PARTITION_START (R382). A partition starts its system image, which the ROM first measures into slot M4 to M7. -/
  | partitionStart (part : Fin 4) (image : List Byte)
  deriving DecidableEq, Repr

end Sys2Proof
end

