-- ==== Sys2Proof/Machine/State.lean ====
section
/-! DEFINITION. The state of the package: four dies of 32 cores, their vaults, links and ports, the work they hold, and
the device's own tables. Everything is plain data. `agenda` and `cur` are the model's own: they say which agent moves
next and which one is moving. -/
namespace Sys2Proof.Machine

/-- Bytes by address, strictly rising, with no entry equal to 0, which is what an unlisted address reads as. -/
abbrev Memory := List Host.Cell

/-- The canonical form: addresses strictly rising and no entry 0. -/
def Memory.sortedFrom (lo : Nat) : Memory → Bool
  | [] => true
  | (a, b) :: rest => decide (lo ≤ a) && decide (b ≠ 0) && Memory.sortedFrom (a + 1) rest

/-- The canonical form of a memory, from address 0 up. -/
def Memory.wf (m : Memory) : Bool := Memory.sortedFrom 0 m

/-- A set of positions of a group, bit p for position p. -/
abbrev Lanes := BitVec 64
/-- One word for each position. -/
abbrev LaneVec := Tab Word 64

/-- Why the machine stops. -/
inductive Fault where
  /-- Raised by an encoded instruction executed with no issuing agent (`cur` names no resident group with an active
  lane and no running stream). `step` never does that, so the stop is safe. [DESIGN CHOICE, log 26] -/
  | noIssuer
  deriving DecidableEq, Repr

/-- Why an instruction has no meaning here. [DESIGN CHOICE, log 26] -/
inductive Refusal where
  /-- Answered by an arm of `exec` whose instruction has no meaning yet; safe, because nothing is claimed of it. -/
  | notModelled (mnemonic : String)
  deriving DecidableEq, Repr

/-- LSTATE (R22). -/
inductive LState where
  | running | parked | exited | vacant
  deriving DecidableEq, Repr

/-- A width grant (R14 to R19). -/
inductive Grant where
  | w16 | w32 | w64
  deriving DecidableEq, Repr

/-- The number of lanes of a grant. -/
def Grant.lanes : Grant → Nat
  | .w16 => 16
  | .w32 => 32
  | .w64 => 64

/-- What an access does to its location (the ACCESS field of R303 orders the first three). -/
inductive AccKind where
  | load | store | atomic | other
  deriving DecidableEq, Repr

/-- Which instruction pushed a queue entry (R74). -/
inductive QKind where
  | ld | st | atom
  deriving DecidableEq, Repr

/-- An entry of a decoupling queue (R74 to R76, R227). `filled` is the slots that have arrived, or the lanes of a QST
that have performed; `ecc` the slots that carry an uncorrectable error. -/
structure QEntry where
  uid : Nat
  kind : QKind
  lanes : Lanes
  filled : Lanes
  pending : Lanes
  deferred : Lanes
  ecc : Lanes
  vals : LaneVec
  site : Word
  deriving DecidableEq, Repr

/-- What a wait of R40 waits for. -/
inductive WaitOn where
  /-- BAR, BARX: the phase of a barrier; its completion releases the waiter. -/
  | phase (b : Fin 16)
  /-- BARW: none of these threads has state 0b01. -/
  | noArrival (b : Fin 16) (threads : List (BitVec 12))
  /-- FWAIT with its STALL. -/
  | flag (f : Fin 64) (st : Nat)
  | counter (va : DWord) (target : DWord)
  | queue (q : Fin 8) (cnt : Nat)
  | token (regs : List (Fin 128))
  | work (handle : DWord)
  | streams
  | xlinv (ids : List Nat)
  deriving DecidableEq, Repr

/-- A wait timer running (R40): the site, the cycles elapsed, and what is waited for. The count is the bound less what
remains, so a frequency step that lengthens what remains may make it negative (R363). -/
structure Wait where
  site : Word
  elapsed : Int
  on : WaitOn
  deriving DecidableEq, Repr

/-- Lanes that have arrived at a barrier and wait for its phase (R237), and the STALL of the instruction that they wait in. -/
structure BarWait where
  bar : Fin 16
  site : Word
  lanes : Lanes
  st : Nat
  deriving DecidableEq, Repr

/-- A group waiting at a BRM (R31): the branch it will take, and the cycles since it began to wait. -/
structure BrmWait where
  site : Word
  target : Word
  k : Fin 8
  neg : Bool
  elapsed : Int
  deriving DecidableEq, Repr

/-- How a delivery came about (KIND of R303). -/
inductive DelKind where
  | fault | trap | brk
  deriving DecidableEq, Repr

/-- A delivery to a trap path (R297): the trapped set, where it stood, and the fields of its record (R303). `replay` marks that of a
refused replay entry (R107), whose lanes a save writes as exited (R306). -/
structure Delivery where
  kind : DelKind
  code : Byte
  lanes : Lanes
  site : Word
  wide : Bool
  access : AccKind
  trapno : Byte
  va : DWord
  detail0 : DWord
  detail1 : DWord
  replay : Bool
  deriving DecidableEq, Repr

/-- A result still inside its producer's fixed latency (R43, R46): `left` is the cycles until it is ready, and `owed` what the
STALL fields since its producer have yet to cover of the latency. `narrow` says that the producer and every instruction of the
group since is compact. -/
structure Busy where
  reg : Nat
  left : Nat
  owed : Nat
  narrow : Bool
  deriving DecidableEq, Repr

/-- Whether a group is asked to stop or has stopped (R298, R299, R344, R347). -/
inductive Stop where
  | none
  /-- Asked to stop at an instruction boundary; `bySystem` when GSTOP asked (R299), else for its team's save. -/
  | requested (bySystem : Bool)
  /-- Asked to stop at a safe point (R344). -/
  | atSafePoint
  | stopped (bySystem : Bool) (safe : Bool)
  | doubleFault
  deriving DecidableEq, Repr

/-- A resident group (R10, R53). `age` is the admission its first ancestor was formed at and the order within it (R61).
`hlanes` is the lanes in handler mode (R301). `hwrote` is the registers
written there. `barWaits` is the lanes that wait at barriers, by the instruction they wait in. `metTags` is the promotion tags that
reads of the group met without promoting them, each by its core and its release, and `fence` the scope of the last FENCE.rel of the
thread in each position (R102, R104). `enlarge` is the slots that it wants while it stalls on enlargement (R61). `extra` is the last cycles of `stall`, those of passes above the recorded count (R68), and `short` marks a hold
of a native section whose STALL is too short (R46). `held` is the id before which replay entries hold a release (R108). `idle` and `woken` are IDLE's
(R190), `out` the mark of a group switched out with parked lanes (R24, R28). -/
structure Group where
  uid : Nat
  team : Fin 16
  part : Fin 4
  grant : Grant
  block : Nat
  age : Nat × Nat
  priv : Bool
  tid : Tab (BitVec 12) 64
  lpc : LaneVec
  lst : Tab LState 64
  depth : Tab Byte 64
  v : Tab LaneVec 64
  mapped : BitVec 64
  pendFree : List (Fin 64 × Word)
  s : Tab DWord 128
  tok : BitVec 128
  k : Tab Lanes 7
  loops : Tab Word 64
  q : Tab (List QEntry) 8
  xflags : BitVec 6
  batch : LaneVec
  stall : Nat
  extra : Nat
  short : Bool
  busy : List Busy
  wait : Option Wait
  barWaits : List BarWait
  metTags : List (Fin 128 × Nat)
  fence : Tab (Option Scope) 64
  brm : Option BrmWait
  polled : Bool
  out : Bool
  idle : Bool
  woken : Bool
  enlarge : Nat
  engHeld : Bool
  held : Option Nat
  hlanes : Lanes
  hwrote : BitVec 64
  dels : List Delivery
  stop : Stop
  deriving DecidableEq, Repr

/-- The per-thread state of a barrier, for a stream (R236, R271). -/
inductive BarSt where
  | notArrived | arrived | dropped
  deriving DecidableEq, Repr

/-- A barrier of a team (R236): the thread states are two sets, thread t in bit t. -/
structure Barrier where
  phase : Word
  expect : BitVec 13
  arrived : BitVec 13
  pendDrop : BitVec 13
  arrivedSet : BitVec 4096
  droppedSet : BitVec 4096
  deriving DecidableEq, Repr

/-- A bulk descriptor as its opening read it (R245, R246). -/
structure BulkDesc where
  src : DWord
  dst : DWord
  rows : Nat
  rowb : Nat
  sstr : Nat
  dstr : Nat
  cnt : DWord
  amt : DWord
  stat : DWord
  esz : Nat
  srcp : Bool
  dstp : Bool
  nsl : Nat
  deriving DecidableEq, Repr

/-- An open bulk transfer (R246): found by its descriptor's scratch offset. -/
structure BulkOpen where
  desc : Nat
  scope : Scope
  body : BulkDesc
  arrived : BitVec 64
  deriving DecidableEq, Repr

/-- How a team is being stopped (R342 to R347): at safe points or not, the core cycles since the request, the span of the
save area set aside for it, and whether the stop is for a suspend, which writes no context (R374). -/
structure TeamStop where
  safePoint : Bool
  elapsed : Int
  span : Option (Nat × Nat)
  suspend : Bool
  deriving DecidableEq, Repr

/-- A team resident on a core, or one half of it on a core of a pair (R12, R13). The even half holds the barriers,
flags, transfers and the kept stream code; `mate` is the other half's team slot. -/
structure Team where
  grid : Nat
  index : Nat
  coord : Nat × Nat × Nat
  nthr : Nat
  paired : Bool
  odd : Bool
  mate : Fin 16
  admitted : Nat
  regG : List (Fin 96)
  scrG : List (Fin 96)
  accG : List (Fin 96)
  bars : Tab Barrier 16
  flags : BitVec 64
  bulks : List BulkOpen
  kept : Byte
  exited : Bool
  stop : Option TeamStop
  deriving DecidableEq, Repr

/-- A stream on a sequencer (R268). `barSt` is the STALL of the instruction in which it waits at a barrier. -/
structure Stream where
  uid : Nat
  team : Fin 16
  pc : Word
  s : Tab DWord 128
  tok : BitVec 128
  loops : Tab Word 64
  bars : Tab BarSt 16
  barWait : Option (Fin 16)
  barSt : Nat
  stall : Nat
  wait : Option Wait
  polled : Bool
  engHeld : Bool
  held : Option Nat
  stopped : Bool
  deriving DecidableEq, Repr

/-- A page by the measure of R27: a space, the first address and the size. -/
structure PageId where
  space : Word
  base : Nat
  size : Nat
  deriving DecidableEq, Repr

/-- An unresolved fault record of a core (R27, R303 to R305): `id` is the model's own name for it, `seq` its SEQ once
written, `kind` KIND of R303. `uid` is the group that the
record names, `waiters` the groups with lanes parked on it, `vas` the address and the kind of access of each such lane; `level` and `frame` are the last
level walked and the frame found. -/
structure FaultRec where
  id : Nat
  seq : Nat
  kind : Nat
  code : Byte
  access : AccKind
  uid : Nat
  page : PageId
  waiters : List (Nat × Lanes)
  vas : List (Nat × Fin 64 × DWord × AccKind)
  level : Nat
  frame : Nat
  deriving DecidableEq, Repr

/-- A store or counter add waiting in the replay queue (R106): one lane of an entry, and its thread's position at the store. -/
structure ReplayLane where
  tid : BitVec 12
  pos : Fin 64
  va : DWord
  data : DWord
  size : Nat
  isAdd : Bool
  deriving DecidableEq, Repr

/-- An entry of the replay queue (R106). `team` is the admission of the storing thread's team, and `tagScope` the scope at which
its writes are ordered, by their own suffix or by a fence (R102, R104). `makers` is the threads, with their positions, of an access
that is made once per issue, and `stream` marks a stream's. -/
structure Replay where
  id : Nat
  recId : Nat
  uid : Nat
  team : Nat
  gid : Fin 128
  page : PageId
  site : Word
  entry : Option (Fin 8 × Nat)
  scope : Scope
  release : Bool
  tagScope : Option Scope
  makers : List (BitVec 12 × Fin 64)
  stream : Bool
  lanes : List ReplayLane
  deriving DecidableEq, Repr

/-- How far a request has come. -/
inductive ReqPhase where
  /-- Held at the home die's TLB by a frozen entry (R116). -/
  | frozen
  /-- A load or atomic met a fault after its lane left (R401); its record's id. -/
  | faulted (recId : Nat)
  /-- Translated and on its way. -/
  | sent
  /-- Sent outside the package, to a CXL or peer frame, and not yet completed (R122, R313). -/
  | away
  /-- Performed: the value read, and whether it is an uncorrectable error. -/
  | done (value : DWord) (ecc : Bool)
  deriving DecidableEq, Repr

/-- One lane's access to memory (R72, R74, R95). `pa` is its physical address once translated, and while it is held the one that
its page's leaf gives (`noFrame` where none is known); `xl` is the TLB entry that translated it, `push` the instruction that holds
the outstanding request and that orders it among the requests, `since` the REFT at which it was made. `team` is the admission of
its thread's team and `tids` the threads that make it, none for a stream's. `tagScope` is the scope at which a write is ordered, by
its own suffix or by a fence (R102, R104). A code fetch from a frame outside the vaults is a request of kind `other`, whose `data2` is
not 0 once its completer has refused it (R313). -/
structure Req where
  id : Nat
  push : Nat
  kind : AccKind
  aop : Aop
  add64 : Bool
  core : Fin 128
  uid : Nat
  gid : Fin 128
  team : Nat
  pos : Fin 64
  tid : BitVec 12
  tids : List (BitVec 12)
  space : Word
  va : DWord
  pa : Nat
  xl : Nat
  entry : Option (Fin 8 × Nat)
  scope : Scope
  acq : Bool
  rel : Bool
  tagScope : Option Scope
  data : DWord
  data2 : Word
  promoted : Bool
  phase : ReqPhase
  since : DWord
  deriving DecidableEq, Repr

/-- A promotion tag of a 64-byte line of a vault buffer, or of a pool bank of a pair (R102). -/
structure PromoTag where
  line : Nat
  core : Fin 128
  rel : Nat
  deriving DecidableEq, Repr

/-- A TLB entry (R311): the page's leaf word in its slice, its number in the slice, where the leaf entry lies, and whether the dirty bit has been set for
a write under it (R113). -/
structure TlbEntry where
  uid : Nat
  slice : Nat
  way : Nat
  space : Word
  base : Nat
  level : Nat
  leaf : DWord
  ent : Nat
  dirty : Bool
  deriving DecidableEq, Repr

/-- An XLINV in flight (R114). `pa` is its counter's physical address where the retirement of its space has begun meanwhile (R314). -/
structure Xlinv where
  id : Nat
  die : Fin 4
  core : Fin 128
  uid : Nat
  team : Nat
  tids : List (BitVec 12)
  drops : List Nat
  space : Word
  counter : DWord
  pa : Option Nat
  deriving DecidableEq, Repr

/-- A translation asked for by QPF (R232), waiting at the home die. -/
structure XlReq where
  id : Nat
  core : Fin 128
  space : Word
  va : DWord
  deriving DecidableEq, Repr

/-- What a copy engine or port engine is to move (R241 to R249). -/
inductive CopyJob where
  /-- One lane of a CPY, CPYG or CPYS. -/
  | lane (src dst : DWord) (bytes : Nat) (srcp dstp : Bool)
  /-- A bulk transfer that has closed. -/
  | bulk (d : BulkDesc) (scope : Scope)
  | rput (loc : DWord) (locp : Bool) (remote : DWord) (len : Nat) (rcnt : DWord) (scope : Scope)
  | rget (loc : DWord) (locp : Bool) (remote : DWord) (len : Nat)
  deriving DecidableEq, Repr

/-- How far a copy has come (R120, R121). -/
inductive CopyPhase where
  | moving
  /-- Stopped on a fault record. `final` is 0 for a page, 1 for the status word, 2 for the counter. -/
  | stopped (recId : Nat) (final : Nat)
  /-- Every page has performed or the copy was abandoned: the status word is due. -/
  | status
  /-- The counter add is due. -/
  | counter
  /-- Waiting since then for a completion of the peer or of CXL (R122, R249). -/
  | atPeer (since : DWord)
  | done
  deriving DecidableEq, Repr

/-- A copy in progress. `next` is its resume point: bytes done for a lane or peer copy, element index for a bulk copy.
`token` groups the lanes of one copy instruction: the register and the id of its token. `team` is the admission of the issuing
thread's team, `tids` the threads that issued it, and `heldAt` the place in the order of arrival that an access of it took at a frozen page,
with the access's address (R116). `leaf` is the page, the level and the frame by which its access outside the package went (R303). -/
structure Copy where
  id : Nat
  core : Fin 128
  uid : Nat
  gid : Fin 128
  team : Nat
  tid : BitVec 12
  tids : List (BitVec 12)
  pos : Fin 64
  slot : Fin 16
  space : Word
  site : Word
  job : CopyJob
  next : Nat
  pages : Nat
  code : Byte
  token : Nat
  batchTok : Option Nat
  phase : CopyPhase
  got : List Byte
  heldAt : Option (Nat × DWord)
  leaf : Option (PageId × Nat × Nat)
  deriving DecidableEq, Repr

/-- A token that an asynchronous operation will write (R109, R243, R244): the register of a group or stream, and the
copies it waits for. -/
structure Token where
  id : Nat
  core : Fin 128
  uid : Nat
  gid : Fin 128
  stream : Bool
  reg : Fin 128
  isBatch : Bool
  deriving DecidableEq, Repr

/-- The group as it stood when a delivery began, kept while the partition's handler bank is held (R298, R301). The
descriptor's fields stand for the whole stay in handler mode. `code`, `site` and `va` are those of the fault that the delivery
reports, 0 for TRAP and BRK. -/
structure Bank where
  gid : Fin 128
  snap : Group
  code : Byte
  site : Word
  va : DWord
  hcode : DWord
  hlen : Word
  hspace : Word
  hwait : Word
  hloop : Word
  hq0 : Word
  hq1 : Word
  deriving DecidableEq, Repr

/-- The issue slots of a partition (R339): the ages of the groups at which the vector and the non-vector pointer stand, and whether
each slot has been used in this clock. -/
structure Ring where
  vec : Nat × Nat
  non : Nat × Nat
  vecUsed : Bool
  nonUsed : Bool
  deriving DecidableEq, Repr

/-- The power state of a core (R368 to R370). -/
inductive CorePower where
  | active
  | clockGated (since : Nat)
  | held (since : Nat)
  | gated
  | waking (since : Nat)
  | ramping (left : Nat)
  deriving DecidableEq, Repr

/-- A span of a core's context save area in use (R349). -/
structure Span where
  base : Nat
  size : Nat
  owner : Nat
  deriving DecidableEq, Repr

/-- The row in which a group's lane register lies (R59), by its number among the rows of the core's pool. -/
structure Slice where
  uid : Nat
  reg : Fin 64
  row : Nat
  deriving DecidableEq, Repr

/-- A core (R3). -/
structure Core where
  groups : Tab (Option Group) 128
  teams : Tab (Option Team) 16
  pool : Memory
  /-- The address space that last owned each granule. -/
  owners : Tab (Option Word) 96
  scale : Memory
  scaleOwner : Option Word
  /-- Promotion tags of the pool banks of a pair's core, by pool line (R102). -/
  poolTags : List PromoTag
  /-- The granules whose last owner held them for registers (R59, R64). -/
  regUsed : List (Fin 96)
  /-- The slices whose rows an error in the register store has made tell (log 98). -/
  rows : List Slice
  tiles : Tab Memory 16
  tsh : Tab Word 16
  mflags : BitVec 6
  matrixStream : Option Stream
  copyStream : Option Stream
  engine : Option (Agent × Nat)
  replay : List Replay
  recs : List FaultRec
  /-- Records that wait for room in the fault queue (R304): the doublewords, and what each leaves unresolved. -/
  recPend : List (List DWord × Option FaultRec)
  banks : Tab (Option Bank) 4
  /-- The holders of the core reserve, each with the slots that it has taken from it in each quarter of its slice (R62). -/
  loan : List (Nat × Nat)
  ring : Tab Ring 4
  corectl : BitVec 2
  trapvec : DWord
  faultqb : DWord
  faultqh : Word
  faultqt : Word
  ctxbase : DWord
  ctxlen : DWord
  timerm : DWord
  tev : Bool
  hbad : Bool
  fpwin : Word
  gstop : BitVec 7
  idleCount : Int
  slices : Tab Nat 4
  excluded : Bool
  spans : List Span
  power : CorePower
  ecore : DWord
  pwrst : DWord
  deriving DecidableEq, Repr

/-- A kernel as its file declares it (R36, R152 to R161), with its code base and digest once loaded (R164, R318). `portable` tells
that the finaliser filled its section, which is native once loaded (R46, R143). -/
structure Kern where
  base : DWord
  len : Nat
  portable : Bool
  entry : Word
  depth : Nat
  floor : Nat
  ceil : Nat
  width : Nat
  part : Word
  nbar : Nat
  nflag : Nat
  fmtm : Byte
  bcnt : List Nat
  fmts : List Word
  queues : Tab Word 8
  loops : List (Nat × Nat)
  waits : List (Nat × Nat)
  targets : List (Nat × Nat)
  passes : List (Nat × Nat)
  safes : List (Nat × DWord × BitVec 128)
  strms : List (Nat × Bool)
  xfers : List (Nat × Nat)
  pins : List (Nat × Nat)
  digest : DWord
  deriving DecidableEq, Repr

/-- Where a command's status word goes (R317): the die whose front end writes it, the space and the address. -/
structure StatAt where
  die : Fin 4
  space : Word
  va : DWord
  deriving DecidableEq, Repr

/-- A grid (R10, R319): the launch record as the front end read it, and how far its teams have come. `units` is the units that
acceptance fixed, in order, with each unit's W (R328). -/
structure Grid where
  id : Nat
  die : Fin 4
  queue : Nat
  prio : Nat
  imm : Bool
  space : Word
  handle : Nat
  kidx : Nat
  kern : Kern
  shape : Nat × Nat × Nat
  dims : Nat × Nat × Nat
  width : Nat
  priv : Bool
  schk : Bool
  regg : Nat
  scrg : Nat
  accg : Nat
  fmt : Tab Word 8
  args : List DWord
  cmap : BitVec 128
  extlat : Word
  extfj : Word
  qid : Option DWord
  units : List (Fin 128 × Nat)
  stat : Option StatAt
  taken : Nat
  placed : Nat
  finished : Nat
  firing : Option (Nat × Nat)
  /-- The admission of each team that has been placed, which a save does not renew (R61). -/
  admits : List (Nat × Nat)
  deriving DecidableEq, Repr

/-- A port of a graph's stage (R155, R162). -/
structure GPort where
  stage : Nat
  edge : Nat
  out : Bool
  rate : Nat
  deriving DecidableEq, Repr

/-- A graph as its file declares it: stages with their kernel indices, in STAGE-entry order, and ports (R162). -/
structure GraphDecl where
  stages : List (Nat × Nat)
  ports : List GPort
  deriving DecidableEq, Repr

/-- A loaded file (R318). -/
structure File where
  handle : Nat
  space : Word
  kerns : List Kern
  graphs : List GraphDecl
  deriving DecidableEq, Repr

/-- The states of a quotation (R326). -/
inductive QState where
  | quoted | accepted | running | settled | void
  deriving DecidableEq, Repr

/-- The time and energy attributed to one cause (R331), with the code and site of the fault behind most of it. -/
structure Blame where
  cause : Nat
  time : Nat
  energy : Nat
  code : Byte
  site : Word
  deriving DecidableEq, Repr

/-- An edge of a bound graph (R284 to R289). -/
structure GEdge where
  id : Nat
  src : Nat
  dst : Nat
  p : Nat
  c : Nat
  n : Nat
  cap : Nat
  addr : Nat
  made : Nat
  used : Nat
  deriving DecidableEq, Repr

/-- An entry of a firing table (R288), in the device's own copy: the stage index, the ordinal, and FLAG. -/
structure GEntry where
  stage : Nat
  fire : Nat
  last : Bool
  deriving DecidableEq, Repr

/-- A stage of a bound graph: its id, its grid as the launch record gives it, and its repetition count. -/
structure GStage where
  id : Nat
  job : Grid
  teams : Nat
  q : Nat
  deriving DecidableEq, Repr

/-- A firing that has been dispatched (R289, R290). `curs` is its cursors by edge. -/
structure Firing where
  id : Nat
  stage : Nat
  period : Nat
  fire : Nat
  last : Bool
  grid : Nat
  curs : List (Nat × Nat)
  done : Bool
  deriving DecidableEq, Repr

/-- A solved bind: what Churn makes of a descriptor (R284 to R288), with where its table lies and its quotation. -/
structure GPlan where
  stages : List GStage
  edges : List GEdge
  table : List GEntry
  tableVa : DWord
  qid : Option DWord
  deriving DecidableEq, Repr

/-- A quotation (R325 to R331). `units` is its units in order with each unit's W. `job` is the grid that it quotes, `graph` the
solved graph, whose stages hold their own units (R324). The attributed amounts of R331 stand by party, by cause (`causes`) and by
fault (`blames`); `devCause` is the device cause last observed, and `pend` where the status of an ACCEPT goes whose swap-out is
not yet done (R328). -/
structure Quote where
  qid : DWord
  state : QState
  die : Fin 4
  queue : Nat
  handle : Nat
  space : Word
  digest : DWord
  time : Nat
  energy : Nat
  units : List (Fin 128 × Nat)
  gran : Nat
  expiry : DWord
  cores : BitVec 128
  vaults : BitVec 128
  clause : BitVec 4
  pins : List (Nat × Nat)
  job : Option Grid
  graph : Option GPlan
  measured : Nat
  measuredE : Nat
  paused : Bool
  callT : Nat
  envT : Nat
  callE : Nat
  envE : Nat
  devCause : Nat
  pend : Option StatAt
  causes : List Blame
  blames : List Blame
  deriving DecidableEq, Repr

/-- A bound graph (R282 to R293). `period` and `entry` are the next entry to dispatch, counted from the table's first period;
`since` is PERIOD when that table came into force, `periods` PERIOD itself. `ahead` is the stages that have completed the last
firing of a period after the current one; `swap` and `unbind` are a rebind and an unbind that wait for a period's end. -/
structure Graph where
  id : Nat
  ctl : DWord
  space : Word
  die : Fin 4
  queue : Nat
  plan : GPlan
  period : Nat
  entry : Nat
  firings : List Firing
  doneSet : BitVec 64
  ahead : List (Nat × Nat)
  since : Nat
  periods : DWord
  shorts : DWord
  swap : Option (GPlan × StatAt)
  unbind : Option StatAt
  deriving DecidableEq, Repr

/-- One context or continuation as the device wrote it: where, its CHECK, and what its layout does not hold: the group's
name, the thread in each position, and the barrier waits in progress. -/
structure SavedPart where
  uid : Nat
  addr : Nat
  size : Nat
  check : DWord
  tids : Tab (BitVec 12) 64
  barWaits : List BarWait
  metTags : List (Fin 128 × Nat)
  deriving DecidableEq, Repr

/-- The part of a save that one core made, with its span of that core's context save area (R349), and the barrier at which
each of its saved streams waits, which their layout does not hold. -/
structure SavedHalf where
  core : Fin 128
  base : Nat
  size : Nat
  parts : List SavedPart
  waits : List (Option (Fin 16 × Nat))
  deriving DecidableEq, Repr

/-- A saved team (R345 to R349), or a group that CTXSV saved (`software`), which only CTXLD reloads. A team of a pair has
two halves, the even core's first. `hot` names the die whose emergency save made it (R380), and `committed` says that its
entry is listed. -/
structure Saved where
  id : Nat
  grid : Nat
  team : Nat
  admitted : Nat
  continuation : Bool
  software : Bool
  halves : List SavedHalf
  hot : Option (Fin 4)
  committed : Bool
  deriving DecidableEq, Repr

/-- A retirement in progress (R314): the space, the dies of its partition, and the writes that asked for it by die. -/
structure Retiring where
  space : Word
  part : Fin 4
  writes : List (Fin 4)
  deriving DecidableEq, Repr

/-- A scrub request (R389): `pos` is the bytes that its engine has passed and `skipped` the frames that it has skipped. -/
structure Scrub where
  base : Nat
  n : Nat
  counter : Nat
  pos : Nat
  skipped : Nat
  deriving DecidableEq, Repr

/-- The kinds of wake event that Chive latches (R371). -/
inductive WakeKind where
  | notify | work | deadline
  deriving DecidableEq, Repr

/-- What a die's front end or a peer port holds for a while: a work-queue doorbell or a message of a peer, whose record wakes more cores
than Chive has room for (R371), or a launch-queue doorbell whose way to its die stalls (R363, R394). -/
inductive Door where
  | work (v : DWord)
  | launch (v : DWord)
  | message (port : Fin 16) (header payload : List Byte)
  deriving DecidableEq, Repr

/-- A die (R3): its clocks, its translation and error registers, its front end and its catcher. `wearPart` is the part of each domain's wear
below a unit, in 1,600ths, `stretches` the times of the core cycles that droops have taken in the last microsecond (R365), and `doors` the
doorbells and messages that its front end and its ports hold (R371, R394). -/
structure Die where
  part : Fin 4
  cyc : DWord
  cycLeft : Nat
  quarter : Nat
  relock : Option DWord
  lastStep : Option DWord
  throttleAt : DWord
  spacetb : DWord
  retcnt : DWord
  krmap : DWord
  krlock : Bool
  tlb : List TlbEntry
  xlreqs : List XlReq
  cur : BitVec 7
  cap : BitVec 7
  req : BitVec 7
  fslog : DWord
  fslogt : Word
  ecnt : DWord
  live : BitVec 4
  sticky : BitVec 4
  tmax : Byte
  throt : Bool
  esave : Bool
  tripped : Bool
  esqueue : List (Fin 128 × Fin 16)
  eslist : DWord
  esmark : Word
  retoff : BitVec 9
  wear : Tab (BitVec 48) 12
  wearPart : Tab Nat 12
  stretches : List DWord
  errlogb : DWord
  errlogt : Word
  errinj : DWord
  errinja : DWord
  scruba : DWord
  scrubc : DWord
  scrubs : List Scrub
  lqtab : DWord
  tails : List (Nat × Word)
  wqtab : DWord
  svctab : DWord
  hbSeen : Bool
  hbMissed : Nat
  owner : Fin 4
  orphan : Bool
  chive : List (Fin 128 × WakeKind)
  chiveHeld : List (Fin 128 × WakeKind)
  doors : List Door
  ramps : Tab (List (Fin 128)) 4
  deriving DecidableEq, Repr

/-- What the device sends outside the package. -/
inductive Msg where
  | msix (vector : Nat)
  | flit (port : Fin 16) (bytes : List Byte)
  /-- A request to a CXL or peer frame: the name that its completion carries, the address, the operation (0 read, 1 write,
  2 a saturating counter add, 3 + n the atomic of AOP n) and its data. -/
  | frame (id : Nat) (pa : Nat) (op : Nat) (data : List Byte)
  | hostWrite (addr : DWord) (bytes : List Byte)
  /-- The answer to a host access: whether it was performed, and the data read. -/
  | completion (ok : Bool) (data : DWord)
  /-- A REJECT of an inbound message (R396, R397): the port that sends it, the sender's port to which it returns where the message named
  one, and its header's bytes. -/
  | reject (port : Fin 16) (dest : Option (Fin 16)) (bytes : List Byte)
  /-- A RESPONSE to an inbound READ: its own sequence number, the READ's, and the data (R395). -/
  | response (port : Fin 16) (own seq : Word) (bytes : List Byte)
  /-- The saved receive sequence that a retrained port gives its peer (R376). -/
  | sequence (port : Fin 16) (seq : Word)
  /-- A notification to the scheduler that owns a die's events (R398). -/
  | scheduler (die : Fin 4) (owner : Fin 4)
  deriving DecidableEq, Repr

/-- A peer port (R376, R395). `reads` is the READ requests it has outstanding, by flit sequence number, and `sent` the messages that it has
sent from the sequence that its peer last confirmed on, with their numbers. -/
structure Port where
  trained : Bool
  confirming : Bool
  retry : Byte
  wbase : Word
  wlen : BitVec 16
  sendSeq : Word
  recvSeq : Word
  reads : List (Word × Nat)
  sent : List (Word × Msg)
  deriving DecidableEq, Repr

/-- A die link (R394). -/
structure Link where
  retraining : Bool
  failures : Nat
  down : Bool
  deriving DecidableEq, Repr

/-- MBSTAT.STATE (R385). -/
inductive MbState where
  | booting | running | safe | suspended
  deriving DecidableEq, Repr

/-- A record that Sorrel wrote, measured under its class's quotation (R357). `taker` is the team, by its admission, and the threads of the
group that popped it; `callT` to `blames` are the attributed amounts of its quotation when it was written. -/
structure Served where
  qid : DWord
  part : Fin 4
  handle : Nat
  record : Word
  since : DWord
  callT : Nat
  envT : Nat
  causes : List Blame
  blames : List Blame
  taker : Option (Nat × List (BitVec 12))
  deriving DecidableEq, Repr

/-- A breach record of a context that a cut-off lost, kept for the next start (R332, R381): where its launch queue's entry
lies, the die that it notifies, and its doublewords. -/
structure LostReport where
  entry : Nat
  die : Fin 4
  words : List DWord
  deriving DecidableEq, Repr

/-- The always-on domain: the mailbox, measurements and suspend (R372 to R388). `boots` counts the boots, each of which has its own context key
(R307). `cmd` is the doorbell of a mailbox command that runs (R385); `msEnergy` and `sEnergy` are the package's energy in the millisecond and
the second in progress, in nJ, and `msLast` and `sLast` that of the last whole ones (R364). -/
structure Pkg where
  suspPhase : BitVec 3
  mbstate : MbState
  failcode : Byte
  linkdn : BitVec 6
  mbarg : DWord
  doneCmd : Byte
  doneStatus : Byte
  doneSeq : Word
  slots : Tab (List Byte) 8
  flash : List Byte
  quoteSeq : DWord
  boots : Nat
  lost : List LostReport
  cmd : Option DWord
  msEnergy : Nat
  sEnergy : Nat
  msLast : Nat
  sLast : Nat
  deriving DecidableEq, Repr

/-- A word of an array that holds an ECC error (R390, R392): a 32-bit word at `addr`, its error uncorrectable or not, and
injected or not. -/
structure EccMark where
  arr : Fin 8
  core : Fin 128
  addr : Nat
  ue : Bool
  inj : Bool
  deriving DecidableEq, Repr

/-- A unit that a waiting team waits for after a priority pre-emption (R342): no other team is placed on its core. -/
structure Claim where
  core : Fin 128
  grid : Nat
  team : Nat
  deriving DecidableEq, Repr

/-- A write of a die's front end that waits at a frozen entry (R116). -/
structure LateWrite where
  id : Nat
  die : Fin 4
  space : Word
  va : DWord
  bytes : List Byte
  deriving DecidableEq, Repr

/-- An event that the device itself makes due: each is the event of the table whose meaning `Event.run` calls. -/
inductive Event where
  | boot
  | relockComplete (die : Fin 4)
  | capChange (die : Fin 4)
  | frequencyStep (die : Fin 4) (cause : Fin 4)
  | throttleStep (die : Fin 4)
  | emergencySaveCommit (die : Fin 4)
  | tlbTranslate (id : Nat)
  | scrubCompletion (die : Fin 4)
  | inrushGrant (die : Fin 4) (quad : Fin 4)
  | accessPerform (id : Nat)
  | remoteScopePromotion (id : Nat)
  | responseArrival (id : Nat)
  | thawRetranslate (id : Nat)
  | copyTransferPage (id : Nat)
  | copyCompletion (id : Nat)
  | tokenWrite (id : Nat)
  | xlinvCompletion (id : Nat)
  | retirementComplete (die : Fin 4) (space : Word)
  | coreWake (core : Fin 128)
  | breakEvenHold (core : Fin 128)
  | powerGate (core : Fin 128)
  | matrixInstructionComplete (core : Fin 128)
  | waitTimeout (who : Agent)
  | groupStopComplete (core gid : Fin 128)
  | idleWake (core gid : Fin 128)
  | handlerBankGrant (core : Fin 128) (part : Fin 4)
  | coreReserveLoan (core : Fin 128)
  | teamRelease (core : Fin 128) (slot : Fin 16)
  | safePointTimeout (core : Fin 128) (slot : Fin 16)
  | teamSave (core : Fin 128) (slot : Fin 16)
  | brmWindowExpiry (core : Fin 128) (slot : Fin 16)
  | forwardProgressSwap (core : Fin 128)
  | firingCommit (graph firing : Nat)
  | rebindSwap (graph : Nat)
  | unbindCompletion (graph : Nat)
  | firingDispatch (graph : Nat)
  | suspendStep
  | teamPlacement
  | timerMatch (core : Fin 128)
  | quoteExpiry (qid : DWord)
  | haltTime (qid : DWord)
  | haltEnergy (qid : DWord)
  | heartbeatWindowEnd (die : Fin 4)
  /-- The engine of a die zeroes the next line of a scrub request (R389). -/
  | scrubWrite (die : Fin 4)
  /-- A doorbell held for Chive is taken (R371). -/
  | workDoor (die : Fin 4)
  /-- The mailbox carries out its command (R385). -/
  | mailbox
  deriving DecidableEq, Repr

/-- Who moves next: a group or a stream issues, an event of the table happens, one that the device makes due, a front end takes a
queue's command, one core cycle of a die or one tick of the reference timer passes, or a soft error strikes a word of an array (R390). -/
inductive Action where
  | issue (who : Agent)
  | happen (i : Instr)
  | event (e : Event)
  | command (die : Fin 4) (queue : Byte)
  | cycle (die : Fin 4)
  | tick
  | upset (m : EccMark)
  deriving DecidableEq, Repr

/-- The package. `nextId` names requests, groups and the like; `fresh` counts the free values drawn; `agenda` is the
actions that come next, `past` is the saves whose bytes may still stand in memory though their team has resumed or ended (R307), `cur` who is issuing and `picks` the choices that the device makes next (log 89): these six are the model's own. -/
structure State where
  cores : Tab Core 128
  dies : Tab Die 4
  ports : Tab Port 16
  links : Tab Link 6
  pkg : Pkg
  mem : Memory
  reft : DWord
  tags : List PromoTag
  marks : List EccMark
  reqs : List Req
  copies : List Copy
  tokens : List Token
  xlinvs : List Xlinv
  retiring : List Retiring
  files : List File
  grids : List Grid
  quotes : List Quote
  graphs : List Graph
  saved : List Saved
  past : List Saved
  claims : List Claim
  late : List LateWrite
  served : List Served
  outbox : List Msg
  nextId : Nat
  fresh : Nat
  picks : List Nat
  agenda : List Action
  cur : Option Agent
  deriving DecidableEq, Repr

/-- A core that holds no work. [DESIGN CHOICE, log 1; DESIGN CHOICE, log 8] -/
def Core.reset : Core where
  groups := Tab.replicate 128 none
  teams := Tab.replicate 16 none
  pool := []
  owners := Tab.replicate 96 none
  scale := []
  scaleOwner := none
  poolTags := []
  regUsed := []
  rows := []
  tiles := Tab.replicate 16 []
  tsh := Tab.replicate 16 0
  mflags := 0
  matrixStream := none
  copyStream := none
  engine := none
  replay := []
  recs := []
  recPend := []
  banks := Tab.replicate 4 none
  loan := []
  ring := Tab.replicate 4 ⟨(0, 0), (0, 0), false, false⟩
  corectl := 0
  trapvec := 0
  faultqb := 0
  faultqh := 0
  faultqt := 0
  ctxbase := 0
  ctxlen := 0
  timerm := -1
  tev := false
  hbad := false
  fpwin := 65536
  gstop := 0
  idleCount := 0
  slices := Tab.replicate 4 4
  excluded := false
  spans := []
  power := .active
  ecore := 0
  pwrst := 0

/-- A die after reset: every register at the value its table gives (R296, R315, R351, R361, R392). [DESIGN CHOICE, log 1; DESIGN CHOICE, log 7] -/
def Die.reset (d : Fin 4) : Die where
  part := 0
  cyc := 0
  cycLeft := 12
  quarter := 2
  relock := none
  lastStep := none
  throttleAt := 0
  spacetb := 0
  retcnt := 0
  krmap := 0
  krlock := false
  tlb := []
  xlreqs := []
  cur := 50
  cap := 72
  req := 50
  fslog := 0
  fslogt := 0
  ecnt := 0
  live := 0
  sticky := 0
  tmax := 0
  throt := false
  esave := false
  tripped := false
  esqueue := []
  eslist := 0
  esmark := 0
  retoff := 0
  wear := Tab.replicate 12 0
  wearPart := Tab.replicate 12 0
  stretches := []
  errlogb := 0
  errlogt := 0
  errinj := 0
  errinja := 0
  scruba := 0
  scrubc := 0
  scrubs := []
  lqtab := 0
  tails := []
  wqtab := 0
  svctab := 0
  hbSeen := false
  hbMissed := 0
  owner := d
  orphan := false
  chive := []
  chiveHeld := []
  doors := []
  ramps := Tab.replicate 4 []

/-- A port before it trains (R376, R395). [DESIGN CHOICE, log 1] -/
def Port.reset : Port where
  trained := false
  confirming := false
  retry := 0
  wbase := 0
  wlen := 0
  sendSeq := 0
  recvSeq := 0
  reads := []
  sent := []

/-- The always-on domain after reset: booting, every measurement slot 64 zero bytes (R382, R385). [DESIGN CHOICE, log 1] -/
def Pkg.reset : Pkg where
  suspPhase := 0
  mbstate := .booting
  failcode := 0
  linkdn := 0
  mbarg := 0
  doneCmd := 0
  doneStatus := 0
  doneSeq := 0
  slots := Tab.replicate 8 (List.replicate 64 0)
  flash := []
  quoteSeq := 1
  boots := 0
  lost := []
  cmd := none
  msEnergy := 0
  sEnergy := 0
  msLast := 0
  sLast := 0

/-- The machine right after reset. [DESIGN CHOICE, log 1] -/
def State.reset : State where
  cores := Tab.replicate 128 Core.reset
  dies := Tab.ofFn Die.reset
  ports := Tab.replicate 16 Port.reset
  links := Tab.replicate 6 ⟨false, 0, false⟩
  pkg := Pkg.reset
  mem := []
  reft := 0
  tags := []
  marks := []
  reqs := []
  copies := []
  tokens := []
  xlinvs := []
  retiring := []
  files := []
  grids := []
  quotes := []
  graphs := []
  saved := []
  past := []
  claims := []
  late := []
  served := []
  outbox := []
  nextId := 1
  fresh := 0
  picks := []
  agenda := []
  cur := none

end Sys2Proof.Machine
end

