-- ==== Sys2Proof/Machine/Ops.lean ====
section
/-! DEFINITION. The named operations over the state: memory in its canonical form, the accessors of cores, groups and
teams, a group's lanes and registers, the translation of an address, and taking an exception with the return beside it. -/
namespace Sys2Proof.Machine

/-! ### Memory -/

/-- The byte at an address; an unlisted address reads as 0. [DESIGN CHOICE, log 4] -/
def Memory.get : Memory → Nat → Byte
  | [], _ => 0
  | (a, b) :: rest, x => if x = a then b else if x < a then 0 else Memory.get rest x

/-- The memory with one byte written, in canonical form. [DESIGN CHOICE, log 4] -/
def Memory.set : Memory → Nat → Byte → Memory
  | [], x, b => if b = 0 then [] else [(x, b)]
  | (a, c) :: rest, x, b =>
    if x < a then (if b = 0 then (a, c) :: rest else (x, b) :: (a, c) :: rest)
    else if x = a then (if b = 0 then rest else (x, b) :: rest)
    else (a, c) :: Memory.set rest x b

/-- `n` bytes from an address up. -/
def Memory.bytes (m : Memory) (a n : Nat) : List Byte := (List.range n).map fun i => m.get (a + i)

/-- The memory with bytes written from an address up. [DESIGN CHOICE, log 4] -/
def Memory.store (m : Memory) (a : Nat) : List Byte → Memory
  | [] => m
  | b :: bs => Memory.store (m.set a b) (a + 1) bs

/-- The memory with the bytes from `a` up to `a + n` set to 0. -/
def Memory.clear (m : Memory) (a n : Nat) : Memory := m.filter fun cell => decide (cell.1 < a) || decide (a + n ≤ cell.1)

/-- The natural that bytes hold, the first byte least significant (R123). -/
def leNat : List Byte → Nat
  | [] => 0
  | b :: bs => b.toNat + 256 * leNat bs

/-- The `n` bytes of a natural, least significant first. -/
def leBytes : Nat → Nat → List Byte
  | 0, _ => []
  | n + 1, v => BitVec.ofNat 8 v :: leBytes n (v / 256)

/-- A little-endian field of `n` bytes. -/
def Memory.num (m : Memory) (a n : Nat) : Nat := leNat (m.bytes a n)

/-- The memory with a little-endian field of `n` bytes written. -/
def Memory.putNum (m : Memory) (a n v : Nat) : Memory := m.store a (leBytes n v)

/-- Bits `lo` to `lo + len - 1` of a natural. -/
def field (v lo len : Nat) : Nat := v / 2 ^ lo % 2 ^ len

/-! ### Lane sets -/

/-- The set of the positions at which `f` holds. -/
def Lanes.ofFn (f : Fin 64 → Bool) : Lanes := (BitVec.ofBoolListLE (List.ofFn f)).cast List.length_ofFn

/-- Whether a position is in a set. -/
def Lanes.has (m : Lanes) (p : Fin 64) : Bool := m.getLsbD p.val

/-- The positions of a set in ascending order, which within one group is ascending home lane (R14). -/
def Lanes.list (m : Lanes) : List (Fin 64) := (List.finRange 64).filter m.has

/-- The set of one position. -/
def Lanes.one (p : Fin 64) : Lanes := Lanes.ofFn fun q => q == p

/-- The number of set bits. -/
def popcount {w : Nat} (x : BitVec w) : Nat := ((List.range w).filter x.getLsbD).length

/-! ### Accessors -/

def State.core (s : State) (c : Fin 128) : Core := s.cores.get c
def State.setCore (s : State) (c : Fin 128) (k : Core) : State := { s with cores := s.cores.set c k }
def State.modCore (s : State) (c : Fin 128) (f : Core → Core) : State := s.setCore c (f (s.core c))
def State.die (s : State) (d : Fin 4) : Die := s.dies.get d
def State.setDie (s : State) (d : Fin 4) (x : Die) : State := { s with dies := s.dies.set d x }
def State.modDie (s : State) (d : Fin 4) (f : Die → Die) : State := s.setDie d (f (s.die d))
def State.group (s : State) (c g : Fin 128) : Option Group := (s.core c).groups.get g
def State.setGroup (s : State) (c g : Fin 128) (x : Option Group) : State :=
  s.modCore c fun k => { k with groups := k.groups.set g x }
def State.modGroup (s : State) (c g : Fin 128) (f : Group → Group) : State :=
  match s.group c g with
  | some x => s.setGroup c g (some (f x))
  | none => s
def State.team (s : State) (c : Fin 128) (t : Fin 16) : Option Team := (s.core c).teams.get t
def State.setTeam (s : State) (c : Fin 128) (t : Fin 16) (x : Option Team) : State :=
  s.modCore c fun k => { k with teams := k.teams.set t x }
def State.modTeam (s : State) (c : Fin 128) (t : Fin 16) (f : Team → Team) : State :=
  match s.team c t with
  | some x => s.setTeam c t (some (f x))
  | none => s
def State.grid (s : State) (id : Nat) : Option Grid := s.grids.find? fun g => g.id == id
def State.modGrid (s : State) (id : Nat) (f : Grid → Grid) : State :=
  { s with grids := s.grids.map fun g => if g.id = id then f g else g }
def State.modPkg (s : State) (f : Pkg → Pkg) : State := { s with pkg := f s.pkg }

/-- The die of a core (R3). -/
def dieOf (c : Fin 128) : Fin 4 := Fin.ofNat 4 (c.val / 32)
/-- A core's local number, which is also its vault's (R3). -/
def localOf (c : Fin 128) : Nat := c.val % 32
/-- The other core of a pair (R13). -/
def partner (c : Fin 128) : Fin 128 := if c.val % 2 = 0 then Fin.ofNat 128 (c.val + 1) else Fin.ofNat 128 (c.val - 1)
/-- The even core of a pair. -/
def evenCore (c : Fin 128) : Fin 128 := Fin.ofNat 128 (c.val / 2 * 2)

/-- The cores of the package in ascending number. -/
def allCores : List (Fin 128) := List.finRange 128
/-- The dies of the package in ascending number. -/
def allDies : List (Fin 4) := List.finRange 4

/-- The next free value's number, and the state that has drawn it. [DESIGN CHOICE, log 23] -/
def State.draw (s : State) : Nat × State := (s.fresh, { s with fresh := s.fresh + 1 })
/-- A choice below `n` that the manual leaves to the device: the next one of `picks`, or 0 when none is listed; and the state that
has used it. [DESIGN CHOICE, log 89] -/
def State.pick (s : State) (n : Nat) : Nat × State := (s.picks.headD 0 % n, { s with picks := s.picks.tail })
/-- A new name, and the state that has used it. [DESIGN CHOICE, log 23] -/
def State.newId (s : State) : Nat × State := (s.nextId, { s with nextId := s.nextId + 1 })

/-! ### Physical memory as the device's own machinery reads and writes it -/

/-- A little-endian field at a physical address. -/
def State.pnum (s : State) (pa n : Nat) : Nat := s.mem.num pa n

/-- A memory in which a die's reserved-frame map, once locked, holds what it held before the `n` bytes at `pa` were written (R296): one bit
for each 64 KiB frame of the die, 0x30000 bytes. [DEDUCED, log 31] -/
def Die.keepMap (x : Die) (old : Memory) (pa n : Nat) (m : Memory) : Memory :=
  let base := field x.krmap.toNat 12 36 * 4096
  let lo := max pa base
  let hi := min (pa + n) (base + 0x30000)
  if x.krlock && decide (lo < hi) then m.store lo (old.bytes lo (hi - lo)) else m

/-- The memory after the device writes bytes at a physical address: all but those of a locked reserved-frame map (R296). [DEDUCED, log 31] -/
def State.stored (s : State) (pa : Nat) (bs : List Byte) : Memory :=
  s.dies.val.foldl (fun m x => x.keepMap s.mem pa bs.length m) (s.mem.store pa bs)

/-- What an error's ADDR names a word of: four bytes, or one entry or slot of a TLB slice, a link or a port (R390). [DESIGN CHOICE, log 12] -/
def markSpan (arr : Fin 8) : Nat := if arr.val < 5 then 4 else 1

/-- Error marks of a core-scoped array cleared where bytes are written (R390). -/
def State.unmark (s : State) (arr : Fin 8) (c : Fin 128) (a n : Nat) : State :=
  { s with marks := s.marks.filter fun m => !(m.arr == arr && m.core == c && decide (a < m.addr + 4) && decide (m.addr < a + n)) }

/-- An armed injection meets the write of its word (R392): the word holds the error, and ARM clears. `die` is the die
whose ERRINJ is looked at. [DESIGN CHOICE, log 12] -/
def State.inject (s : State) (d : Fin 4) (arr : Fin 8) (c : Fin 128) (a n : Nat) : State :=
  let r := (s.die d).errinj.toNat
  let addr := (s.die d).errinja.toNat
  if field r 8 1 = 1 ∧ field r 0 8 = arr.val ∧ (arr.val ≤ 2 → field r 16 7 = c.val) ∧ addr < a + n ∧ a < addr + markSpan arr then
    { s.modDie d fun x => { x with errinj := x.errinj &&& ~~~(0x100 : DWord) } with
      marks := ⟨arr, c, addr, field r 9 1 == 1, true⟩ :: s.marks }
  else s

/-- Whether a physical address lies in a vault (R308). -/
def inVault (pa : Nat) : Bool := field pa 46 2 == 0

/-- The die of a vault frame. -/
def vaultDie (pa : Nat) : Fin 4 := Fin.ofNat 4 (field pa 37 2)

/-- The vault memory `m`, which holds new bytes at a physical address: the errors of the words written go with the old contents (R390), and
an armed injection meets its word (R392). [DESIGN CHOICE, log 12] -/
def State.wrote (s : State) (pa : Nat) (bs : List Byte) (m : Memory) : State :=
  let d := vaultDie pa
  let s := { s with
    mem := m
    marks := s.marks.filter fun m =>
      !((m.arr == 3 || m.arr == 4) && decide (pa < m.addr + 4) && decide (m.addr < pa + bs.length)) }
  (s.inject d 3 0 pa bs.length).inject d 4 0 pa bs.length

/-- Bytes written at die scope or wider: the promotion tags of the lines they touch clear (R102). -/
def State.pstore (s : State) (pa : Nat) (bs : List Byte) : State :=
  let s' := { s with tags := s.tags.filter fun t => decide (t.line * 64 + 64 ≤ pa) || decide (pa + bs.length ≤ t.line * 64) }
  s'.wrote pa bs (s.stored pa bs)

/-- A little-endian field written at a physical address. -/
def State.pput (s : State) (pa n v : Nat) : State := s.pstore pa (leBytes n v)

/-! ### A group's lanes -/

/-- The lanes of a group that wait at a barrier in the instruction at an address. -/
def Group.waitersAt (g : Group) (pc : Word) : Lanes := ((g.barWaits.find? fun w => w.site == pc).map BarWait.lanes).getD 0

/-- Whether the group has lanes in handler mode (R301). -/
def Group.hmode (g : Group) : Bool := g.hlanes != 0

/-- Whether a group is switched out (R24, R28): in handler mode its trapped lanes issue all the same (R301). [DEDUCED, log 94] -/
def Group.away (g : Group) : Bool := g.out && !g.hmode

/-- Whether a group has stopped at an instruction boundary or a safe point (R299, R347). -/
def Group.halted (g : Group) : Bool :=
  match g.stop with
  | .stopped _ _ => true
  | _ => false

/-- The lanes that may issue: the running ones, of which only the trapped set in handler mode (R301), and none while a
delivery is still to begin (R297). -/
def Group.issuing (g : Group) : Lanes :=
  Lanes.ofFn fun p => g.lst.get p == .running && (if g.hmode then g.hlanes.has p else g.dels.isEmpty)

/-- The unsigned minimum of LPC over a set of lanes. -/
def Group.minLpc (g : Group) (m : Lanes) : Option Word :=
  m.list.foldl (fun a p => match a with
    | none => some (g.lpc.get p)
    | some x => some (if (g.lpc.get p).toNat < x.toNat then g.lpc.get p else x)) none

/-- The issue address (R23). -/
def Group.issueAddr (g : Group) : Option Word := g.minLpc g.issuing

/-- ACT at an address: the issuing lanes that stand there (R23). -/
def Group.actAt (g : Group) (a : Word) : Lanes := Lanes.ofFn fun p => g.issuing.has p && g.lpc.get p == a

/-- The lanes with a given LSTATE. -/
def Group.inState (g : Group) (x : LState) : Lanes := Lanes.ofFn fun p => g.lst.get p == x

/-- The lanes set to a given LSTATE. -/
def Group.setLst (g : Group) (m : Lanes) (x : LState) : Group :=
  { g with lst := Tab.ofFn fun p => if m.has p then x else g.lst.get p }

/-- The LPC of the lanes of a set replaced. -/
def Group.setLpc (g : Group) (m : Lanes) (f : Fin 64 → Word) : Group :=
  { g with lpc := Tab.ofFn fun p => if m.has p then f p else g.lpc.get p }

/-- The home lane of a position (R14). -/
def Group.home (g : Group) (p : Fin 64) : Nat := g.block * g.grant.lanes + p.val

/-- A mask, K7 being 1 in every non-vacant position (R53). -/
def Group.mask (g : Group) (k : Fin 8) : Lanes :=
  if h : k.val < 7 then g.k.get ⟨k.val, h⟩ else Lanes.ofFn fun p => g.lst.get p != .vacant

/-! ### A group's registers -/

/-- A lane register at a position; an unmapped register reads as 0 (R55). -/
def Group.readV (g : Group) (r : Fin 64) (p : Fin 64) : Word :=
  if g.mapped.getLsbD r.val then (g.v.get r).get p else 0

/-- The lanes of `m` of a lane register written: the register becomes mapped, positions never written read as 0 (R55),
and a pending free of it is cancelled (R56). -/
def Group.writeV (g : Group) (d : Fin 64) (m : Lanes) (f : Fin 64 → Word) : Group :=
  { g with
    v := g.v.set d (Tab.ofFn fun p => if m.has p then f p else g.readV d p)
    mapped := g.mapped ||| (1#64 <<< d.val)
    pendFree := g.pendFree.filter fun x => x.1 != d
    hwrote := if g.hmode then g.hwrote ||| (1#64 <<< d.val) else g.hwrote }

/-- A uniform register written. -/
def Group.writeS (g : Group) (d : Fin 128) (x : DWord) : Group := { g with s := g.s.set d x }

/-- The positions of `m` of a mask written (R54: never K7). -/
def Group.writeK (g : Group) (d : Fin 7) (m bits : Lanes) : Group :=
  { g with k := g.k.set d ((g.k.get d &&& ~~~m) ||| (bits &&& m)) }

/-- A LAST read at an address: the register becomes pending free if it is mapped (R56). [DEDUCED, log 104] -/
def Group.lastRead (g : Group) (r : Fin 64) (site : Word) : Group :=
  if g.mapped.getLsbD r.val then { g with pendFree := (r, site) :: g.pendFree.filter fun x => x.1 != r } else g

/-- The pending frees that the lowest LPC has passed take effect (R56). In handler mode the addresses are those of the
handler's section. -/
def Group.freePassed (g : Group) : Group :=
  let live := g.inState .running ||| g.inState .parked
  let lanes := if g.hmode then g.hlanes &&& live else live
  match g.minLpc lanes with
  | none => g
  | some lo =>
    let gone := g.pendFree.filter fun x => decide (x.2.toNat < lo.toNat)
    { g with
      mapped := gone.foldl (fun m x => m &&& ~~~(1#64 <<< x.1.val)) g.mapped
      pendFree := g.pendFree.filter fun x => !decide (x.2.toNat < lo.toNat) }

/-- A group of new threads, none of whose registers is mapped. -/
def Group.fresh : Group where
  uid := 0
  team := 0
  part := 0
  grant := .w64
  block := 0
  age := (1, 0)
  priv := false
  tid := Tab.ofFn fun p => BitVec.ofNat 12 p.val
  lpc := Tab.replicate 64 0
  lst := Tab.replicate 64 .running
  depth := Tab.replicate 64 0
  v := Tab.replicate 64 (Tab.replicate 64 0)
  mapped := 0
  pendFree := []
  s := Tab.replicate 128 0
  tok := 0
  k := Tab.replicate 7 0
  loops := Tab.replicate 64 0
  q := Tab.replicate 8 []
  xflags := 0
  batch := Tab.replicate 64 0
  stall := 0
  extra := 0
  short := false
  busy := []
  wait := none
  barWaits := []
  metTags := []
  fence := Tab.replicate 64 none
  brm := none
  polled := false
  out := false
  idle := false
  woken := false
  enlarge := 0
  engHeld := false
  held := none
  hlanes := 0
  hwrote := 0
  dels := []
  stop := .none

/-! ### Details of a fault -/

/-- DETAIL0 of a fault that comes from no translation (R303): PERM names the last level walked, which is free where none is, and the
other codes have 0. [DESIGN CHOICE, log 90] -/
def plainDetail (code : Byte) : DWord := if code = 0x08 then BitVec.ofNat 64 Config.unwalkedLevel.val else 0

/-! ### Errors in the arrays (R390 to R392) -/

/-- The bytes of doublewords. -/
def dwordBytes (ws : List DWord) : List Byte := ws.flatMap fun w => leBytes 8 w.toNat

/-- The number of records a queue register's LOGN gives: values above 8 read as 8 (R296). -/
def ringSize (reg : DWord) : Nat := 2 ^ (min (field reg.toNat 0 4) 8 + 4)

/-- The base that a ring register names (R296). -/
def ringBase (reg : DWord) : Nat := field reg.toNat 6 42 * 64

/-- An error-log entry of a die (R391, R392): written to its ring unless BASE is 0, and counted. -/
def State.logError (s : State) (d : Fin 4) (arr : Nat) (ue inj : Bool) (core : Nat) (addr : Nat) (ctx : Option (Nat × Word)) : State :=
  let (n, s) := s.draw
  let w0 := arr + ue.toNat * 2 ^ 8 + inj.toNat * 2 ^ 9 + core * 2 ^ 16
  let w2 := (Config.syndrome n).toNat + (ctx.elim 0 fun (g, sp) => g * 2 ^ 16 + 2 ^ 23 + sp.toNat * 2 ^ 32)
  let reg := (s.die d).errlogb
  let tail := (s.die d).errlogt
  let s := if ringBase reg = 0 then s
    else s.pstore (ringBase reg + 32 * (tail.toNat % ringSize reg))
      (dwordBytes [BitVec.ofNat 64 w0, BitVec.ofNat 64 addr, BitVec.ofNat 64 w2, s.reft])
  s.modDie d fun x => { x with errlogt := tail + 1 }

/-- A consumer's read of an array's bytes: errors there are logged, a corrected one is corrected in place, and whether an
uncorrectable one was met. [DESIGN CHOICE, log 12] -/
def State.consume (s : State) (d : Fin 4) (arr : Fin 8) (c : Fin 128) (a n : Nat) (ctx : Option (Nat × Word)) : Bool × State :=
  let hit (m : EccMark) : Bool :=
    m.arr == arr && (decide (2 < arr.val) || m.core == c) && decide (a < m.addr + markSpan arr) && decide (m.addr < a + n)
  let met := s.marks.filter hit
  let s := met.foldl (fun s m => s.logError d arr.val m.ue m.inj m.core.val m.addr ctx) s
  (met.any EccMark.ue, { s with marks := s.marks.filter fun m => !(hit m && !m.ue) })

/-- A read of bytes of a vault by a consumer: its buffer's errors and its arrays' (R390). -/
def State.consumeVault (s : State) (d : Fin 4) (pa n : Nat) (ctx : Option (Nat × Word)) : Bool × State :=
  let (u1, s) := s.consume d 4 0 pa n ctx
  let (u2, s) := s.consume d 3 0 pa n ctx
  (u1 || u2, s)

/-! ### Requests and promotion tags -/

/-- The address of a request for which no frame is known. -/
def noFrame : Nat := 2 ^ 60

/-- Whether a request has yet to perform. -/
def Req.open_ (r : Req) : Bool :=
  match r.phase with
  | .done _ _ => false
  | _ => true

/-- Whether a request writes. -/
def Req.writes (r : Req) : Bool := r.kind == .store || r.kind == .atomic

/-- Whether a request goes to a frame outside the vaults (R122). -/
def Req.outside (r : Req) : Bool := r.phase != .frozen && field r.pa 46 2 != 0

/-- Whether the writes that the tagging release covers have yet to perform at the scope of an acquire (R102). -/
def State.tagWaits (s : State) (t : PromoTag) (sc : Scope) : Bool :=
  s.reqs.any fun e => e.core == t.core && e.writes && e.open_ && decide (e.push ≤ t.rel) && (sc == .sys || !e.outside)

/-- Whether a walker's read, a device-scope acquire, meets a promotion tag that it must wait for (R102, R112). -/
def State.walkHeld (s : State) (ent : Nat) : Bool := s.tags.any fun t => t.line == ent / 64 && s.tagWaits t .dev

/-! ### Spaces and translation -/

/-- Where the entry of a space lies on a die, if its number is below SPACEN (R296, R308). [DEDUCED, log 30] -/
def State.spaceEntry (s : State) (d : Fin 4) (n : Word) : Option Nat :=
  let tb := (s.die d).spacetb.toNat
  if n.toNat < field tb 0 16 then some (field tb 16 32 * 65536 + 16 * n.toNat) else none

/-- Whether a space is being retired on the dies of a partition (R314). -/
def State.isRetiring (s : State) (part : Fin 4) (n : Word) : Bool :=
  s.retiring.any fun r => r.space == n && r.part == part

/-- The root table of a space that is valid on a die: V set, RET clear, no reserved bit set (R5, R308). [DEDUCED, log 30] -/
def State.spaceRoot (s : State) (d : Fin 4) (n : Word) : Option Nat :=
  match s.spaceEntry d n with
  | none => none
  | some a =>
    let lo := s.pnum a 8
    let hi := s.pnum (a + 8) 8
    if field lo 0 1 = 1 ∧ field lo 1 1 = 0 ∧ field lo 2 6 = 0 ∧ field lo 48 16 = 0 ∧ hi = 0
        ∧ s.isRetiring (s.die d).part n = false then
      some (field lo 8 40 * 256)
    else none

/-- Who asks for a translation (R310). -/
inductive Requester where
  | core | fetch | engine | host
  deriving DecidableEq, Repr

/-- What a translation comes to (R310): a physical address with the TLB entry that gave it, a hold at a frozen entry
(with the address that its leaf gives, or `noFrame`), or a fault with its code, whether it is serviceable, the last level walked, and the leaf's page and frame if one was
found. -/
inductive Xlate where
  | ok (pa : Nat) (uid : Nat)
  | frozen (pa : Nat)
  | fault (code : Byte) (svc : Bool) (level : Nat) (page : PageId) (frame : Nat)
  deriving DecidableEq, Repr

/-- The size of a leaf's page by level (R308). -/
def pageSize (level : Nat) : Nat := if level = 2 then 0x40000000 else if level = 1 then 0x200000 else 0x10000

/-- The index of an address at a level of the walk (R308). -/
def walkIndex (level va : Nat) : Nat :=
  if level = 4 then field va 48 7 else if level = 3 then field va 39 9 else if level = 2 then field va 30 9
  else if level = 1 then field va 21 9 else field va 16 5

/-- How a walk of the tables ends: at a leaf, at an entry that gives none, at one that a promotion tag holds, or at an uncorrectable
error. -/
inductive Walked where
  | leaf (level : Nat) (ent : Nat) (e : Nat)
  | miss (svc : Bool) (level : Nat)
  | wait
  | ecc (level : Nat)
  deriving DecidableEq, Repr

/-- Whether a physical address lies in a vault frame of a die (R309). -/
def isVaultOf (d : Fin 4) (pa : Nat) : Bool :=
  decide (field pa 46 2 = 0) && decide (field pa 39 7 = 0) && decide (field pa 37 2 = d.val)
    && decide (field pa 0 32 < 0xC0000000)

/-- Whether a reserved bit of a page entry is set (R309). -/
def entryReserved (e : Nat) : Bool :=
  field e 48 16 != 0 || (if field e 1 1 = 1 then field e 10 6 != 0 else field e 2 6 != 0)

/-- The walk of R310 from a table at `t`, `fuel` levels to go, at level `fuel - 1`. `ctx` is the context whose access walks, which the
errors met name (R391). -/
def State.walkFrom (s : State) (d : Fin 4) (va : Nat) (ctx : Option (Nat × Word)) : Nat → Nat → Walked × State
  | 0, _ => (.miss false 0, s)
  | lvl + 1, t =>
    let ent := t + 8 * walkIndex lvl va
    if s.walkHeld ent then (.wait, s)
    else match s.consumeVault d ent 8 ctx with
      | (true, s) => (.ecc lvl, s)
      | (false, s) =>
        let e := s.pnum ent 8
        let next := field e 8 40 * 256
        if entryReserved e then (.miss false lvl, s)
        else if field e 0 1 = 0 then (.miss true lvl, s)
        else if field e 1 1 = 1 then (if lvl > 2 then (.miss false lvl, s) else (.leaf lvl ent e, s))
        else if lvl = 0 then (.miss false 0, s)
        else if isVaultOf d next then s.walkFrom d va ctx lvl next
        else (.miss false lvl, s)

/-- The physical address that a leaf gives an address (R71). -/
def leafPa (level : Nat) (e va : Nat) : Nat :=
  let frame := field e 16 32 * 65536
  let off := va % pageSize level
  if field frame 46 2 = 0 ∧ field va 54 1 = 0 then
    let i := off / 65536
    let v0 := field frame 32 5
    (frame / 2 ^ 37 * 2 ^ 37) + (v0 + i) % 32 * 2 ^ 32 + (field frame 0 32 + i / 32 * 65536 + off % 65536)
  else frame + off

/-- The structural checks of a leaf's frame (R71, R310). -/
def leafFrameOk (d : Fin 4) (level : Nat) (e va : Nat) : Bool :=
  let frame := field e 16 32 * 65536
  if field frame 46 2 = 0 then
    isVaultOf d frame && isVaultOf d (leafPa level e va)
      && (if field va 54 1 = 1 then decide (field frame 32 5 = field va 49 5)
          else level != 2 || decide (field frame 0 32 % 0x2000000 = 0))
  else field frame 46 2 != 3

/-- Whether a leaf permits an access (R309). -/
def permits (k : AccKind) (fetch : Bool) (e : Nat) : Bool :=
  if fetch then field e 4 1 == 1
  else match k with
    | .load | .other => field e 2 1 == 1
    | .store => field e 3 1 == 1
    | .atomic => field e 2 1 == 1 && field e 3 1 == 1

/-- Whether the reserved-frame map at KRMAP marks the frame of a physical address (R309), or the frame holds the locked map
itself (R296). [DEDUCED, log 31] -/
def State.kernelReserved (s : State) (d : Fin 4) (pa : Nat) : Bool :=
  let bit := field pa 32 5 * 49152 + field pa 0 32 / 65536
  let base := field (s.die d).krmap.toNat 12 36 * 4096
  decide (field (s.mem.get (base + bit / 8)).toNat (bit % 8) 1 = 1)
    || ((s.die d).krlock && decide (base / 65536 ≤ pa / 65536) && decide (pa / 65536 ≤ (base + 0x2FFFF) / 65536))

/-- The TLB slice of a die that a core's request meets (R72, R311): its own position, or the port it comes in by. -/
def sliceOf (d : Fin 4) (c : Fin 128) : Nat := if dieOf c = d then localOf c else 32 + (dieOf c).val

/-- The home die of an address (R70). -/
def homeDie (va : DWord) : Fin 4 := Fin.ofNat 4 (field va.toNat 55 2)

/-- Whether an address lies in a page (R27). -/
def PageId.holds (p : PageId) (space : Word) (va : DWord) : Bool :=
  p.space == space && decide (p.base ≤ va.toNat) && decide (va.toNat < p.base + p.size)

/-- The page of a fault with no leaf (R27). -/
def unitPage (space : Word) (va : Nat) : PageId := ⟨space, va / 65536 * 65536, 65536⟩

/-- The checks on a leaf (R310): of the conditions that hold the lowest code is reported (R9), once the entry is not frozen. [DESIGN CHOICE, log 11] -/
def State.checkLeaf (s : State) (d : Fin 4) (space : Word) (va : DWord) (k : AccKind) (who : Requester) (level e uid : Nat) : Xlate :=
  let a := va.toNat
  let page : PageId := ⟨space, a / pageSize level * pageSize level, pageSize level⟩
  let frame := field e 16 32 * 65536
  let pa := leafPa level e a
  let vault := field frame 46 2 == 0
  if leafFrameOk d level e a = false then .fault 0x07 false level page frame
  else if field e 8 1 = 1 then .frozen pa
  else if field frame 46 2 = 2 ∧ (s.ports.get (Fin.ofNat 16 (field frame 42 4))).trained = false then
    .fault 0x07 true level page frame
  else if permits k (who == .fetch) e = false then .fault 0x08 (field e 9 1 == 1) level page frame
  else if (field e 7 1 == 1 || (vault && s.kernelReserved d pa)) && who != .host then .fault 0x09 false level page frame
  else .ok pa uid

/-- Whether an access writes under its translation. -/
def AccKind.writes (k : AccKind) : Bool := k == .store || k == .atomic

/-- The walker's atomic OR on a leaf entry (R113): bit 5 is A, bit 6 is D. -/
def State.orEntry (s : State) (ent : Nat) (a d : Bool) : State :=
  let old := (s.mem.get ent).toNat
  let new := old ||| (if a then 0x20 else 0) ||| (if d then 0x40 else 0)
  if new = old then s else { s with mem := s.stored ent [BitVec.ofNat 8 new] }

/-- An access that meets a TLB entry (R310, R311): before the first write under the entry the walker sets D (R113). -/
def State.meetTlb (s : State) (d : Fin 4) (space : Word) (va : DWord) (k : AccKind) (who : Requester) (ctx : Option (Nat × Word))
    (t : TlbEntry) : Xlate × State :=
  match s.consume d 5 0 (t.slice * 4096 + t.way) 1 ctx with
  | (true, s) => (.fault 0x11 false t.level (unitPage space va.toNat) 0, s)
  | (false, s) =>
    match s.checkLeaf d space va k who t.level t.leaf.toNat t.uid with
    | .ok pa uid =>
      (.ok pa uid, if k.writes && !t.dirty then
          (s.orEntry t.ent false true).modDie d fun x =>
            { x with tlb := x.tlb.map fun y => if y.uid = t.uid then { y with dirty := true } else y }
        else s)
    | r => (r, s)

/-- The number of a slice's next entry. [DESIGN CHOICE, log 11] -/
def Die.nextWay (x : Die) (slice : Nat) : Nat := (x.tlb.foldl (fun m t => if t.slice = slice then max m (t.way + 1) else m) 0) % 4096

/-- A walk that ended at a leaf (R310, R311, R113): the walker sets A, and D for a write, and the slice keeps the translation. [DESIGN CHOICE, log 11] -/
def State.meetLeaf (s : State) (d : Fin 4) (space : Word) (va : DWord) (k : AccKind) (who : Requester) (slice level ent e : Nat) :
    Xlate × State :=
  match s.checkLeaf d space va k who level e s.nextId with
  | .ok pa uid =>
    let size := pageSize level
    let way := (s.die d).nextWay slice
    let t : TlbEntry := ⟨uid, slice, way, space, va.toNat / size * size, level, BitVec.ofNat 64 e, ent, k.writes⟩
    let s := (s.orEntry ent true k.writes).modDie d fun x => { x with tlb := t :: x.tlb }
    (.ok pa uid, { s.unmark 5 0 (slice * 4096 + way) 1 with nextId := s.nextId + 1 }.inject d 5 0 (slice * 4096 + way) 1)
  | r => (r, s)

/-- Translating an access at the home die (R70, R310, R311): the slice's entry if it holds one of a valid space, else a walk, which reads
the space's entry first and whose leaf the slice keeps. `ctx` is the context that makes the access, if one does (R391). [DESIGN CHOICE, log 11] -/
def State.translate (s : State) (c : Fin 128) (space : Word) (va : DWord) (k : AccKind) (who : Requester)
    (ctx : Option (Nat × Word) := none) : Xlate × State :=
  let a := va.toNat
  let d := homeDie va
  let none_ (code : Byte) (svc : Bool) (level : Nat) : Xlate := .fault code svc level (unitPage space a) 0
  if field a 57 7 ≠ 0 ∨ (s.die d).part ≠ (s.die (dieOf c)).part then (none_ 0x07 false Config.unwalkedLevel.val, s)
  else match s.spaceEntry d space with
    | none => (none_ 0x10 false 4, s)
    | some e =>
      let slice := sliceOf d c
      match (if (s.spaceRoot d space).isSome then (s.die d).tlb.find? fun t => t.slice == slice && t.space == space
          && decide (t.base ≤ a) && decide (a < t.base + pageSize t.level) else none) with
      | some t => s.meetTlb d space va k who ctx t
      | none =>
        if s.walkHeld e then (.frozen noFrame, s)
        else match s.consumeVault d e 16 ctx with
          | (true, s) => (none_ 0x11 false 4, s)
          | (false, s) => match s.spaceRoot d space with
            | none => (none_ 0x10 false 4, s)
            | some root =>
              match s.walkFrom d a ctx 5 root with
              | (.miss svc lvl, s) => (none_ 0x07 svc lvl, s)
              | (.wait, s) => (.frozen noFrame, s)
              | (.ecc lvl, s) => (none_ 0x11 false lvl, s)
              | (.leaf lvl ent e, s) => s.meetLeaf d space va k who slice lvl ent e

/-- The page of a translation by the measure of R27: that of the TLB entry which gave it, or of the fault. -/
def State.xlatePage (s : State) (space : Word) (va : DWord) (x : Xlate) : PageId :=
  match x with
  | .ok _ uid => ((s.die (homeDie va)).tlb.find? fun t => t.uid == uid).elim (unitPage space va.toNat) fun t =>
      ⟨space, t.base, pageSize t.level⟩
  | .fault _ _ _ page _ => page
  | .frozen _ => unitPage space va.toNat

/-- Whether an access that was held at a page before the one numbered `n` still waits there: a request's, a copy's or a front end's
(R116). -/
def State.heldAhead (s : State) (n : Nat) (page : PageId) : Bool :=
  (s.reqs.any fun e => e.phase == .frozen && decide (e.id < n) && page.holds e.space e.va)
    || (s.copies.any fun k => k.heldAt.any fun h => decide (h.1 < n) && page.holds k.space h.2)
    || s.late.any fun w => decide (w.id < n) && page.holds w.space w.va

/-! ### Fault records (R303, R304) -/

/-- The number that a KIND or ACCESS field holds (R303). -/
def AccKind.number : AccKind → Nat
  | .load => 0
  | .store => 1
  | .atomic => 2
  | .other => 3

/-- The eight doublewords of a fault record (R303). -/
def recordWords (code : Byte) (kind : Nat) (access : AccKind) (wide hbad : Bool) (trapno : Byte) (seq : Nat) (site : Word)
    (va : DWord) (lanes : Lanes) (tid home gid core seqr : Nat) (space : Word) (d0 d1 : DWord) : List DWord :=
  [BitVec.ofNat 64 (code.toNat + kind * 2 ^ 8 + access.number * 2 ^ 12 + wide.toNat * 2 ^ 14 + hbad.toNat * 2 ^ 15
      + trapno.toNat * 2 ^ 16 + seq % 2 ^ 32 * 2 ^ 32),
    BitVec.ofNat 64 site.toNat, va, lanes,
    BitVec.ofNat 64 (tid + home * 2 ^ 12 + gid * 2 ^ 18 + core * 2 ^ 25 + seqr * 2 ^ 32),
    BitVec.ofNat 64 space.toNat, d0, d1]

/-- Whether a core's fault queue is full (R304); with BASE 0 it never is. -/
def Core.queueFull (k : Core) : Bool :=
  ringBase k.faultqb != 0 && decide (ringSize k.faultqb ≤ (k.faultqt - k.faultqh).toNat)

/-- The SEQ of a record put into its first doubleword. -/
def withSeq (ws : List DWord) (seq : Word) : List DWord :=
  match ws with
  | [] => []
  | w :: rest => BitVec.ofNat 64 (w.toNat % 2 ^ 32 + seq.toNat * 2 ^ 32) :: rest

/-- The IDLE groups of a core woken (R190): each resumes issue at its IDLE_WAKE. -/
def Core.wakeIdle (k : Core) : Core :=
  { k with groups := k.groups.map fun g => g.map fun x => if x.idle then { x with woken := true } else x }

/-- A notification of a die's launch queues, fault queues or breaches, sent to the scheduler of the die that owns them
(R398). -/
def State.notifyScheduler (s : State) (d : Fin 4) : State := { s with outbox := s.outbox ++ [.scheduler d (s.die d).owner] }

/-- A record written to a core's fault queue now (R304): SEQ is TAIL before the write. -/
def State.writeRecord (s : State) (c : Fin 128) (ws : List DWord) (fr : Option FaultRec) : State :=
  let k := s.core c
  let seq := k.faultqt
  let base := ringBase k.faultqb
  let s := if base = 0 then s
    else s.pstore (base + 64 * (seq.toNat % ringSize k.faultqb)) (dwordBytes (withSeq ws seq))
  (s.notifyScheduler (dieOf c)).modCore c fun k =>
    { k.wakeIdle with
      faultqt := seq + 1
      recs := match fr with
        | some r => k.recs ++ [{ r with seq := seq.toNat }]
        | none => k.recs }

/-- A record that enters the queue as soon as it has room, in arrival order (R304). -/
def State.pushRecord (s : State) (c : Fin 128) (ws : List DWord) (fr : Option FaultRec) : State :=
  if (s.core c).queueFull || !(s.core c).recPend.isEmpty then
    s.modCore c fun k => { k with recPend := k.recPend ++ [(ws, fr)] }
  else s.writeRecord c ws fr

/-! ### Taking an exception, and returning from one -/

/-- The grid of a group's team. -/
def State.gridOf (s : State) (c : Fin 128) (g : Group) : Option Grid :=
  match s.team c g.team with
  | some t => s.grid t.grid
  | none => none

/-- The address space that a group's accesses translate in (R301). -/
def State.spaceOf (s : State) (c : Fin 128) (g : Group) : Word :=
  if g.hmode then ((s.core c).banks.get g.part).elim 0 Bank.hspace
  else (s.gridOf c g).elim 0 Grid.space

/-- The first lane of a set, which names TID, HOME and VA of its record. -/
def Lanes.first (m : Lanes) : Fin 64 := m.list.headD 0

/-- The record of a delivery (R303), with a KIND and SITE of its own. -/
def State.deliveryWords (s : State) (c gid : Fin 128) (g : Group) (d : Delivery) (kind : Nat) (hbad : Bool) (site : Word) :
    List DWord :=
  let p := d.lanes.first
  recordWords d.code kind d.access d.wide hbad d.trapno 0 site d.va d.lanes (g.tid.get p).toNat (g.home p)
    gid.val c.val 0 ((s.gridOf c g).elim 0 Grid.space) d.detail0 d.detail1

/-- The handler descriptor at TRAPVEC.HDESC (R300), or none when it is invalid: a reserved field non-zero, those of its queue words
(R159) among them, HLEN 0, or HSPACE not valid. -/
def State.handler (s : State) (c gid : Fin 128) (snap : Group) : Option Bank :=
  let a := field (s.core c).trapvec.toNat 6 42 * 64
  let hcode := s.pnum a 8
  let w1 := s.pnum (a + 0x08) 8
  let w2 := s.pnum (a + 0x10) 8
  let w3 := s.pnum (a + 0x18) 8
  let w4 := s.pnum (a + 0x20) 8
  let hspace : Word := BitVec.ofNat 32 w2
  if field w3 32 32 ≠ 0 ∨ s.pnum (a + 0x28) 24 ≠ 0 ∨ field w4 16 16 ≠ 0 ∨ field w4 48 16 ≠ 0 ∨ field w1 32 32 = 0 ∨ (s.spaceRoot (dieOf c) hspace).isNone then none
  else some
    { gid := gid, snap := snap, code := 0, site := 0, va := 0, hcode := BitVec.ofNat 64 hcode, hlen := BitVec.ofNat 32 (w1 / 2 ^ 32), hspace := hspace
      hwait := BitVec.ofNat 32 (w2 / 2 ^ 32), hloop := BitVec.ofNat 32 w3, hq0 := BitVec.ofNat 32 w4
      hq1 := BitVec.ofNat 32 (w4 / 2 ^ 32) }

/-- Where the handler starts: HENTRY of the descriptor (R300), as an LPC, whose bit 0 is always 0 (R22). Beyond HLEN the lanes run what
stands there. [DESIGN CHOICE, log 108] -/
def State.handlerEntry (s : State) (c : Fin 128) : Word :=
  BitVec.ofNat 32 (s.pnum (field (s.core c).trapvec.toNat 6 42 * 64 + 0x08) 8 / 2 * 2)

/-- The resume offset of a delivery (R301): A for a fault, and A plus the instruction's length for TRAP and BRK. [DEDUCED, log 82] -/
def Delivery.resume (d : Delivery) : Word :=
  match d.kind with
  | .fault => d.site
  | .trap | .brk => d.site + (if d.wide then 4 else 2)

/-- KIND of a delivery's record (R303). -/
def Delivery.number (d : Delivery) : Nat :=
  match d.kind with
  | .fault => 2
  | .trap => 3
  | .brk => 4

/-- The bit set of V56 to V63, the names that mean the handler bank's registers in handler mode (R301). -/
def bankRegs : BitVec 64 := 0xFF00000000000000

/-- The group as it enters handler mode (R301): the trapped lanes at HENTRY, the bank's registers in place of the names
it takes, and the fault record in S112 to S119. Its wait timer pauses. -/
def Group.enterHandler (g : Group) (lanes : Lanes) (entry : Word) (ws : List DWord) : Group :=
  let g := g.setLpc lanes (fun _ => entry)
  { g with
    hlanes := lanes
    hwrote := 0
    wait := none
    polled := false
    mapped := g.mapped &&& ~~~bankRegs
    pendFree := []
    s := Tab.ofFn fun i => if i.val < 112 then g.s.get i else if i.val < 120 then ws.getD (i.val - 112) 0 else 0
    tok := g.tok &&& BitVec.ofNat 128 (2 ^ 112 - 1)
    loops := Tab.replicate 64 0
    q := (g.q.set 0 []).set 1 [] }

/-- The bank's names restored as the group leaves handler mode (R302). Pending frees of the kernel that the handler's
writes did not cancel stand again. -/
def Group.leaveHandler (g : Group) (snap : Group) : Group :=
  { g with
    hlanes := 0
    hwrote := 0
    wait := snap.wait
    polled := false
    v := Tab.ofFn fun r => if r.val < 56 then g.v.get r else snap.v.get r
    mapped := (g.mapped &&& ~~~bankRegs) ||| (snap.mapped &&& bankRegs)
    pendFree := snap.pendFree.filter fun x => decide (56 ≤ x.1.val) || !g.hwrote.getLsbD x.1.val
    s := Tab.ofFn fun i => if i.val < 112 then g.s.get i else snap.s.get i
    tok := (g.tok &&& BitVec.ofNat 128 (2 ^ 112 - 1)) ||| (snap.tok &&& ~~~(BitVec.ofNat 128 (2 ^ 112 - 1)))
    loops := snap.loops
    q := (g.q.set 0 (snap.q.get 0)).set 1 (snap.q.get 1) }

/-- Lanes end as EXIT does (R35): unfilled deferred slots of theirs leave their entries (R76). -/
def Group.exitLanes (g : Group) (m : Lanes) : Group :=
  let drop (e : QEntry) : QEntry :=
    let gone := m &&& e.deferred
    { e with lanes := e.lanes &&& ~~~gone, deferred := e.deferred &&& ~~~gone }
  { g.setLst m .exited with q := g.q.map fun es => es.map drop }

/-- A group that leaves handler mode: its own registers under the bank's names again, but for what the lanes that have exited meanwhile no
longer hold (R35, R76, R302). -/
def Group.backFrom (g : Group) (b : Bank) : Group := g.leaveHandler (b.snap.exitLanes (g.inState .exited))

/-- The bank of a partition, if the group is its holder. -/
def State.bankOf (s : State) (c gid : Fin 128) (g : Group) : Option Bank :=
  match (s.core c).banks.get g.part with
  | some b => if b.gid = gid then some b else none
  | none => none

/-- The bank of a partition freed. -/
def State.freeBank (s : State) (c : Fin 128) (p : Fin 4) : State :=
  s.modCore c fun k => { k with banks := k.banks.set p none }

/-- Whether an older group of the same partition waits for the handler bank (R298). -/
def State.olderPending (s : State) (c gid : Fin 128) (g : Group) : Bool :=
  (List.finRange 128).any fun i => match s.group c i with
    | some x => i != gid && x.part == g.part && !x.dels.isEmpty && !x.hmode && !x.halted
        && decide (x.age.1 < g.age.1 ∨ (x.age.1 = g.age.1 ∧ x.age.2 < g.age.2))
    | none => false

/-- A bank held for a delivery. -/
def Bank.reporting (b : Bank) (d : Delivery) : Bank :=
  match d.kind with
  | .fault => { b with code := d.code, site := d.site, va := d.va }
  | .trap | .brk => b

/-- A group's deliveries begun while they can be, oldest first (R297, R298): with no valid handler installed the trapped
lanes end as EXIT does and a record of kind 5 is written; otherwise the group enters handler mode if its partition's
bank is free, and waits for it if not. -/
def State.beginDeliveries (s : State) (c gid : Fin 128) : List Delivery → State
  | [] => s.modGroup c gid fun g => { g with dels := [] }
  | d :: rest =>
    match s.group c gid with
    | none => s
    | some g =>
      if (s.core c).trapvec.getLsbD 0 then
        match s.handler c gid (g.setLpc d.lanes fun _ => d.site) with
        | some b =>
          match (s.core c).banks.get g.part with
          | some _ => s.modGroup c gid fun x => { x with dels := d :: rest }
          | none =>
            if s.olderPending c gid g then s.modGroup c gid fun x => { x with dels := d :: rest }
            else
              let ws := s.deliveryWords c gid g d d.number false d.resume
              let s := s.modCore c fun k => { k with banks := k.banks.set g.part (some (b.reporting d)) }
              s.modGroup c gid fun x => { x.enterHandler d.lanes (s.handlerEntry c) ws with dels := rest }
        | none =>
          let ws := s.deliveryWords c gid g d 5 true d.site
          let s := (s.pushRecord c ws none).modCore c fun k => { k with hbad := true }
          (s.modGroup c gid fun x => x.exitLanes d.lanes).beginDeliveries c gid rest
      else
        let ws := s.deliveryWords c gid g d 5 false d.site
        ((s.pushRecord c ws none).modGroup c gid fun x => x.exitLanes d.lanes).beginDeliveries c gid rest

/-- A group's pending deliveries begun if it is not in handler mode. Those of a stopped group wait until it goes on. -/
def State.pumpDeliveries (s : State) (c gid : Fin 128) : State :=
  match s.group c gid with
  | none => s
  | some g => if g.hmode || g.halted || g.dels.isEmpty then s else s.beginDeliveries c gid g.dels

/-- TAKING AN EXCEPTION (R297, R298, R301). Deliveries raised by one instruction, one for each code in ascending order.
Of lanes in handler mode the first is a double fault: a record of kind 8, and the group stops; a TRAP or BRK there too. Those of a group
that has stopped so wait with it. [DEDUCED, log 32] -/
def State.deliver (s : State) (c gid : Fin 128) (ds : List Delivery) : State :=
  match s.group c gid with
  | none => s
  | some g =>
    match ds with
    | [] => s
    | d :: _ =>
      if g.stop = .doubleFault then s.modGroup c gid fun x => { x with dels := x.dels ++ ds }
      else if g.hmode && (d.lanes &&& g.hlanes) != 0 then
        let ws := s.deliveryWords c gid g d 8 false d.site
        (s.pushRecord c ws none).modGroup c gid fun x => { x with stop := .doubleFault }
      else (s.modGroup c gid fun x => { x with dels := x.dels ++ ds }).pumpDeliveries c gid

/-- RETURNING FROM AN EXCEPTION (R302): the lanes of `m` take the resume offset in S113 and leave handler mode; when no
lane remains there the bank is freed and the group's own registers stand under the bank's names again. -/
def State.returnLanes (s : State) (c gid : Fin 128) (m : Lanes) : State :=
  match s.group c gid with
  | none => s
  | some g =>
    let dest : Word := BitVec.ofNat 32 (g.s.get 113).toNat
    let g1 := g.setLpc m fun _ => dest
    let left := g.hlanes &&& ~~~m
    if left = 0 then
      match s.bankOf c gid g with
      | some b => (s.freeBank c g.part).setGroup c gid (some (g1.backFrom b))
      | none => s.setGroup c gid (some { g1 with hlanes := 0 })
    else s.setGroup c gid (some { g1 with hlanes := left })

end Sys2Proof.Machine
end

