-- ==== Sys2Proof/Machine/Paths.lean ====
section
/-! DEFINITION. The ways between the parts of the package and out of it: the vaults, the die links with their FIFOs (R363, R394), and
the peer ports with their flits (R376, R395). -/
namespace Sys2Proof.Machine

/-- The port of a peer frame. -/
def framePort (pa : Nat) : Fin 16 := Fin.ofNat 16 (field pa 42 4)

/-- The die on which a frame is reached: its vault's, or its peer port's (R309, R395); which one the host interface lies on is not said. -/
def frameDie (pa : Nat) : Option (Fin 4) :=
  if inVault pa then some (vaultDie pa)
  else if field pa 46 2 = 2 then some (Fin.ofNat 4 ((framePort pa).val / 4))
  else none

/-! ### Die links -/

/-- The dies that a link joins, the lower first. -/
def linkDies (k : Fin 6) : Fin 4 × Fin 4 :=
  match k.val with
  | 0 => (0, 1)
  | 1 => (0, 2)
  | 2 => (0, 3)
  | 3 => (1, 2)
  | 4 => (1, 3)
  | _ => (2, 3)

/-- The links that traffic between two dies takes: the one that joins them, or two through the lowest-numbered third die where that one
is down (R394). -/
def State.route (s : State) (a b : Fin 4) : List (Fin 6) :=
  let join (a b : Fin 4) : List (Fin 6) := (List.finRange 6).filter fun k => linkDies k == (a, b) || linkDies k == (b, a)
  if (join a b).any fun k => (s.links.get k).down then
    match allDies.find? fun d => d != a && d != b with
    | some d => join a d ++ join d b
    | none => []
  else join a b

/-- Whether traffic between two dies waits in the FIFOs of a link that retrains (R394), or of a die that relocks (R363). -/
def State.diesHeld (s : State) (a b : Fin 4) : Bool :=
  a != b && ((s.route a b).any (fun k => (s.links.get k).retraining) || (s.die a).relock.isSome || (s.die b).relock.isSome)

/-- Whether the traffic between a core and a frame waits on its way between their dies. -/
def State.linkHeld (s : State) (c : Fin 128) (pa : Nat) : Bool := (frameDie pa).any (s.diesHeld (dieOf c))

/-! ### Peer ports -/

/-- Whether the ports send: the device runs, and no suspend has stopped them (R374, R384). [DEDUCED, log 85] -/
def State.portsSend (s : State) : Bool := s.pkg.mbstate == .running && decide (s.pkg.suspPhase.toNat < 2)

/-- Whether an access to a frame may leave the package: a vault frame never does, and a peer frame needs its port trained and its
sequence confirmed (R376), and the ports to send. -/
def State.pathOpen (s : State) (pa : Nat) : Bool :=
  if field pa 46 2 = 2 then
    let p := s.ports.get (framePort pa)
    p.trained && !p.confirming && s.portsSend
  else true

/-- The flits that a message with `n` bytes of payload takes: 256 bytes each, the first of which holds the header's 64 (R395, R397).
[DESIGN CHOICE, log 17] -/
def flits (n : Nat) : Nat := (64 + n + 255) / 256

/-- A message of a port under its next sequence number, that of its first flit; it is kept until its peer confirms a later one (R376, R395). -/
def State.portSend (s : State) (port : Fin 16) (n : Nat) (m : Word → Msg) : State :=
  let seq := (s.ports.get port).sendSeq
  { s with
    ports := s.ports.modify port fun p => { p with sendSeq := p.sendSeq + BitVec.ofNat 32 (flits n), sent := p.sent ++ [(seq, m seq)] }
    outbox := s.outbox ++ [m seq] }

/-- A message to a CXL or peer frame, numbered by its peer port if it has one. -/
def State.frameSend (s : State) (id pa op : Nat) (data : List Byte) : State :=
  if field pa 46 2 = 2 then s.portSend (framePort pa) data.length fun _ => .frame id pa op data
  else { s with outbox := s.outbox ++ [.frame id pa op data] }

/-- A request to a CXL or peer frame, which a peer port keeps as outstanding until it is answered. -/
def State.sendFrame (s : State) (id pa op : Nat) (data : List Byte) : State :=
  (if field pa 46 2 = 2 then
    { s with ports := s.ports.modify (framePort pa) fun p => { p with reads := p.reads ++ [(p.sendSeq, id)] } }
  else s).frameSend id pa op data

end Sys2Proof.Machine
end

