-- ==== Sys2Proof/Machine/Work.lean ====
section
/-! DEFINITION. The end of work: a front end's own reads and writes, the completion of a command, the settlement of a
quotation with its breach record (R329 to R332), and the completion of a graph's firing (R290). -/
namespace Sys2Proof.Machine

/-! ### Front-end accesses -/

/-- The core whose TLB slice a die's front end uses. -/
def frontCore (d : Fin 4) : Fin 128 := Fin.ofNat 128 (d.val * 32)

/-- A front end's access to a virtual address of a space. -/
def State.frontXlate (s : State) (d : Fin 4) (space : Word) (va : DWord) (k : AccKind) : Xlate × State :=
  s.translate (frontCore d) space va k .host

/-- Why a front end's access is not made: a fault with its address, or a hold at a frozen entry (R116). -/
inductive FrontErr where
  | fault (code : Byte) (va : Nat)
  | held
  deriving DecidableEq, Repr

/-- How many of `n` bytes lie on the 64 KiB unit of the first. -/
def pieceLen (va n : Nat) : Nat := min (65536 - va % 65536) n

/-- The bytes that a front end reads at a physical address, or the code of the fault that they meet (R313, R390). A CXL or peer frame is
read by a request, whose completion is a free value. [DESIGN CHOICE, log 22] -/
def State.frontBytes (s : State) (d : Fin 4) (pa n : Nat) : Except Byte (List Byte) × State :=
  if inVault pa then
    let (ue, s) := s.consumeVault d pa n none
    (if ue then .error 0x11 else .ok (s.mem.bytes pa n), s)
  else
    let (k, s) := s.draw
    let (id, s) := s.newId
    (match (Config.frameStatus k).val with
      | 0 => .ok ((List.range n).map fun i => Config.frameByte k (pa + i))
      | 1 => .error 0x07
      | _ => .error 0x11, s.frameSend id pa 0 [])

/-- Bytes that a front end writes at a physical address: into a vault, where they meet an armed injection (R392), or as a request to a CXL
or peer frame. -/
def State.frontWrite (s : State) (pa : Nat) (bs : List Byte) : State :=
  if inVault pa then s.pstore pa bs
  else
    let (id, s) := s.newId
    s.frameSend id pa 1 bs

/-- `n` bytes from a virtual address up, read unit by unit, `fuel` units at most. A read waits while the way to its frame does (R363, R394).
[DEDUCED, log 61] -/
def State.frontReadGo (d : Fin 4) (space : Word) : Nat → Nat → Nat → List Byte → State → Except FrontErr (List Byte) × State
  | 0, _, _, acc, s => (.ok acc, s)
  | fuel + 1, va, n, acc, s =>
    if n = 0 then (.ok acc, s)
    else match s.frontXlate d space (BitVec.ofNat 64 va) .load with
      | (.ok pa _, s) =>
        let k := pieceLen va n
        if s.linkHeld (frontCore d) pa || !s.pathOpen pa then (.error .held, s)
        else match s.frontBytes (homeDie (BitVec.ofNat 64 va)) pa k with
          | (.error code, s) => (.error (.fault code va), s)
          | (.ok bs, s) => State.frontReadGo d space fuel (va + k) (n - k) (acc ++ bs) s
      | (.frozen _, s) => (.error .held, s)
      | (.fault code _ _ _ _, s) => (.error (.fault code va), s)

/-- `n` bytes that a front end reads from a virtual address up. -/
def State.frontRead (s : State) (d : Fin 4) (space : Word) (va : DWord) (n : Nat) : Except FrontErr (List Byte) × State :=
  State.frontReadGo d space (n / 65536 + 2) va.toNat n [] s

/-- Bytes written from a virtual address up, unit by unit, `fuel` units at most. -/
def State.frontStoreGo (d : Fin 4) (space : Word) : Nat → Nat → List Byte → State → Except (FrontErr × Nat × List Byte) Unit × State
  | 0, _, _, s => (.ok (), s)
  | fuel + 1, va, bs, s =>
    if bs.isEmpty then (.ok (), s)
    else match s.frontXlate d space (BitVec.ofNat 64 va) .store with
      | (.ok pa _, s) =>
        let k := pieceLen va bs.length
        if s.linkHeld (frontCore d) pa || !s.pathOpen pa then (.error (.held, va, bs), s)
        else State.frontStoreGo d space fuel (va + k) (bs.drop k) (s.frontWrite pa (bs.take k))
      | (.frozen _, s) => (.error (.held, va, bs), s)
      | (.fault code _ _ _ _, s) => (.error (.fault code va, va, bs), s)

/-- Bytes that a front end writes from a virtual address up; on an error, what was left to write and where. -/
def State.frontStore (s : State) (d : Fin 4) (space : Word) (va : DWord) (bs : List Byte) :
    Except (FrontErr × Nat × List Byte) Unit × State :=
  State.frontStoreGo d space (bs.length / 65536 + 2) va.toNat bs s

/-- A front end's write that waits behind a frozen entry, and every later write of its die (R116). [DEDUCED, log 61] -/
def State.putLate (s : State) (d : Fin 4) (space : Word) (va : DWord) (bs : List Byte) : State :=
  let (id, s) := s.newId
  { s with late := s.late ++ [⟨id, d, space, va, bs⟩] }

/-- Whether a write of a die's front end waits. -/
def State.writesWait (s : State) (d : Fin 4) : Bool := s.late.any fun w => w.die == d

/-- A write that a front end makes and does not take back: it waits at a frozen entry, and where the address has no
translation nothing is written. [DEDUCED, log 61] -/
def State.frontPut (s : State) (d : Fin 4) (space : Word) (va : DWord) (bs : List Byte) : State :=
  if s.writesWait d then s.putLate d space va bs
  else match s.frontStore d space va bs with
    | (.error (.held, va, bs), s) => s.putLate d space (BitVec.ofNat 64 va) bs
    | (_, s) => s

/-- A front end's write of one word that retirement makes before the space's translations end (R292, R314): whatever else waits. -/
def State.frontForce (s : State) (d : Fin 4) (space : Word) (va : DWord) (bs : List Byte) : State :=
  match s.frontXlate d space va .store with
  | (.ok pa _, s) => s.frontWrite pa bs
  | (.frozen _, s) => s.putLate d space va bs
  | (.fault _ _ _ _ _, s) => s

/-- A waiting write of a front end tried again, in the order in which they arrived (R116). -/
def State.retryLate (s : State) (w : LateWrite) : State :=
  if (s.late.find? fun x => x.die == w.die) = some w then
    match s.frontStore w.die w.space w.va w.bytes with
    | (.error (.held, va, bs), s) =>
      { s with late := s.late.map fun x => if x.id = w.id then { x with va := BitVec.ofNat 64 va, bytes := bs } else x }
    | (_, s) => { s with late := s.late.filter fun x => x.id != w.id }
  else s

/-- A status word (R317). -/
def statusWord (code : Byte) (reason value detail : Nat) : Nat :=
  code.toNat + reason % 256 * 2 ^ 8 + value % 65536 * 2 ^ 16 + detail % 2 ^ 32 * 2 ^ 32

/-- A command's status word written as a release at system scope (R317). A STAT that does not translate takes no write. [DEDUCED, log 60] -/
def State.writeStatus (s : State) (d : Fin 4) (space : Word) (stat : DWord) (w : Nat) : State :=
  (s.frontPut d space stat (leBytes 8 w)).notifyScheduler d

/-- A status word written where its command asked. -/
def State.writeAt (s : State) (a : StatAt) (w : Nat) : State := s.writeStatus a.die a.space a.va w

/-! ### Launch-queue entries -/

/-- Where a launch-queue entry lies (R315, R316). -/
def State.queueEntry (s : State) (d : Fin 4) (q : Nat) : Nat := field (s.die d).lqtab.toNat 8 40 * 256 + 64 * q

/-- A saturating 64-bit add, as counters make it (R111). -/
def satAdd (a b : Nat) : Nat := min (a + b) (2 ^ 64 - 1)

/-- A breach record written to the ring of the launch queue whose entry lies at `e`, BCNT advanced, and the scheduler told
(R332, R398). -/
def State.writeBreachAt (s : State) (e : Nat) (d : Fin 4) (ws : List DWord) : State :=
  let ring := s.pnum (e + 0x18) 8
  let n := s.pnum (e + 0x20) 8
  let size := 2 ^ (field ring 0 4 + 2)
  let s := s.pstore (field ring 6 42 * 64 + 64 * (n % size)) (dwordBytes ws)
  (s.pput (e + 0x20) 8 (satAdd n 1)).notifyScheduler d

/-- A breach record of a quotation written to its launching queue (R332). -/
def State.writeBreach (s : State) (q : Quote) (ws : List DWord) : State := s.writeBreachAt (s.queueEntry q.die q.queue) q.die ws

/-! ### Settlement -/

/-- The party at fault for an excess (R331): 1 caller, 2 environment, 3 device; 0 for no excess. -/
def partyOf (excess call env : Nat) : Nat :=
  if excess = 0 then 0 else if excess ≤ call then 1 else if excess ≤ call + env then 2 else 3

/-- Whether a cause belongs to a party (R331). -/
def causeOf (party cause : Nat) : Bool :=
  match party with
  | 1 => decide (cause < 0x10)
  | 2 => decide (0x10 ≤ cause) && decide (cause < 0x20)
  | _ => decide (0x20 ≤ cause)

/-- A cause that holds a grid now (R331), with the code and the site of a fault behind it. -/
structure Held where
  cause : Nat
  code : Byte
  site : Word
  deriving DecidableEq, Repr

/-- Time and energy added to a cause's entry, or to that of a fault. -/
def blame (bs : List Blame) (h : Held) (t e : Nat) : List Blame :=
  let same (b : Blame) : Bool := b.cause == h.cause && b.code == h.code && b.site == h.site
  if bs.any same then bs.map fun b => if same b then { b with time := b.time + t, energy := b.energy + e } else b
  else bs ++ [⟨h.cause, t, e, h.code, h.site⟩]

/-- The entry with the largest amount, the lower cause number on a tie. -/
def largest (amount : Blame → Nat) (bs : List Blame) : Option Blame :=
  bs.foldl (fun a b => match a with
    | none => some b
    | some x => if amount x < amount b ∨ (amount x = amount b ∧ b.cause < x.cause) then some b else some x) none

/-- The cause recorded for a party (R331); for the device, the device cause that was last observed. -/
def causeFor (q : Quote) (party : Nat) (amount : Blame → Nat) : Nat :=
  if party = 3 then q.devCause
  else ((largest amount (q.causes.filter fun b => causeOf party b.cause)).elim 0 Blame.cause)

/-- The fault behind most of a cause's time, the earliest on a tie (R332). -/
def faultFor (q : Quote) (cause : Nat) : Option Blame :=
  (q.blames.filter fun b => b.cause == cause && b.code != 0).foldl (fun a b => match a with
    | none => some b
    | some x => if x.time < b.time then some b else some x) none

/-- The eight doublewords of a breach record (R332). -/
def breachWords (q : Quote) (kind xt xe : Nat) (period : DWord) : List DWord :=
  let pt := partyOf xt q.callT q.envT
  let pe := partyOf xe q.callE q.envE
  let ct := causeFor q pt Blame.time
  let ce := causeFor q pe Blame.energy
  let cause := if 0 < xt then ct else ce
  let f := faultFor q cause
  [q.qid,
    BitVec.ofNat 64 (cause + pt * 2 ^ 8 + pe * 2 ^ 10 + kind * 2 ^ 12 + (f.elim 0 fun b => b.code.toNat) * 2 ^ 16
      + (if 0 < xe then ce else 0) * 2 ^ 24 + (f.elim 0 fun b => b.site.toNat) * 2 ^ 32),
    BitVec.ofNat 64 xt, BitVec.ofNat 64 xe, BitVec.ofNat 64 q.measured, BitVec.ofNat 64 q.measuredE,
    BitVec.ofNat 64 (q.callT % 2 ^ 32 + q.envT % 2 ^ 32 * 2 ^ 32), period]

/-- A quotation's breach check (R331, R332): a record when either measure exceeds its quote. -/
def State.breachCheck (s : State) (q : Quote) (kind : Nat) (period : DWord) : State :=
  let xt := q.measured - q.time
  let xe := q.measuredE - q.energy
  if xt = 0 ∧ xe = 0 then s else s.writeBreach q (breachWords q kind xt xe period)

/-- One quotation changed. -/
def State.modQuote (s : State) (qid : DWord) (f : Quote → Quote) : State :=
  { s with quotes := s.quotes.map fun q => if q.qid = qid then f q else q }

/-- A quotation whose grid HALTT or HALTE ends: the WAITOUT that ends it is a fault of the grid, so an excess that nothing else explains is
the caller's, cause 0x01 (R331, R336). [DEDUCED, log 109] -/
def Quote.halted (q : Quote) : Quote :=
  let mine (excess call env : Nat) : Nat := if partyOf excess call env = 3 ∧ q.devCause = 0x23 then excess else 0
  let t := mine (q.measured - q.time) q.callT q.envT
  let e := mine (q.measuredE - q.energy) q.callE q.envE
  if t = 0 ∧ e = 0 then q
  else { q with
    callT := q.callT + t, callE := q.callE + e
    causes := blame q.causes ⟨0x01, 0, 0⟩ t e, blames := blame q.blames ⟨0x01, 0x03, 0⟩ t e }

/-- The quotation of an id. -/
def State.quote (s : State) (qid : DWord) : Option Quote := s.quotes.find? fun q => q.qid == qid

/-- A RUNNING quotation settles (R326, R331): the breach check is made and the reservation released. -/
def State.settleQuote (s : State) (qid : DWord) (kind : Nat) : State :=
  match s.quote qid with
  | none => s
  | some q => (s.breachCheck q kind 0).modQuote qid fun x => { x with state := .settled }

/-! ### Graphs -/

/-- One bound graph changed. -/
def State.modGraph (s : State) (id : Nat) (f : Graph → Graph) : State :=
  { s with graphs := s.graphs.map fun g => if g.id = id then f g else g }

/-- The bound graph of an id. -/
def State.graphOf (s : State) (id : Nat) : Option Graph := s.graphs.find? fun g => g.id == id

/-- The status word of a command whose space is being retired (R314, R317). [DEDUCED, log 78] -/
def State.forceAt (s : State) (a : StatAt) (w : Nat) : State := (s.frontForce a.die a.space a.va (leBytes 8 w)).notifyScheduler a.die

/-- A field of a graph's control block written (R283). -/
def State.putCtl (s : State) (g : Graph) (off : Nat) (n v : Nat) : State :=
  s.frontPut g.die g.space (g.ctl + BitVec.ofNat 64 off) (leBytes n v)

/-- The index of a firing's first record on an edge (R289). -/
def firstRecord (f : Firing) (e : GEdge) (rate : Nat) : Nat := f.period * e.n + f.fire * rate

/-- The address of record number i of an edge (R287). -/
def recordVa (e : GEdge) (i : Nat) : DWord := BitVec.ofNat 64 (e.addr + 64 * (i % e.cap))

/-- The cursor of a firing on an edge (R290). -/
def cursorOf (f : Firing) (e : Nat) : Nat := ((f.curs.find? fun x => x.1 == e).map Prod.snd).getD 0

/-- Records `i` up to `i + n - 1` of an edge written as zeros. -/
def State.zeroRecords (s : State) (g : Graph) (e : GEdge) (i : Nat) : Nat → State
  | 0 => s
  | n + 1 =>
    let s := s.frontPut g.die g.space (recordVa e i) (List.replicate 64 0)
    s.zeroRecords g e (i + 1) n

/-- Steps 1 and 2 of a firing's completion (R290): out-records not emitted are written as zeros, and the firing is
reported short if there were any. -/
def State.completeFiring (s : State) (gid fid : Nat) : State :=
  match s.graphOf gid with
  | none => s
  | some g =>
    match g.firings.find? fun f => f.id == fid with
    | none => s
    | some f =>
      let outs := g.plan.edges.filter fun e => e.src == f.stage
      let short := outs.any fun e => decide (cursorOf f e.id < e.p)
      let s := outs.foldl (fun s e =>
        s.zeroRecords g e (firstRecord f e e.p + cursorOf f e.id) (e.p - cursorOf f e.id)) s
      let stageId := (g.plan.stages[f.stage]?).elim 0 GStage.id
      let s := if short then
          let n := satAdd g.shorts.toNat 1
          let s := s.putCtl g 0x10 8 n
          let s := s.putCtl g 0x18 8 (stageId % 65536 + f.fire % 65536 * 2 ^ 16 + (g.since + f.period) % 2 ^ 32 * 2 ^ 32)
          s.modGraph gid fun x => { x with shorts := BitVec.ofNat 64 n }
        else s
      s.modGraph gid fun x =>
        { x with firings := x.firings.map fun y => if y.id = fid then { y with done := true } else y }

/-! ### Grids -/

/-- Whether a team is open work. -/
def State.isOpen (s : State) (t : Team) : Bool := (s.grid t.grid).elim true fun g => g.qid.isNone

/-- The ACCEPTs whose swap-out is done complete: no open team is resident on a core that they reserved, and each die of such a
core runs at ratio 50 or below (R328, R364). [DEDUCED, log 72] -/
def State.acceptsDone (s : State) : State :=
  let openOn (q : Quote) : Bool := allCores.any fun c => q.cores.getLsbD c.val
    && (decide (50 < (s.die (dieOf c)).cur.toNat) || (s.die (dieOf c)).relock.isSome
      || (List.finRange 16).any fun t => (s.team c t).elim false fun x => s.isOpen x)
  s.quotes.foldl (fun s q => match q.pend with
    | some a => if openOn q then s
      else (s.writeAt a (statusWord 0 0 0 0)).modQuote q.qid fun x => { x with pend := none }
    | none => s) s

/-- The number of teams of a grid (R11). -/
def Grid.teams (g : Grid) : Nat := g.dims.1 * g.dims.2.1 * g.dims.2.2

/-- The number of threads of a grid's teams (R11). -/
def Grid.threads (g : Grid) : Nat := g.shape.1 * g.shape.2.1 * g.shape.2.2

/-- A grid that has ended is forgotten once no core holds a team of it. -/
def State.reapGrid (s : State) (id : Nat) : State :=
  match s.grid id with
  | none => s
  | some g =>
    let held := allCores.any fun c => (List.finRange 16).any fun t => (s.team c t).elim false fun x => x.grid == id
    if g.teams ≤ g.finished ∧ held = false then { s with grids := s.grids.filter fun x => x.id != id } else s

/-- A grid's end: its quotation settles, its LAUNCH completes with a CODE (0 unless it was ended), and a graph's firing
completes. -/
def State.finishGrid (s : State) (id : Nat) (code : Byte) (kind : Nat) : State :=
  match s.grid id with
  | none => s
  | some g =>
    let s := s.modGrid id fun x => { x with finished := g.teams, placed := g.teams, stat := none, firing := none }
    let s := s.reapGrid id
    let s := match g.firing, g.qid with
      | none, some q => s.settleQuote q kind
      | _, _ => s
    let s := match g.stat with
      | some a => s.writeAt a (statusWord code 0 0 0)
      | none => s
    match g.firing with
    | some (gr, f) => s.completeFiring gr f
    | none => s

/-- One more team of a grid has exited; with the last, the grid ends (R329, R331). -/
def State.teamFinished (s : State) (id : Nat) : State :=
  match s.grid id with
  | none => s
  | some g =>
    if g.teams ≤ g.finished then s
    else if g.teams ≤ g.finished + 1 then s.finishGrid id 0 0
    else s.modGrid id fun g => { g with finished := g.finished + 1 }

end Sys2Proof.Machine
end

