-- ==== Sys2Proof/Machine/Issue.lean ====
section
/-! DEFINITION. What surrounds every instruction of a group: the scoreboard and token waits before it, the register
store, and after it the lanes' next addresses, the delivery of faults, the frees of last reads, and the exit of lanes,
groups and teams with the regroup they may complete. -/
namespace Sys2Proof.Machine

/-! ### The register store of a team (R57 to R62) -/

/-- The quarter columns of a group's slices (R59). -/
def Group.quarters (g : Group) : List Nat :=
  let n := g.grant.lanes / 16
  (List.range n).map fun i => (g.block * n) % 4 + i

/-- A group's register count (R55). In handler mode the group's own V56 to V63 stand in the bank's snapshot. -/
def State.regCount (s : State) (c gid : Fin 128) (g : Group) : Nat :=
  if g.hmode then popcount (g.mapped &&& ~~~bankRegs)
    + (match s.bankOf c gid g with
      | some b => popcount (b.snap.mapped &&& bankRegs)
      | none => 0)
  else popcount g.mapped

/-- A group's reservation (R45, R60): the ceiling for bound work, the floor for open work. -/
def Grid.reservation (g : Grid) : Nat := if g.qid.isSome then g.kern.ceil else g.kern.floor

/-- The groups of a team's half resident on a core, by number. -/
def State.teamGroups (s : State) (c : Fin 128) (t : Fin 16) : List (Fin 128 × Group) :=
  (List.finRange 128).filterMap fun i => match s.group c i with
    | some g => if g.team = t then some (i, g) else none
    | none => none

/-- The slots that a group has taken from the core reserve, if it is a holder (R62). -/
def Core.lent (k : Core) (uid : Nat) : Option Nat := (k.loan.find? fun e => e.1 == uid).map Prod.snd

/-- The free quarter slots of a team's store in one column (R60, R61): those that a holder took from the reserve are none of them. -/
def State.slotsFree (s : State) (c : Fin 128) (t : Fin 16) (team : Team) (grid : Grid) (col : Nat) : Nat :=
  256 * team.regG.length - ((s.teamGroups c t).map fun (i, g) =>
    if g.quarters.contains col then max (s.regCount c i g) grid.reservation - ((s.core c).lent g.uid).getD 0 else 0).sum

/-- Whether an age is older than another (R61). -/
def older (a b : Nat × Nat) : Bool := decide (a.1 < b.1 ∨ (a.1 = b.1 ∧ a.2 < b.2))

/-- The age of the group after one of an age in the ring of a partition, in which the groups stand by age and the oldest follows the
youngest (R339). -/
def State.ringNext (s : State) (c : Fin 128) (p : Fin 4) (age : Nat × Nat) : Nat × Nat :=
  let ages := (s.core c).groups.val.filterMap fun g => g.bind fun x => if x.part = p then some x.age else none
  let least (l : List (Nat × Nat)) : Option (Nat × Nat) := l.foldl (fun a b => match a with
    | none => some b
    | some x => if older b x then some b else some x) none
  (least (ages.filter fun a => older age a)).getD ((least ages).getD age)

/-- The slots of one column that the stalled groups of the team whose turn comes before a group's want: every one before a group that
does not stall, and the older ones before one that does (R61). -/
def State.slotsOwed (s : State) (c : Fin 128) (g : Group) (col : Nat) : Nat :=
  ((s.teamGroups c g.team).map fun (_, h) =>
    if h.uid != g.uid && h.quarters.contains col && (g.enlarge == 0 || older h.age g.age) then h.enlarge else 0).sum

/-- The largest register ceiling among the resident open teams of a core: the slots of its reserve in each column (R60). -/
def State.reserveSlots (s : State) (c : Fin 128) : Nat :=
  (s.core c).teams.val.foldl (fun m t => match t.bind fun x => s.grid x.grid with
    | some grid => if grid.qid.isNone then max m grid.kern.ceil else m
    | none => m) 0

/-- The free slots of a core's reserve in one column, which only its holders take (R62). -/
def State.reserveFree (s : State) (c : Fin 128) (col : Nat) : Nat :=
  s.reserveSlots c - ((s.core c).loan.map fun e =>
    if (s.core c).groups.val.any fun g => g.any fun x => x.uid == e.1 && x.quarters.contains col then e.2 else 0).sum

/-- The least of a count over the quarter columns of a group. -/
def Group.leastIn (g : Group) (f : Nat → Nat) : Nat := ((g.quarters.map f).min?).getD 0

/-- What a write of lane registers meets (R57, R61, R62): its slices, `n` slots of which come from the reserve, the register ceiling,
or a stall on enlargement for want of `n` slots. -/
inductive Alloc where
  | ok
  | lend (n : Nat)
  | ceiling
  | stall (n : Nat)
  deriving DecidableEq, Repr

/-- Whether the registers a group is about to write can have their slices. A holder of the reserve takes what the store has, and the
rest from the reserve. [DESIGN CHOICE, log 96] -/
def State.alloc (s : State) (c gid : Fin 128) (g : Group) (team : Team) (grid : Grid) (ds : List (Fin 64)) : Alloc :=
  let new := (ds.filter fun d => !g.mapped.getLsbD d.val && !(g.hmode && decide (56 ≤ d.val))).length
  if new = 0 then .ok
  else
    let n := s.regCount c gid g
    if grid.kern.ceil < n + new then .ceiling
    else
      let excess := n + new - max n grid.reservation
      let store := min excess (g.leastIn fun q => s.slotsFree c g.team team grid q - s.slotsOwed c g q)
      if store = excess then .ok
      else if ((s.core c).lent g.uid).isSome && decide (excess - store ≤ g.leastIn (s.reserveFree c)) then .lend (excess - store)
      else .stall excess

/-! ### Exit of groups and teams (R35, R340) -/

/-- The team a group belongs to has no resident group left, on either half. -/
def State.teamEmpty (s : State) (c : Fin 128) (t : Fin 16) (team : Team) : Bool :=
  (s.teamGroups c t).isEmpty && (!team.paired || (s.teamGroups (partner c) team.mate).isEmpty)

/-- The attributed amounts of some causes less what they were before. -/
def blamesSince (now old : List Blame) : List Blame :=
  now.map fun b => match old.find? fun o => o.cause == b.cause && o.code == b.code && o.site == b.site with
    | some o => { b with time := b.time - o.time, energy := b.energy - o.energy }
    | none => b

/-- A quotation as the record that Sorrel wrote under it measures: the record's time, and what was attributed meanwhile (R331, R357). -/
def Served.measure (r : Served) (q : Quote) (took : Nat) : Quote :=
  { q with
    measured := took, callT := q.callT - r.callT, envT := q.envT - r.envT
    causes := blamesSince q.causes r.causes, blames := blamesSince q.blames r.blames }

/-- Whether a record was popped by a group that holds one of some threads of a team (R357). [DEDUCED, log 35] -/
def Served.takenBy (r : Served) (team : Nat) (tids : List (BitVec 12)) : Bool :=
  r.taker.any fun t => t.1 == team && t.2.any tids.contains

/-- The threads of a group. -/
def Group.threads (g : Group) : List (BitVec 12) := ((List.finRange 64).filter fun p => g.lst.get p != .vacant).map g.tid.get

/-- A record that threads of a team popped ends with their next pop or their group (R357). [DEDUCED, log 35] -/
def State.closeServed (s : State) (team : Nat) (tids : List (BitVec 12)) : State :=
  let done := s.served.filter fun r => r.takenBy team tids
  let s := { s with served := s.served.filter fun r => !r.takenBy team tids }
  done.foldl (fun s r => match s.quote r.qid with
    | some q =>
      let took := (s.reft - r.since).toNat * 10
      if q.time < took then
        s.writeBreach q (breachWords (r.measure q took) 0 (took - q.time) 0 0)
      else s
    | none => s) s

/-- The record that a group which leaves its core serves ends (R357). -/
def State.endServed (s : State) (c : Fin 128) (g : Group) : State :=
  match s.team c g.team with
  | some t => s.closeServed t.admitted g.threads
  | none => s

/-- The reserve returned to a core if every holder of it has a register count at or below its floor, or has left (R62). -/
def State.endLoan (s : State) (c : Fin 128) : State :=
  let k := s.core c
  let low (i : Fin 128) (x : Group) : Bool := decide (s.regCount c i x ≤ ((s.gridOf c x).elim 0 fun y => y.kern.floor))
  if (List.finRange 128).all fun i => match k.groups.get i with
    | some x => (k.lent x.uid).isNone || low i x
    | none => true
  then s.modCore c fun k => { k with loan := [] }
  else s

/-- A group that leaves its place no longer holds the core reserve, which returns if no other holder still needs it (R62). -/
def State.dropLoan (s : State) (c : Fin 128) (uid : Nat) : State :=
  if ((s.core c).lent uid).isSome then
    (s.modCore c fun k => { k with loan := k.loan.filter fun e => e.1 != uid }).endLoan c
  else s

/-- A group leaves its core: its slots and slices are free; with the team's last group the team has exited. -/
def State.exitGroup (s : State) (c gid : Fin 128) (g : Group) : State :=
  let s := s.endServed c g
  let s := (s.setGroup c gid none).dropLoan c g.uid
  match s.team c g.team with
  | none => s
  | some t =>
    if s.teamEmpty c g.team t && !t.exited then
      let s := s.modTeam c g.team fun x => { x with exited := true }
      let s := if t.paired then s.modTeam (partner c) t.mate fun x => { x with exited := true } else s
      s.teamFinished t.grid
    else s

/-! ### Regrouping at BRM (R30 to R33) -/

/-- A thread of a regroup set: where it stands and where it goes. -/
structure Mover where
  gid : Fin 128
  pos : Fin 64
  tid : Nat
  target : Word
  deriving DecidableEq, Repr

/-- A new group being filled: its block and the threads by position. -/
structure NewGroup where
  block : Nat
  who : List Mover
  width : Nat
  deriving DecidableEq, Repr

/-- The position of a thread in a group of width w (R14). -/
def posOf (tid w : Nat) : Fin 64 := Fin.ofNat 64 (tid % 64 % w)

/-- A thread placed in the first new group that can take it (R32). -/
def placeMover (w : Nat) (m : Mover) : List NewGroup → List NewGroup
  | [] => [⟨m.tid % 64 / w, [m], w⟩]
  | n :: rest =>
    if n.block = m.tid % 64 / w ∧ (n.who.any fun x => posOf x.tid w == posOf m.tid w) = false then
      { n with who := n.who ++ [m] } :: rest
    else n :: placeMover w m rest

/-- Insertion by a key, keeping the order of equals. -/
def insertBy {α : Type} (key : α → Nat) (x : α) : List α → List α
  | [] => [x]
  | y :: ys => if key x < key y then x :: y :: ys else y :: insertBy key x ys

/-- A list sorted by a key, stably. -/
def sortBy {α : Type} (key : α → Nat) (xs : List α) : List α := xs.foldl (fun acc x => insertBy key x acc) []

/-- The branch a lane takes at a BRM or BRC (R173): the target when its mask bit is not NEG. -/
def branchTo (g : Group) (b : BrmWait) (p : Fin 64) : Word :=
  if (g.mask b.k).has p != b.neg then b.target else b.site + 4

/-- The threads of a set in the order of R32. -/
def moversOf (set : List (Fin 128 × Group × BrmWait)) : List Mover :=
  let all := set.flatMap fun (i, g, b) => (g.inState .running).list.map fun p => Mover.mk i p (g.tid.get p).toNat (branchTo g b p)
  sortBy (fun m => m.target.toNat) (sortBy Mover.tid all)

/-- A new group's contents, taken from the groups its threads came from (R33). The interval of R125 that still runs in it is that of the
group that its uniform registers come from, and so are its lanes in handler mode and its stop. [DEDUCED, log 97; DESIGN CHOICE, log 110] -/
def buildGroup (set : List (Fin 128 × Group × BrmWait)) (n : NewGroup) (uid : Nat) (part : Fin 4) (age : Nat × Nat) : Option Group :=
  let from_ (m : Mover) : Option Group := (set.find? fun x => x.1 == m.gid).map fun x => x.2.1
  let at_ (p : Fin 64) : Option (Mover × Group) :=
    match n.who.find? fun m => posOf m.tid n.width == p with
    | some m => (from_ m).map fun g => (m, g)
    | none => none
  let sources := set.filter fun x => n.who.any fun m => m.gid == x.1
  let lowest := (List.finRange 64).findSome? fun p => at_ p
  lowest.map fun (_, base) =>
    let mapped := sources.foldl (fun m x => m ||| x.2.1.mapped) 0
    { base with
      uid := uid
      part := part
      block := n.block
      age := age
      tid := Tab.ofFn fun p => (at_ p).elim 0 fun (m, g) => g.tid.get m.pos
      lpc := Tab.ofFn fun p => (at_ p).elim 0 fun (m, _) => m.target
      lst := Tab.ofFn fun p => (at_ p).elim .vacant fun _ => .running
      depth := Tab.ofFn fun p => (at_ p).elim 0 fun (m, g) => g.depth.get m.pos
      v := Tab.ofFn fun r => Tab.ofFn fun p => (at_ p).elim 0 fun (m, g) => g.readV r m.pos
      mapped := mapped
      pendFree := base.pendFree.filter fun e => sources.all fun x =>
        !x.2.1.mapped.getLsbD e.1.val || x.2.1.pendFree.contains e
      k := Tab.ofFn fun i => Lanes.ofFn fun p => (at_ p).elim false fun (m, g) => (g.k.get i).has m.pos
      loops := Tab.ofFn fun i => sources.foldl (fun a x => if a.toNat < (x.2.1.loops.get i).toNat then x.2.1.loops.get i else a) 0
      q := Tab.replicate 8 []
      xflags := sources.foldl (fun a x => a ||| x.2.1.xflags) 0
      batch := Tab.ofFn fun p => (at_ p).elim 0 fun (m, g) => g.batch.get m.pos
      busy := []
      wait := none
      barWaits := []
      metTags := (sources.flatMap fun x => x.2.1.metTags).eraseDups
      fence := Tab.ofFn fun p => (at_ p).elim none fun (m, g) => g.fence.get m.pos
      brm := none
      polled := false }

/-- The partition with the fewest resident groups, the lowest on a tie, among those in service (R15, R16). -/
def Core.freePartition (k : Core) : Fin 4 :=
  let load (p : Fin 4) : Nat := ((List.finRange 128).filter fun i => match k.groups.get i with
    | some g => g.part == p
    | none => false).length
  (((List.finRange 4).filter fun p => k.slices.get p != 0).foldl (fun a p => match a with
    | none => some p
    | some x => if load p < load x then some p else some x) none).getD 0

/-- Every group of a set takes its branch as an ordinary conditional branch (R32). -/
def State.branchAll (s : State) (c : Fin 128) (set : List (Fin 128 × Group × BrmWait)) : State :=
  set.foldl (fun s (i, _, b) => s.modGroup c i fun g =>
    { g.setLpc (g.actAt b.site) (branchTo g b) with brm := none, polled := false }) s

/-- The quarter columns of a new group's slices (R59). -/
def NewGroup.quarters (n : NewGroup) : List Nat := (List.range (n.width / 16)).map fun i => (n.block * (n.width / 16)) % 4 + i

/-- What the new groups of a regroup have of the core reserve, each with its register count: one that received a thread of a holder takes
what its count has above the reservation, as far as the old holders' slots in each column, `left`, go round (R62). [DESIGN CHOICE, log 96] -/
def reserveShares (loaned : List (Fin 128)) (resv : Nat) : (Nat → Nat) → List (NewGroup × Nat) → List (Option Nat)
  | _, [] => []
  | left, (n, count) :: rest =>
    if n.who.any fun m => loaned.contains m.gid then
      let share := min (count - resv) (((n.quarters.map left).min?).getD 0)
      some share :: reserveShares loaned resv (fun q => if n.quarters.contains q then left q - share else left q) rest
    else none :: reserveShares loaned resv left rest

/-- The new groups take their places: numbers in ascending order, each on the partition chosen at that moment, with its share of the
reserve. -/
def State.placeNew (s : State) (c : Fin 128) (set : List (Fin 128 × Group × BrmWait)) :
    List ((NewGroup × Option Nat) × Fin 128 × (Nat × Nat)) → State
  | [] => s
  | ((n, share), num, age) :: rest =>
    let (uid, s) := s.newId
    match buildGroup set n uid (s.core c).freePartition age with
    | none => s.placeNew c set rest
    | some g =>
      let s := s.setGroup c num (some g)
      let s := match share with
        | some m => s.modCore c fun k => { k with loan := k.loan ++ [(uid, m)] }
        | none => s
      s.placeNew c set rest

/-- The regroup of one set of equal width (R32, R33), or its branches taken in place when it declines. -/
def State.regroupSet (s : State) (c : Fin 128) (t : Fin 16) (set : List (Fin 128 × Group × BrmWait)) : State :=
  match set, s.team c t with
  | (_, g0, _) :: _, some team =>
    match s.grid team.grid with
    | none => s
    | some grid =>
      let w := g0.grant.lanes
      let news := (moversOf set).foldl (fun acc m => placeMover w m acc) []
      let counts := news.map fun n =>
        (n, popcount (set.foldl (fun m x => if n.who.any fun y => y.gid == x.1 then m ||| x.2.1.mapped else m) (0#64)))
      let loaned := (set.filter fun x => ((s.core c).lent x.2.1.uid).isSome).map fun x => x.1
      let taken (q : Nat) : Nat := (set.map fun x => if x.2.1.quarters.contains q then ((s.core c).lent x.2.1.uid).getD 0 else 0).sum
      let shares := reserveShares loaned grid.reservation taken counts
      let fits := (List.range 4).all fun q =>
        let need := ((counts.zip shares).map fun (n, m) =>
          if n.1.quarters.contains q then max n.2 grid.reservation - m.getD 0 else 0).sum
        let freed := (set.map fun x => if x.2.1.quarters.contains q then max (popcount x.2.1.mapped) grid.reservation else 0).sum
        decide (need ≤ freed - taken q + s.slotsFree c t team grid q)
      if news.length ≤ set.length ∧ (counts.all fun x => decide (x.2 ≤ grid.kern.ceil)) ∧ fits then
        let nums := set.map fun x => x.1
        let ages := sortBy (fun a => a.1 * 2 ^ 64 + a.2) (set.map fun x => x.2.1.age)
        let olds := set.map fun x => x.2.1.uid
        let s := nums.foldl (fun s i => s.setGroup c i none) s
        let s := s.modCore c fun k => { k with loan := k.loan.filter fun e => !olds.contains e.1 }
        let s := s.placeNew c set ((news.zip shares).zip (nums.zip ages))
        if loaned.isEmpty then s else s.endLoan c
      else s.branchAll c set
  | _, _ => s

/-- The regroup of the groups of a team that wait at one BRM, width by width (R32). -/
def State.regroupAt (s : State) (c : Fin 128) (t : Fin 16) (site : Word) : State :=
  let waiting := (s.teamGroups c t).filterMap fun (i, g) => match g.brm with
    | some b => if b.site = site then some (i, g, b) else none
    | none => none
  [Grant.w16, Grant.w32, Grant.w64].foldl (fun s w =>
    let set := waiting.filter fun x => x.2.1.grant == w
    if set.isEmpty then s else s.regroupSet c t set) s

/-- The sites at which groups of a team wait for a regroup. -/
def State.brmSites (s : State) (c : Fin 128) (t : Fin 16) : List Word :=
  ((s.teamGroups c t).filterMap fun x => x.2.brm.map BrmWait.site).eraseDups

/-- The regroup sets that are due (R31): every resident group of the team waits at one BRM, or some group of the team has
begun a wait. -/
def State.regroupDue (s : State) (c : Fin 128) (t : Fin 16) (begun : Bool) : State :=
  let sites := s.brmSites c t
  if begun then sites.foldl (fun s a => s.regroupAt c t a) s
  else match sites with
    | [a] => if (s.teamGroups c t).all fun x => x.2.brm.isSome then s.regroupAt c t a else s
    | _ => s

/-! ### After an instruction -/

/-- The length of the kernel's code section, and of the handler's that a group runs in. -/
def State.kernLen (s : State) (c : Fin 128) (g : Group) : Nat := (s.gridOf c g).elim 0 fun x => x.kern.len
def State.handLen (s : State) (c gid : Fin 128) (g : Group) : Nat := (s.bankOf c gid g).elim 0 fun b => b.hlen.toNat

/-- The length of the code section that the issuing lanes run in. -/
def State.codeLen (s : State) (c gid : Fin 128) (g : Group) : Nat := if g.hmode then s.handLen c gid g else s.kernLen c g

/-- The running lanes that have run past the last instruction of their section, the handler's or the kernel's, end as EXIT does
(R23, R302); those that wait for a delivery to begin stay (R298). -/
def Group.endLanes (g : Group) (kern hand : Nat) : Group :=
  let m := Lanes.ofFn fun p => g.lst.get p == .running && !(g.dels.any fun d => d.lanes.has p)
    && decide ((g.lpc.get p).toNat = if g.hlanes.has p then hand else kern)
  if m = 0 then g else g.exitLanes m

/-- Lanes in handler mode that have exited leave it; with the last of them the bank is freed (R302). -/
def State.dropHandler (s : State) (c gid : Fin 128) : State :=
  match s.group c gid with
  | none => s
  | some g =>
    if g.hmode then
      let left := g.hlanes &&& (g.inState .running ||| g.inState .parked)
      if left = 0 then
        match s.bankOf c gid g with
        | some b => (s.freeBank c g.part).setGroup c gid (some (g.backFrom b))
        | none => s.setGroup c gid (some { g with hlanes := 0 })
      else s.setGroup c gid (some { g with hlanes := left })
    else s

/-- A holder's registers freed: the slots that it took from the reserve go back first, and the reserve returns to the core when its
count has fallen to its floor, or that of each joint holder (R62). [DESIGN CHOICE, log 96] -/
def State.returnLoan (s : State) (c gid : Fin 128) (before : Nat) : State :=
  match s.group c gid with
  | none => s
  | some g =>
    let n := s.regCount c gid g
    if ((s.core c).lent g.uid).isSome && decide (n < before) then
      (s.modCore c fun k =>
        { k with loan := k.loan.map fun e => if e.1 = g.uid then (e.1, e.2 - (before - n)) else e }).endLoan c
    else s

/-- A group with no running and no parked lane has exited (R24, R35). -/
def Group.over (g : Group) : Bool :=
  !g.hmode && g.dels.isEmpty && g.inState .running == 0 && g.inState .parked == 0

/-- A group settles after a change to it: ended lanes exit, passed last reads free their registers, handler mode ends
with its lanes, pending deliveries begin, and the group exits when no lane is left, or switches out when only parked lanes are (R24).
The second answer says whether it exited. -/
def State.settleOne (s : State) (c gid : Fin 128) : State × Bool :=
  match s.group c gid with
  | none => (s, false)
  | some g =>
    let before := s.regCount c gid g
    let s := s.setGroup c gid (some (g.endLanes (s.kernLen c g) (s.handLen c gid g)).freePassed)
    let s := (s.dropHandler c gid).pumpDeliveries c gid
    let s := s.returnLoan c gid before
    match s.group c gid with
    | none => (s, false)
    | some g =>
      if g.over then (s.exitGroup c gid g, true)
      else if g.inState .running = 0 ∧ g.inState .parked ≠ 0 then (s.setGroup c gid (some { g with out := true }), false)
      else (s, false)

/-- Groups settle in turn. With the exit of one, the regroup that it may complete takes place, and every group of its team settles
after it (R23, R31). Each exit leaves one group fewer, which bounds the turns. -/
def State.settleGo (s : State) (c : Fin 128) : Nat → List (Fin 128) → State
  | 0, _ => s
  | _ + 1, [] => s
  | fuel + 1, gid :: rest =>
    match s.group c gid, s.settleOne c gid with
    | some g, (s, true) =>
      let s := s.regroupDue c g.team false
      s.settleGo c fuel ((s.teamGroups c g.team).map Prod.fst ++ rest)
    | _, (s, _) => s.settleGo c fuel rest

/-- A group settles, and with its exit its team's groups. -/
def State.settle (s : State) (c gid : Fin 128) : State := s.settleGo c 16641 [gid]

/-! ### The issue of one instruction -/

/-- What an instruction of a group sees: who issues, for which lanes, and at which address. -/
structure Ctx where
  c : Fin 128
  gid : Fin 128
  g : Group
  t : Team
  home : Fin 128
  slot : Fin 16
  grid : Grid
  pc : Word
  act : Lanes
  deriving DecidableEq, Repr

/-- The core and slot that hold a team's barriers, flags and transfers (R13). -/
def teamHome (c : Fin 128) (slot : Fin 16) (t : Team) : Fin 128 × Fin 16 := if t.odd then (partner c, t.mate) else (c, slot)

/-- The issue of a group: none when it is not resident or no lane of it may issue. -/
def State.ctxOf (s : State) (c gid : Fin 128) : Option Ctx :=
  match s.group c gid with
  | none => none
  | some g =>
    match s.team c g.team, g.issueAddr with
    | some t, some pc =>
      match s.grid t.grid with
      | none => none
      | some grid =>
        let h := teamHome c g.team t
        some ⟨c, gid, g, t, h.1, h.2, grid, pc, g.actAt pc⟩
    | _, _ => none

/-- The issue that is under way, if a group issues. -/
def State.ctx (s : State) : Option Ctx :=
  match s.cur with
  | some (.group c gid) => s.ctxOf c gid
  | _ => none

/-- A lane's fault: its code, the address, and the record's detail (R303). -/
structure LaneFault where
  pos : Fin 64
  code : Byte
  va : DWord
  d0 : DWord
  d1 : DWord
  deriving DecidableEq, Repr

/-- The lanes of a list of faults. -/
def faultLanes (fs : List LaneFault) : Lanes := Lanes.ofFn fun p => fs.any fun f => f.pos == p

/-- One delivery for each code, in ascending order of code (R297). -/
def deliveriesOf (site : Word) (wide : Bool) (acc : AccKind) (fs : List LaneFault) : List Delivery :=
  (List.range 18).filterMap fun code =>
    match fs.filter fun f => f.code.toNat == code with
    | [] => none
    | f :: rest => some ⟨.fault, f.code, faultLanes (f :: rest), site, wide, acc, 0, f.va, f.d0, f.d1, false⟩

/-- The same fault for every lane of ACT. -/
def Ctx.all (x : Ctx) (code : Byte) (va d0 d1 : DWord) : List LaneFault := x.act.list.map fun p => ⟨p, code, va, d0, d1⟩

/-- An instruction's shape: 32 bits or compact, its STALL, the uniform registers it reads or writes (which wait for their
tokens, R109), the registers whose results it reads, and those it produces with their fixed latencies (R43). Lane
register n is n, uniform register n is 64 + n and mask n is 192 + n. -/
structure Shape where
  wide : Bool
  st : Nat
  toks : List (Fin 128)
  uses : List Nat
  prod : List (Nat × Nat)
  acc : AccKind
  deriving DecidableEq, Repr

/-- Bytes of the instruction. -/
def Shape.len (sh : Shape) : Word := if sh.wide then 4 else 2

/-- A result is done with once it is ready and the STALL fields have covered its latency. -/
def Busy.over (b : Busy) : Bool := b.left == 0 && b.owed == 0

/-- The results in flight once an instruction has issued: its 1 + STALL covers part of their latencies, its own results' among them
(R43, R46). -/
def nextBusy (sh : Shape) (old : List Busy) : List Busy :=
  ((old.filter fun b => !(sh.prod.any fun x => x.1 == b.reg)).map fun b =>
      { b with narrow := b.narrow && !sh.wide, owed := b.owed - (1 + sh.st) }).filter (fun b => !b.over)
    ++ (sh.prod.map fun x => ⟨x.1, x.2, x.2 - (1 + sh.st), !sh.wide⟩).filter (fun b => !b.over)

/-- The group as an instruction leaves it: lanes of ACT without a fault take their next address, and its STALL runs. -/
def Ctx.retire (x : Ctx) (sh : Shape) (g : Group) (next : Fin 64 → Word) (bad : Lanes) : Group :=
  { g.setLpc (x.act &&& ~~~bad) next with
    stall := 1 + sh.st
    busy := nextBusy sh g.busy
    wait := none
    polled := false
    enlarge := 0
    held := none }

/-- The end of an instruction with the deliveries it raises: the group as it leaves it, and the group settled. The count of R341
restarts: the cycle of the issue brings it to 0. -/
def State.finishWith (s : State) (x : Ctx) (sh : Shape) (g : Group) (next : Fin 64 → Word) (bad : Lanes)
    (ds : List Delivery) : State :=
  let s := s.setGroup x.c x.gid (some (x.retire sh g next bad))
  let s := s.modCore x.c fun k => { k with idleCount := -1 }
  (s.deliver x.c x.gid ds).settle x.c x.gid

/-- The end of an instruction: the group as it leaves it, its faults delivered, and the group settled. -/
def State.finish (s : State) (x : Ctx) (sh : Shape) (g : Group) (next : Fin 64 → Word) (fs : List LaneFault) : State :=
  s.finishWith x sh g next (faultLanes fs) (deliveriesOf x.pc sh.wide sh.acc fs)

/-- A fault of every lane of ACT: the instruction does nothing else. -/
def State.faultAll (s : State) (x : Ctx) (sh : Shape) (code : Byte) (va d0 d1 : DWord) : State :=
  s.finish x { sh with prod := [] } x.g (fun p => x.g.lpc.get p) (x.all code va d0 d1)

/-- An instruction that cannot issue yet: the group keeps its place and tries again when something has moved. [DESIGN CHOICE, log 5] -/
def State.hold (s : State) (x : Ctx) : State := s.modGroup x.c x.gid fun g => { g with polled := true }

/-- A reader held until the results it reads are ready: in a native section a STALL too short counts against the caller, and a
hold that compact forms alone explain counts against nobody (R46). [DEDUCED, log 81] -/
def State.holdLate (s : State) (x : Ctx) (late : List Busy) : State :=
  s.modGroup x.c x.gid fun g =>
    { g with
      polled := true
      short := !x.grid.kern.portable && !g.hmode && late.any fun b => !b.narrow }

/-- A group that waits for its parked lanes switches out (R28). The instruction has not issued, so no interval of R125 starts. [DEDUCED, log 97] -/
def State.switchOut (s : State) (x : Ctx) : State := s.modGroup x.c x.gid fun g => { g with polled := true, out := true }

/-- A wait of R40 that is not satisfied: the timer of its site runs. [DESIGN CHOICE, log 5] -/
def State.waitOn (s : State) (x : Ctx) (on : WaitOn) : State :=
  s.modGroup x.c x.gid fun g =>
    { g with
      polled := true
      wait := match g.wait with
        | some w => if w.site = x.pc then some { w with on := on } else some ⟨x.pc, 0, on⟩
        | none => some ⟨x.pc, 0, on⟩ }

/-- Whether the checking scoreboard is on for a group (R46). -/
def State.schk (s : State) (x : Ctx) : Bool := (s.core x.c).corectl.getLsbD 0 || x.grid.schk

/-! ### Streams (R268 to R273) -/

/-- What an instruction of a stream sees. -/
structure SCtx where
  c : Fin 128
  copy : Bool
  st : Stream
  t : Team
  home : Fin 128
  slot : Fin 16
  grid : Grid
  deriving DecidableEq, Repr

/-- A core's matrix or copy sequencer. -/
def Core.stream (k : Core) (copy : Bool) : Option Stream := if copy then k.copyStream else k.matrixStream

/-- A sequencer's stream replaced. -/
def State.setStream (s : State) (c : Fin 128) (copy : Bool) (x : Option Stream) : State :=
  s.modCore c fun k => if copy then { k with copyStream := x } else { k with matrixStream := x }

/-- The stream that issues, if one does. -/
def State.sctx (s : State) : Option SCtx :=
  match s.cur with
  | some (.stream c copy) =>
    match (s.core c).stream copy with
    | none => none
    | some st =>
      match s.team c st.team with
      | none => none
      | some t =>
        match s.grid t.grid with
        | none => none
        | some grid =>
          let h := teamHome c st.team t
          some ⟨c, copy, st, t, h.1, h.2, grid⟩
  | _ => none

/-- The end of a stream's instruction: its registers as it leaves them, its next address, and its STALL. -/
def State.finishStream (s : State) (y : SCtx) (sh : Shape) (st : Stream) (next : Word) : State :=
  s.setStream y.c y.copy (some { st with pc := next, stall := 1 + sh.st, wait := none, polled := false, held := none })

/-- An instruction of a stream that cannot issue yet. -/
def State.holdStream (s : State) (y : SCtx) : State := s.setStream y.c y.copy (some { y.st with polled := true })

/-- A wait of a stream that is not satisfied (R270). -/
def State.waitStream (s : State) (y : SCtx) (on : WaitOn) : State :=
  s.setStream y.c y.copy (some { y.st with
    polled := true
    wait := match y.st.wait with
      | some w => some { w with on := on }
      | none => some ⟨y.st.pc, 0, on⟩ })

/-- The lower of two stream codes under R9: ECCU before every other, 0 for none. -/
def lowerCode (a b : Byte) : Byte :=
  if a = 0 then b else if b = 0 then a else if a = 0x11 ∨ b = 0x11 then 0x11 else if a.toNat ≤ b.toNat then a else b

/-- A stream's fault (R273): it stops and counts as ended, a record of kind 6 is written, and the team keeps the lowest
code. -/
def State.streamFault (s : State) (y : SCtx) (code : Byte) (acc : AccKind) (va d0 d1 : DWord) (wide : Bool := true) : State :=
  let seqr := (if y.t.odd then 2 else 0) + (if y.copy then 1 else 0)
  let ws := recordWords code 6 acc wide false 0 0 y.st.pc va 0 0 0 0 y.c.val seqr y.grid.space d0 d1
  let s := s.pushRecord y.c ws none
  let s := s.setStream y.c y.copy none
  s.modTeam y.home y.slot fun t => { t with kept := lowerCode t.kept code }

/-- A stream's instruction that only its pending tokens keep from issuing waits for them, and its timer runs (R40, R109, R270). -/
def State.waitStreamTokens (s : State) (y : SCtx) (toks : List (Fin 128)) (body : SCtx → State → State) : State :=
  let st := { y.st with wait := none }
  match ((body { y with st := st } (s.setStream y.c y.copy (some st))).core y.c).stream y.copy with
  | some st =>
    if st.uid = y.st.uid ∧ st.polled ∧ st.wait = none then s.setStream y.c y.copy (some { y.st with polled := true, held := st.held })
    else s.waitStream y (.token toks)
  | none => s.waitStream y (.token toks)

/-- The gate of an instruction that streams may issue: pending tokens hold it (R109). -/
def State.issueStream (s : State) (sh : Shape) (body : SCtx → State → State) : Host.Outcome State Fault Refusal :=
  match s.sctx with
  | none => .fault .noIssuer
  | some y =>
    if sh.toks.any fun r => y.st.tok.getLsbD r.val then
      .next (s.waitStreamTokens y (sh.toks.filter fun r => y.st.tok.getLsbD r.val) body)
    else .next (body y s)

/-- Whether a stream is the issuer. -/
def State.byStream (s : State) : Bool :=
  match s.cur with
  | some (.stream _ _) => true
  | _ => false

/-- The encoding at a stream's address (R303): its 32 bits, or its parcel. -/
def State.streamBits (s : State) (y : SCtx) : Nat :=
  let va := y.grid.kern.base + y.st.pc.setWidth 64
  let parcel (s : State) (va : DWord) : Option (Nat × State) := match s.translate y.c y.grid.space va .load .fetch (some (0, y.grid.space)) with
    | (.ok pa _, s) => match s.frontBytes (homeDie va) pa 2 with
      | (.ok bs, s) => some (leNat bs, s)
      | (.error _, s) => some (0, s)
    | _ => none
  match parcel s va with
  | none => 0
  | some (lo, s) => if lo % 2 = 0 then lo else lo + 65536 * ((parcel s (va + 2)).elim 0 Prod.fst)

/-! ### The gate of a group's instruction -/

/-- The error marks that lie in the register granules of a team's half. -/
def State.regMarks (s : State) (c : Fin 128) (t : Team) : List EccMark :=
  s.marks.filter fun m => m.arr == 0 && m.core == c && t.regG.any fun g => g.val == m.addr / 65536

/-- Whether an injection is armed for a word of the register granules of a team's half (R392). -/
def State.regArmed (s : State) (c : Fin 128) (t : Team) : Bool :=
  let r := (s.die (dieOf c)).errinj.toNat
  field r 8 1 == 1 && field r 0 8 == 0 && field r 16 7 == c.val
    && t.regG.any fun g => g.val == (s.die (dieOf c)).errinja.toNat / 65536

/-- Nothing is wrong with the register granules of a team's half, nor is about to be. -/
def State.regsSound (s : State) (c : Fin 128) (t : Team) : Bool := (s.regMarks c t).isEmpty && !s.regArmed c t

/-- Whether a register of a group lies in the register store: in handler mode V56 to V63 are the bank's (R301). -/
def Group.inStore (g : Group) (r : Nat) : Bool := decide (r < 64) && !(g.hmode && decide (56 ≤ r))

/-- The slices of a core that still stand, with the quarter columns of each: those of registers that resident groups map. -/
def State.slices (s : State) (c : Fin 128) : List (Slice × List Nat) :=
  (s.core c).rows.filterMap fun e =>
    ((List.finRange 128).findSome? fun i => (s.group c i).bind fun g =>
      let own := if g.hmode && decide (56 ≤ e.reg.val) then (s.bankOf c i g).elim 0 fun b => b.snap.mapped else g.mapped
      if g.uid == e.uid && own.getLsbD e.reg.val then some g.quarters else none).map fun q => (e, q)

/-- The row of a group's lane register (R59, R61): the one that it has, or a free one of its team's store, which the device picks. A slice
for which the store has none lies in the core reserve. [DESIGN CHOICE, log 98] -/
def State.rowOf (s : State) (x : Ctx) (r : Fin 64) : Option Nat × State :=
  let here := s.slices x.c
  match here.find? fun e => e.1.uid == x.g.uid && e.1.reg == r with
  | some e => (some e.1.row, s)
  | none =>
    let clash (row : Nat) : Bool := here.any fun e => e.1.row == row && e.2.any x.g.quarters.contains
    let free := (x.t.regG.flatMap fun g => (List.range 256).map fun i => g.val * 256 + i).filter fun row => !clash row
    let (i, s) := s.pick free.length
    match free[i]? with
    | none => (none, s)
    | some row => (some row, s.modCore x.c fun k => { k with rows := here.map Prod.fst ++ [⟨x.g.uid, r, row⟩] })

/-- What an instruction of a group meets in the rows of the lane registers that it reads (R59, R192, R390): the errors in the words of the
lanes of ACT. The answer says whether one is uncorrectable. [DESIGN CHOICE, log 98] -/
def State.rowErrors (s : State) (x : Ctx) (uses : List Nat) : Bool × State :=
  if s.regsSound x.c x.t then (false, s)
  else
    let rs := (List.finRange 64).filter fun r => uses.contains r.val && x.g.inStore r.val && x.g.mapped.getLsbD r.val
    rs.foldl (fun acc r => match acc.2.rowOf x r with
      | (none, s) => (acc.1, s)
      | (some row, s) => x.act.list.foldl (fun acc p =>
          let (ue, s) := acc.2.consume (dieOf x.c) 0 x.c (row * 256 + 4 * x.g.home p) 4 (some (x.gid.val, x.grid.space))
          (acc.1 || ue, s)) (acc.1, s)) (false, s)

/-- What an instruction that has issued writes in the rows of its lane registers (R55, R59, R390, R392), in the state after it: the words
of the lanes of ACT that did not fault, or a new slice's every word. Their errors go, and an armed injection meets its word.
[DESIGN CHOICE, log 98] -/
def State.rowWrites (s : State) (x : Ctx) (prod : List (Nat × Nat)) : State :=
  match s.group x.c x.gid with
  | none => s
  | some g =>
    let bad := g.dels.foldl (fun m d => m ||| d.lanes) (if x.g.hmode then 0 else g.hlanes)
    let m := x.act &&& ~~~bad
    if g.uid ≠ x.g.uid ∨ g.polled ∨ m = 0 then s
    else
      let rs := (List.finRange 64).filter fun r => (prod.any fun e => e.1 == r.val) && x.g.inStore r.val
      rs.foldl (fun s r => match s.rowOf { x with g := g } r with
        | (none, s) => s
        | (some row, s) =>
          let homes := if x.g.mapped.getLsbD r.val then m.list.map g.home else g.quarters.flatMap fun q => (List.range 16).map fun i => 16 * q + i
          homes.foldl (fun s h => (s.unmark 0 x.c (row * 256 + 4 * h) 4).inject (dieOf x.c) 0 x.c (row * 256 + 4 * h) 4) s) s

/-- An instruction that only its pending tokens keep from issuing waits for them, and its timer runs; one that could not issue without them
either holds as it would then (R40, R109). -/
def State.waitTokens (s : State) (x : Ctx) (toks : List (Fin 128)) (body : Ctx → State → State) : State :=
  let still (g : Group) : Group := { g with wait := none }
  match (body { x with g := still x.g } (s.modGroup x.c x.gid still)).group x.c x.gid with
  | some g =>
    if g.uid = x.g.uid ∧ g.polled ∧ g.wait = none then
      s.modGroup x.c x.gid fun h => { h with polled := true, enlarge := g.enlarge, held := g.held, short := g.short }
    else s.waitOn x (.token toks)
  | none => s.waitOn x (.token toks)

/-- The gate every instruction of a group passes: results still inside their fixed latency hold it or, with the checking scoreboard on,
fault it with STALLCHK where the STALL fields cover too little of a latency (R46); then its pending tokens (R109); then the errors of
the registers that it reads, which fault every lane of ACT with ECCU (R192). The reader that STALLCHK faults does not issue, so none of
the instruction's own conditions holds yet (R9). An instruction that a stream may not issue faults it with ILLOP (R269).
[DESIGN CHOICE, log 26; DEDUCED, log 99] -/
def State.issue (s : State) (sh : Shape) (body : Ctx → State → State) : Host.Outcome State Fault Refusal :=
  if s.byStream then s.issueStream { sh with toks := [] } fun y s =>
      let bits := s.streamBits y
      s.streamFault y 0x05 .other 0 (BitVec.ofNat 64 bits) 0 (bits % 2 == 1)
  else match s.ctx with
  | none => .fault .noIssuer
  | some x =>
    let used := x.g.busy.filter fun b => sh.uses.contains b.reg
    let late := used.filter fun b => b.left != 0
    if s.schk x && used.any fun b => !b.narrow && b.owed != 0 then .next (s.faultAll x sh 0x04 0 0 0)
    else if !late.isEmpty then .next (s.holdLate x late)
    else if sh.toks.any fun r => x.g.tok.getLsbD r.val then
      .next (s.waitTokens x (sh.toks.filter fun r => x.g.tok.getLsbD r.val) body)
    else if s.regsSound x.c x.t then .next (body x s)
    else match s.rowErrors x sh.uses with
      | (true, s) => .next (s.faultAll x sh 0x11 0 0 0)
      | (false, s) => .next ((body x s).rowWrites x sh.prod)

/-- An instruction that changes its group alone and faults no lane: every lane of ACT goes on. -/
def State.plain (s : State) (sh : Shape) (f : Ctx → State → Group) : Host.Outcome State Fault Refusal :=
  s.issue sh fun x s => s.finish x sh (f x s) (fun _ => x.pc + sh.len) []

/-- Slots of the reserve taken by a holder of it (R62). -/
def State.lend (s : State) (c : Fin 128) (uid n : Nat) : State :=
  s.modCore c fun k => { k with loan := k.loan.map fun e => if e.1 = uid then (e.1, e.2 + n) else e }

/-- The slots of the reserve given back that an instruction took for some registers and then mapped none of (R62). -/
def State.unlend (s : State) (x : Ctx) (ds : List (Fin 64)) (n : Nat) : State :=
  let mapped := (s.group x.c x.gid).any fun g => g.uid != x.g.uid || ds.any fun d => g.mapped.getLsbD d.val && !x.g.mapped.getLsbD d.val
  if mapped then s else s.modCore x.c fun k => { k with loan := k.loan.map fun e => if e.1 = x.g.uid then (e.1, e.2 - n) else e }

/-- A group that stalls on enlargement for want of `n` slots (R61). -/
def State.stallEnlarge (s : State) (x : Ctx) (n : Nat) : State :=
  s.modGroup x.c x.gid fun g => { g with enlarge := n, polled := true }

/-- A fault of every lane of ACT but those whose operands hold an uncorrectable error, which report that (R9). -/
def State.faultAllBut (s : State) (x : Ctx) (sh : Shape) (ecc : Lanes) (code : Byte) (d0 : DWord) : State :=
  s.finish x { sh with prod := [] } x.g (fun p => x.g.lpc.get p)
    (x.act.list.map fun p => if ecc.has p then ⟨p, 0x11, 0, 0, 0⟩ else ⟨p, code, 0, d0, 0⟩)

/-- What follows when a group's lane registers have their slices; else the stall on enlargement, or BOUND for every lane that `ecc` does
not find with an error in an operand (R9, R57, R61). -/
def State.withSlicesOr (s : State) (x : Ctx) (sh : Shape) (ds : List (Fin 64)) (ecc : State → Lanes × State) (k : State → State) : State :=
  match s.alloc x.c x.gid x.g x.t x.grid ds with
  | .ok => k s
  | .lend n => (k (s.lend x.c x.g.uid n)).unlend x ds n
  | .ceiling => let (m, s) := ecc s; s.faultAllBut x sh m 0x01 2
  | .stall n => s.stallEnlarge x n

/-- The same for an instruction whose operands are registers. -/
def State.withSlices (s : State) (x : Ctx) (sh : Shape) (ds : List (Fin 64)) (k : State → State) : State :=
  match s.alloc x.c x.gid x.g x.t x.grid ds with
  | .ok => k s
  | .lend n => (k (s.lend x.c x.g.uid n)).unlend x ds n
  | .ceiling => s.faultAll x sh 0x01 0 2 0
  | .stall n => s.stallEnlarge x n

end Sys2Proof.Machine
end

