-- ==== Sys2Proof/Machine/Operands.lean ====
section
/-! DEFINITION. Operand forms: mixed fields, register groups, branch targets, pool addresses and the pool scratch they
name, with the checks each form carries. -/
namespace Sys2Proof.Machine

/-! ### Registers as operands -/

/-- The scoreboard's name of a lane register, a uniform register and a mask (`Shape`). -/
def keyV (r : Fin 64) : Nat := r.val
def keyS (r : Fin 128) : Nat := 64 + r.val
def keyK (k : Nat) : Nat := 192 + k

/-- A 6-bit uniform field as a register of S0 to S63. -/
def lowS (r : Fin 64) : Fin 128 := ⟨r.val, Nat.lt_trans r.isLt (by decide)⟩

/-- The register `n` after a uniform register. -/
def nextS (r : Fin 128) (n : Nat) : Fin 128 := Fin.ofNat 128 (r.val + n)

/-- The register `n` after a lane register. -/
def nextV (r : Fin 64) (n : Nat) : Fin 64 := Fin.ofNat 64 (r.val + n)

/-- A compact form's register (R133). -/
def smallV (r : Fin 32) : Fin 64 := ⟨r.val, Nat.lt_trans r.isLt (by decide)⟩

/-- The value of a mixed operand in a lane: a lane register, or the low word of a uniform register (R127). -/
def Group.mixed (g : Group) (b : Mixed) (p : Fin 64) : Word :=
  match b with
  | .v r => g.readV r p
  | .s r => (g.s.get (lowS r)).setWidth 32

/-- The 64-bit value of a mixed operand (R127, R197): a register pair, or the whole uniform register. -/
def Group.mixed64 (g : Group) (b : Mixed) (p : Fin 64) : DWord :=
  match b with
  | .v r => g.readV (nextV r 1) p ++ g.readV r p
  | .s r => g.s.get (lowS r)

/-- The scoreboard names that a mixed operand reads, and the token it may wait for. -/
def mixedUses (b : Mixed) : List Nat :=
  match b with
  | .v r => [keyV r]
  | .s r => [keyS (lowS r)]
def mixedToks (b : Mixed) : List (Fin 128) :=
  match b with
  | .v _ => []
  | .s r => [lowS r]

/-- The LAST mark of a mixed operand (R126). -/
def Group.lastMixed (g : Group) (b : Mixed) (last : Bool) (site : Word) : Group :=
  match b with
  | .v r => if last then g.lastRead r site else g
  | .s _ => g

/-- The LAST mark of a lane register (R126). -/
def Group.lastIf (g : Group) (r : Fin 64) (last : Bool) (site : Word) : Group := if last then g.lastRead r site else g

/-! ### Branch targets (R130, R173) -/

/-- The target of a branch whose offset counts parcels. -/
def branchTarget {w : Nat} (pc : Word) (off : BitVec w) : Word := pc + off.signExtend 32 * 2

/-- Whether a target is odd or outside the code section. -/
def badTarget (len : Nat) (target : Word) : Bool := target.getLsbD 0 || decide (len ≤ target.toNat)

/-! ### Pool scratch (R65, R66) -/

/-- Bytes of a team's scratch. -/
def Grid.scratchBytes (g : Grid) : Nat := g.scrg * 65536

/-- Bytes of a core's accumulator granules of a team. -/
def Grid.accBytes (g : Grid) : Nat := g.accg * 65536

/-- The core and pool byte that a scratch offset names for the half of a team on core `c` (R65, R66). -/
def State.scratchLoc (s : State) (c : Fin 128) (t : Team) (o : Nat) : Fin 128 × Nat :=
  let i := o / 65536
  let other := (s.team (partner c) t.mate).elim [] Team.scrG
  let even := if t.odd then other else t.scrG
  let odd := if t.odd then t.scrG else other
  let evenC := if t.odd then partner c else c
  let oddC := if t.odd then c else partner c
  if t.paired && decide (even.length ≤ i) then
    (oddC, ((odd[i - even.length]?).elim 0 Fin.val) * 65536 + o % 65536)
  else (evenC, ((even[i]?).elim 0 Fin.val) * 65536 + o % 65536)

/-- Whether a scratch offset lies on the partner core's half (R66). -/
def State.scratchFar (s : State) (c : Fin 128) (t : Team) (o : Nat) : Bool := (s.scratchLoc c t o).1 != c

/-- `n` bytes of a team's scratch. -/
def State.scratchBytes (s : State) (c : Fin 128) (t : Team) (o n : Nat) : List Byte :=
  (List.range n).map fun i =>
    let l := s.scratchLoc c t (o + i)
    (s.core l.1).pool.get l.2

/-- A little-endian field of a team's scratch. -/
def State.scratchNum (s : State) (c : Fin 128) (t : Team) (o n : Nat) : Nat := leNat (s.scratchBytes c t o n)

/-- Bytes of a team's scratch replaced, and the errors in their words with them. -/
def State.scratchSet (s : State) (c : Fin 128) (t : Team) (o : Nat) : List Byte → State
  | [] => s
  | b :: bs =>
    let l := s.scratchLoc c t o
    ((s.modCore l.1 fun k => { k with pool := k.pool.set l.2 b }).unmark 0 l.1 l.2 1).scratchSet c t (o + 1) bs

/-- Bytes written to a team's scratch, where an armed injection may wait for its word (R392). -/
def State.scratchStore (s : State) (c : Fin 128) (t : Team) (o : Nat) (bs : List Byte) : State :=
  (List.range bs.length).foldl (fun s i =>
    let l := s.scratchLoc c t (o + i)
    s.inject (dieOf l.1) 0 l.1 l.2 1) (s.scratchSet c t o bs)

/-- A little-endian field written to a team's scratch. -/
def State.scratchPut (s : State) (c : Fin 128) (t : Team) (o n v : Nat) : State := s.scratchStore c t o (leBytes n v)

/-! ### Passes (R67, R68) -/

/-- The passes of one pool access: the largest number of words asked of one bank, a word read by several lanes counting
once, and each written word by itself. -/
def passes (write : Bool) (words : List Nat) : Nat :=
  let ws := if write then words else words.eraseDups
  max 1 ((List.range 64).foldl (fun m b => max m (ws.filter fun w => w % 64 == b).length) 0)

/-- The pass count that the kernel's table records for a site, or 64 (R68). Handler code has no table. -/
def Ctx.recorded (x : Ctx) : Nat :=
  if x.g.hmode then 64 else ((x.grid.kern.passes.find? fun e => e.1 == x.pc.toNat).map Prod.snd).getD 64

/-- The declared bound of a wait site (R40); in handler mode, HWAIT (R300). A site with none has no bound to pass. -/
def State.waitBound (s : State) (c gid : Fin 128) (g : Group) (grid : Grid) (site : Word) : Option Nat :=
  if g.hmode then (s.bankOf c gid g).map fun b => b.hwait.toNat
  else (grid.kern.waits.find? fun e => e.1 == site.toNat).map Prod.snd

/-- The declared bound of a loop (R37); in handler mode, HLOOP for every id (R236). -/
def State.loopBound (s : State) (c gid : Fin 128) (g : Group) (grid : Grid) (lid : Fin 64) : Option Nat :=
  if g.hmode then (s.bankOf c gid g).map fun b => b.hloop.toNat
  else (grid.kern.loops.find? fun e => e.1 == lid.val).map Prod.snd

/-- A queue's word (R159); in handler mode, HQ0 and HQ1 of the descriptor (R300). -/
def State.queueWord (s : State) (c gid : Fin 128) (g : Group) (grid : Grid) (q : Fin 8) : Nat :=
  if g.hmode then
    (s.bankOf c gid g).elim 0 fun b => if q.val = 0 then b.hq0.toNat else if q.val = 1 then b.hq1.toNat else 0
  else (grid.kern.queues.get q).toNat

/-- Whether a request is an access of a thread of ACT. -/
def Ctx.made (x : Ctx) (r : Req) : Bool :=
  r.core == x.c && r.team == x.t.admitted && x.act.list.any fun p => r.tids.contains (x.g.tid.get p)

/-- Whether an acquire of a thread of ACT has not yet read its value: no later access of the thread performs before it has
(R99). -/
def State.acquiring (s : State) (x : Ctx) : Bool := s.reqs.any fun r => r.acq && r.open_ && x.made r

/-- The scope at which a write of the thread in a position is ordered: that of its own suffix, or of a fence before it (R102, R104). -/
def Group.tagScope (g : Group) (p : Fin 64) (rel : Bool) (sc : Scope) : Option Scope := if rel then some sc else g.fence.get p

/-! ### Promotion tags of a pair's pool banks (R102) -/

/-- Whether a scope reaches the whole die or further (R98). -/
def scopeWide (sc : Scope) : Bool :=
  match sc with
  | .die | .dev | .sys => true
  | _ => false

/-- The tags of the other core on the lines that lanes touch: those of one core's pool bank name the core and its line. -/
def State.poolTagsMet (s : State) (x : Ctx) (addr : Fin 64 → Nat) (good : List (Fin 64)) : List PromoTag :=
  if !x.t.paired then []
  else good.flatMap fun p =>
    let l := s.scratchLoc x.c x.t (addr p)
    (s.core l.1).poolTags.filter fun t => t.line == l.2 / 64 && t.core != x.c

/-- A read of lanes that promotes nothing notes the tags that it meets (R104). -/
def State.notePool (s : State) (x : Ctx) (addr : Fin 64 → Nat) (good : List (Fin 64)) (g : Group) : Group :=
  let met := (s.poolTagsMet x addr good).map fun t => (t.core, t.rel)
  if met.isEmpty then g else { g with metTags := (g.metTags ++ met).eraseDups }

/-- The tag of a line of a pool bank once a write ordered by a fence has performed there (R102, R104). -/
def State.tagPool (s : State) (x : Ctx) (addr : Fin 64 → Nat) (good : List (Fin 64)) : State :=
  if !x.t.paired then s
  else good.foldl (fun s p => match x.g.fence.get p with
    | none => s
    | some sc =>
      let l := s.scratchLoc x.c x.t (addr p)
      let rest (k : Core) : List PromoTag := k.poolTags.filter fun t => t.line != l.2 / 64
      if sc = .core then s.modCore l.1 fun k => { k with poolTags := ⟨l.2 / 64, x.c, s.nextId⟩ :: rest k }
      else if scopeWide sc then s.modCore l.1 fun k => { k with poolTags := rest k }
      else s) s

/-- The lanes of ACT as the makers of one access, those whose fence orders it at the wider scope last. -/
def Ctx.makersInOrder (x : Ctx) : List (Fin 64) :=
  let wide (p : Fin 64) : Bool := (x.g.fence.get p).any scopeWide
  (x.act.list.filter fun p => !wide p) ++ x.act.list.filter wide

/-- The tags of a pair's pool lines after a write of `n` bytes of scratch that ACT makes once. -/
def State.tagSpan (s : State) (x : Ctx) (o n : Nat) : State :=
  if x.t.paired && x.act.list.any fun p => (x.g.fence.get p).isSome then
    (List.range (n / 64 + 1)).foldl (fun s i => s.tagPool x (fun _ => min (o + 64 * i) (o + n - 1)) x.makersInOrder) s
  else s

/-- The group once ACT has read `n` bytes of scratch once, with the tags that the read meets (R104). -/
def State.noteSpan (s : State) (x : Ctx) (o n : Nat) (g : Group) : Group :=
  if x.t.paired then
    (List.range (n / 64 + 1)).foldl (fun g i => s.notePool x (fun _ => min (o + 64 * i) (o + n - 1)) [x.act.first] g) g
  else g

end Sys2Proof.Machine
end

