-- ==== Sys2Proof/Machine/Access.lean ====
section
/-! DEFINITION. Accesses to memory: how a lane's access is translated at issue, parked, sent or put in the replay queue
(R26, R27, R106, R107, R226), how requests perform at their point of coherence (R95 to R102), how their data arrives, and
how a fault record is resolved (R29, R305). -/
namespace Sys2Proof.Machine

/-! ### Floating addition for ADD.F32 is supplied by the number files; atomics take it as an argument -/

/-- The new value that an atomic computes, or none when nothing is written (R225). `fadd` is binary32 addition. -/
def atomicNew (fadd : Word → Word → Word) (op : Aop) (m v v2 : Word) : Option Word :=
  match op with
  | .addN32 => some (m + v)
  | .minI32 => some (if v.slt m then v else m)
  | .minN32 => some (if v.ult m then v else m)
  | .maxI32 => some (if m.slt v then v else m)
  | .maxN32 => some (if m.ult v then v else m)
  | .and => some (m &&& v)
  | .or => some (m ||| v)
  | .xor => some (m ^^^ v)
  | .exch => some v
  | .cas => if m = v then some v2 else none
  | .addF32 => some (fadd m v)

/-! ### Pages and records -/

/-- The replay entry of a core that holds an address's page, if one does (R107). -/
def Core.replayFor (k : Core) (space : Word) (va : DWord) : Option Replay := k.replay.find? fun r => r.page.holds space va

/-- The group number of a resident group by its name. -/
def State.findGroup (s : State) (c : Fin 128) (uid : Nat) : Option (Fin 128) :=
  (List.finRange 128).find? fun i => match s.group c i with
    | some g => g.uid == uid
    | none => false

/-- The unresolved records of a core, with those that wait for room in its queue. -/
def Core.allRecs (k : Core) : List FaultRec := k.recs ++ k.recPend.filterMap Prod.snd

/-- A group's missing-page count: the unresolved records that lanes of it wait on (R27, R107). -/
def Core.missing (k : Core) (uid : Nat) : Nat := (k.allRecs.filter fun r => r.waiters.any fun w => w.1 == uid).length

/-- Whether a group that needs `n` records must hold its issue until the queue has room for them (R233, R304). More than the ring holds
need a queue that is empty. -/
def Core.recordsWait (k : Core) (n : Nat) : Bool :=
  n != 0 && (!k.recPend.isEmpty
    || (ringBase k.faultqb != 0 && decide (ringSize k.faultqb < (k.faultqt - k.faultqh).toNat + min n (ringSize k.faultqb))))

/-- Lanes added to those that wait on a record. -/
def Core.addWaiter (k : Core) (recId uid : Nat) (p : Fin 64) (va : DWord) (acc : AccKind) : Core :=
  let m := Lanes.one p
  let add (r : FaultRec) : FaultRec :=
    if r.id = recId then
      { r with
        waiters :=
          if r.waiters.any fun w => w.1 == uid then r.waiters.map fun w => if w.1 = uid then (w.1, w.2 ||| m) else w
          else r.waiters ++ [(uid, m)]
        vas := r.vas ++ [(uid, p, va, acc)] }
    else r
  { k with recs := k.recs.map add, recPend := k.recPend.map fun e => (e.1, e.2.map add) }

/-- DETAIL0 of a translation fault (R303): the last level walked, and whether it is serviceable. -/
def xlateDetail (level : Nat) (svc : Bool) : DWord := BitVec.ofNat 64 (level + svc.toNat * 8)

/-- DETAIL0 and DETAIL1 of an access's fault by its code (R303): PAGE, PERM and KRES give the walk, and SPACE the space. -/
def accessDetail (code : Byte) (space : Word) (level : Nat) (svc : Bool) (frame : Nat) : DWord × DWord :=
  if code = 0x07 ∨ code = 0x08 ∨ code = 0x09 then (xlateDetail level svc, BitVec.ofNat 64 frame)
  else if code = 0x10 then (space.setWidth 64, 0) else (0, 0)

/-! ### One lane's access at issue -/

/-- What the issue of one lane's access comes to. -/
inductive Hit where
  | sent (pa uid : Nat)
  | frozen (pa : Nat)
  /-- Parks on a record that stands already. -/
  | onRecord (recId : Nat)
  /-- Faults serviceably on a page with no record yet. -/
  | onPage (page : PageId) (code : Byte) (level frame : Nat)
  | bad (f : LaneFault)
  deriving DecidableEq, Repr

/-- The page and code of two hits on one record to be written (R27). -/
def Hit.page : Hit → Option PageId
  | .onPage p _ _ _ => some p
  | _ => none

/-- The unresolved record of a group for a page and a kind of access, whatever wrote it: no second one is written (R27, R233). -/
def Core.standing (k : Core) (uid : Nat) (page : PageId) (acc : AccKind) : Option FaultRec :=
  k.allRecs.find? fun r => r.page == page && r.access == acc && r.uid == uid

/-- A lane's access checked and translated (R107, R226). `uid` is the issuing group's name. -/
def State.laneHit (s : State) (c : Fin 128) (uid : Nat) (space : Word) (k : AccKind) (size : Nat) (p : Fin 64) (va : DWord) :
    Hit × State :=
  let unreachable := field va.toNat 57 7 != 0 || (s.die (homeDie va)).part != (s.die (dieOf c)).part
  if unreachable then (.bad ⟨p, 0x07, va, xlateDetail Config.unwalkedLevel.val false, 0⟩, s)
  else if va.toNat % size ≠ 0 then (.bad ⟨p, 0x0A, va, 0, 0⟩, s)
  else match (s.core c).replayFor space va with
    | some r => (.onRecord r.recId, s)
    | none =>
      match s.translate c space va k .core (some ((s.findGroup c uid).elim 0 Fin.val, space)) with
      | (.ok pa u, s) => (.sent pa u, s)
      | (.frozen pa, s) => (.frozen pa, s)
      | (.fault code svc level page frame, s) =>
        if svc then
          match (s.core c).standing uid page k with
          | some r => (.onRecord r.id, s)
          | none => (.onPage page code level frame, s)
        else
          let d := accessDetail code space level svc frame
          (.bad ⟨p, code, va, d.1, d.2⟩, s)

/-- Every lane's access of one instruction, in ascending home-lane order. [DEDUCED, log 88] -/
def State.laneHits (s : State) (c : Fin 128) (uid : Nat) (space : Word) (k : AccKind) (size : Nat) (va : Fin 64 → DWord) :
    List (Fin 64) → List (Fin 64 × Hit) × State
  | [] => ([], s)
  | p :: ps =>
    let (h, s) := s.laneHit c uid space k size p (va p)
    let (hs, s) := s.laneHits c uid space k size va ps
    ((p, h) :: hs, s)

/-- The lanes of a list of hits that satisfy a test. -/
def hitLanes (hs : List (Fin 64 × Hit)) (f : Hit → Bool) : Lanes := Lanes.ofFn fun p => hs.any fun h => h.1 == p && f h.2

/-- The pages that need a new record, in the order of their first lanes (R27, R233). -/
def newPages (hs : List (Fin 64 × Hit)) : List PageId := (hs.filterMap fun h => h.2.page).eraseDups

/-- A park record of one page written, with the lanes parked on it (R27, R303). -/
def State.parkRecord (s : State) (x : Ctx) (acc : AccKind) (va : Fin 64 → DWord) (hs : List (Fin 64 × Hit)) (page : PageId) : State :=
  let m := hitLanes hs fun h => h.page == some page
  let p := m.first
  let (code, level, frame) := (hs.findSome? fun h => match h.2 with
    | .onPage q code level frame => if q = page then some (code, level, frame) else none
    | _ => none).getD (0x07, 0, 0)
  let ws := recordWords code 0 acc true false 0 0 x.pc (va p) m (x.g.tid.get p).toNat (x.g.home p) x.gid.val x.c.val 0
    x.grid.space (xlateDetail level true) (BitVec.ofNat 64 frame)
  let (id, s) := s.newId
  s.pushRecord x.c ws (some ⟨id, 0, 0, code, acc, x.g.uid, page, [(x.g.uid, m)],
    m.list.map fun p => (x.g.uid, p, va p, acc), level, frame⟩)

/-- The lanes of hits parked (R26): on the records that stand, and on a new record for each page. -/
def State.parkLanes (s : State) (x : Ctx) (acc : AccKind) (va : Fin 64 → DWord) (hs : List (Fin 64 × Hit)) : State :=
  let s := hs.foldl (fun s h => match h.2 with
    | .onRecord r => s.modCore x.c fun k => k.addWaiter r x.g.uid h.1 (va h.1) acc
    | _ => s) s
  (newPages hs).foldl (fun s page => s.parkRecord x acc va hs page) s

/-- The faults of hits. -/
def hitFaults (hs : List (Fin 64 × Hit)) : List LaneFault := hs.filterMap fun h => match h.2 with
  | .bad f => some f
  | _ => none

/-- Whether a hit parks its lane. [DEDUCED, log 32] -/
def Hit.parks : Hit → Bool
  | .onRecord _ => true
  | .onPage _ _ _ _ => true
  | _ => false

/-! ### Requests -/

/-- A counter's read or a code fetch that has performed: it is outstanding no longer, and the next issue of its CNTWAIT (R247) or of the
instruction takes its value. -/
def Req.spent (r : Req) : Bool := r.entry.isNone && (r.kind == .load || r.kind == .other) && !r.open_

/-- The access that a request makes: a counter add is atomic (R111, R247). [DEDUCED, log 92] -/
def Req.access (r : Req) : AccKind := if r.add64 && r.kind == .store then .atomic else r.kind

/-- The bytes a request touches. -/
def Req.size (r : Req) : Nat := if r.add64 then 8 else 4

/-- Whether `n` bytes at one address and `m` at another overlap. -/
def overlap (a n b m : Nat) : Bool := decide (a < b + m) && decide (b < a + n)

/-- Whether two requests may touch one location: by frame where both have one, else by address (R96, R119). -/
def Req.meets (e r : Req) : Bool :=
  (e.pa != noFrame && r.pa != noFrame && overlap e.pa e.size r.pa r.size)
    || (e.space == r.space && overlap e.va.toNat e.size r.va.toNat r.size)

/-- Whether two requests are accesses of one thread, or of one stream. -/
def Req.sameThread (e r : Req) : Bool :=
  e.core == r.core && e.team == r.team
    && ((e.tids.isEmpty && r.tids.isEmpty && e.uid == r.uid) || e.tids.any fun t => r.tids.contains t)

/-- Whether a request made earlier keeps a later one from performing: an acquire of its thread that has not read, an
access of its thread or instruction to the same location (R96, R99, R223), a store of its core that a read must see
(R101), for a release wider than its thread a read of that thread (R100), or, for a release at die scope or wider, any earlier write of
its core (R100, R101). [DEDUCED, log 10] -/
def Req.blocks (e r : Req) (paired : Bool) : Bool :=
  let sameCore := e.core == r.core || (paired && e.core == partner r.core)
  e.open_ && ((e.sameThread r && (e.acq || e.meets r || (r.rel && r.scope != .thr && e.kind != .store)))
    || (e.push == r.push && e.meets r)
    || (e.core == r.core && e.writes && e.meets r)
    || (r.rel && (scopeWide r.scope || (paired && r.scope == .team)) && sameCore && e.writes
      && (r.scope == .sys || !e.outside)))

/-- The requests made before one: by the instructions that made them, and those of one instruction as they were sent. -/
def State.before (s : State) (r : Req) : List Req :=
  s.reqs.filter fun e => decide (e.push < r.push) || (e.push == r.push && decide (e.id < r.id))

/-- Whether the team of a request's thread holds a pair of cores. -/
def State.pairedReq (s : State) (r : Req) : Bool :=
  (s.core r.core).teams.val.any fun t => t.any fun x => x.admitted == r.team && x.paired

/-- Whether a request may perform now. [DEDUCED, log 10] -/
def State.mayPerform (s : State) (r : Req) : Bool :=
  r.phase == .sent && !((s.before r).any fun e => e.blocks r (s.pairedReq r))

/-- One request changed. -/
def State.modReq (s : State) (id : Nat) (f : Req → Req) : State :=
  { s with reqs := s.reqs.map fun r => if r.id = id then f r else r }

/-- One request gone. -/
def State.dropReq (s : State) (id : Nat) : State := { s with reqs := s.reqs.filter fun r => r.id != id }

/-- An entry of a group's queue changed; a QST entry that has performed for every lane leaves (R74). -/
def Group.modEntry (g : Group) (q : Fin 8) (uid : Nat) (f : QEntry → QEntry) : Group :=
  { g with q := g.q.set q (((g.q.get q).map fun e => if e.uid = uid then f e else e).filter fun e =>
      !(e.kind == .st && (e.lanes &&& ~~~e.filled) == 0)) }

/-- The resident group that a request belongs to changed, in its queues and in its bank's snapshot, which holds the
queues whose names the handler bank takes. -/
def State.modEntryOf (s : State) (c : Fin 128) (uid : Nat) (q : Fin 8) (euid : Nat) (f : QEntry → QEntry) : State :=
  match s.findGroup c uid with
  | none => s
  | some gid =>
    let s := s.modGroup c gid fun g => { g.modEntry q euid f with polled := false }
    match s.group c gid with
    | none => s
    | some g =>
      match s.bankOf c gid g with
      | some b => s.modCore c fun k => { k with banks := k.banks.set g.part (some { b with snap := b.snap.modEntry q euid f }) }
      | none => s

/-- A slot filled with its value (R74). -/
def QEntry.fill (e : QEntry) (p : Fin 64) (v : Word) (ecc : Bool) : QEntry :=
  { e with
    filled := e.filled ||| Lanes.one p
    pending := e.pending &&& ~~~Lanes.one p
    ecc := if ecc then e.ecc ||| Lanes.one p else e.ecc
    vals := e.vals.set p v }

/-- The value that a read of memory finds at a point of coherence, with the errors it meets (R390). -/
def State.readWord (s : State) (d : Fin 4) (pa n : Nat) (ctx : Option (Nat × Word)) : DWord × Bool × State :=
  let (ue, s) := s.consumeVault d pa n ctx
  (BitVec.ofNat 64 (s.pnum pa n), ue, s)

/-- Bytes written at a point of coherence in a vault: the errors of the words written go, and an armed injection meets its word
(R390, R392). -/
def State.writeVault (s : State) (pa : Nat) (bs : List Byte) : State := s.wrote pa bs (s.mem.store pa bs)

/-- The promotion tag of a line once a write has performed there (R102): a write ordered at core scope sets it, and one ordered at die
scope or wider clears it. -/
def State.tagWrite (s : State) (sc : Option Scope) (pa : Nat) (core : Fin 128) (rel : Nat) : State :=
  match sc with
  | some .core => { s with tags := ⟨pa / 64, core, rel⟩ :: s.tags.filter fun t => t.line != pa / 64 }
  | some sc => if scopeWide sc then { s with tags := s.tags.filter fun t => t.line != pa / 64 } else s
  | none => s

/-- A request's write at its point of coherence. -/
def State.writeWord (s : State) (r : Req) (n v : Nat) : State :=
  (s.writeVault r.pa (leBytes n v)).tagWrite r.tagScope r.pa r.core r.push

/-- A promotion tag that an acquire meets (R102): of another core, for an acquire at die scope or wider, or of the other
core of its pair at team scope. -/
def State.tagMet (s : State) (r : Req) : Option PromoTag :=
  if r.acq && !r.promoted then
    s.tags.find? fun t => t.line == r.pa / 64 && t.core != r.core
      && (scopeWide r.scope || (r.scope == .team && t.core == partner r.core))
  else none

/-- Where a thread of a team stands on a core (R14, R33): its group may have been re-formed since. -/
def State.threadAt (s : State) (c : Fin 128) (team : Nat) (tid : BitVec 12) : Option (Fin 128 × Fin 64) :=
  (List.finRange 128).findSome? fun i => match s.group c i with
    | some g =>
      if (s.team c g.team).any fun t => t.admitted == team then
        ((List.finRange 64).find? fun p => g.lst.get p != .vacant && g.tid.get p == tid).map fun p => (i, p)
      else none
    | none => none

/-- The tags of other cores that a read meets without promoting them: a later FENCE.acq of its thread does (R104). -/
def State.noteTags (s : State) (r : Req) : State :=
  let met := (s.tags.filter fun t => t.line == r.pa / 64 && t.core != r.core && !r.promoted).map fun t => (t.core, t.rel)
  if met.isEmpty then s
  else ((r.tids.filterMap fun t => (s.threadAt r.core r.team t).map Prod.fst).eraseDups).foldl (fun s gid =>
    s.modGroup r.core gid fun g => { g with metTags := (g.metTags ++ met).eraseDups }) s

/-- A request performed at its point of coherence (R95): a store or counter add is done with and its lane has performed; a
load or atomic keeps the value it read until its response arrives, and so does an add that meets an uncorrectable error, which is not
made (R390). -/
def State.perform (s : State) (fadd : Word → Word → Word) (r : Req) : State :=
  let d := Fin.ofNat 4 (field r.pa 37 2)
  let ctx := some (r.gid.val, r.space)
  let storeDone (s : State) : State :=
    let s := s.dropReq r.id
    match r.entry with
    | some (q, e) => s.modEntryOf r.core r.uid q e fun x => x.fill r.pos 0 false
    | none => s
  if r.add64 && r.kind == .store then
    let (v, ue, s) := s.readWord d r.pa 8 ctx
    if ue then s.modReq r.id fun x => { x with phase := .done v true } else storeDone (s.writeWord r 8 (satAdd v.toNat r.data.toNat))
  else match r.kind with
    | .store => storeDone (s.writeWord r 4 (r.data.toNat % 2 ^ 32))
    | .atomic =>
      let (v, ue, s) := (s.noteTags r).readWord d r.pa 4 ctx
      let s := if ue then s else match atomicNew fadd r.aop (v.setWidth 32) (r.data.setWidth 32) r.data2 with
        | some w => s.writeWord r 4 w.toNat
        | none => s
      s.modReq r.id fun x => { x with phase := .done v ue }
    | .load | .other =>
      let (v, ue, s) := (s.noteTags r).readWord d r.pa r.size ctx
      s.modReq r.id fun x => { x with phase := .done v ue }

/-! ### Replay entries -/

/-- The access of an entry of the replay queue: a store's, or a counter add's (R106, R111). [DEDUCED, log 92] -/
def replayAccess (isAdd : Bool) : AccKind := if isAdd then .atomic else .store

/-- Entries put into a core's replay queue, which is kept in the order in which they were made (R106). -/
def Core.queueReplay (k : Core) (r : Replay) : Core := { k with replay := insertBy Replay.id r k.replay }

/-- The space of the grid to which a group belongs, which its records name (R303), or that of the access where the group is gone. -/
def State.gridSpace (s : State) (c : Fin 128) (uid : Nat) (space : Word) : Word :=
  (((s.findGroup c uid).bind (s.group c)).bind (s.gridOf c)).elim space Grid.space

/-- That of a team on a core. -/
def State.teamSpace (s : State) (c : Fin 128) (team : Nat) (space : Word) : Word :=
  (((s.core c).teams.val.findSome? fun t => t.filter fun x => x.admitted == team).bind fun t => s.grid t.grid).elim space Grid.space

/-- A record of KIND 1 for accesses of a core that wait on a page (R106, R401): the group's standing record for the page and kind of
access if there is one, and else a new one, which counts as missing for no group yet (R27). `m` is the positions of the lanes and
`home` the home lane of the first. -/
def State.replayRecord (s : State) (c : Fin 128) (uid : Nat) (gid : Fin 128) (page : PageId) (acc : AccKind) (code : Byte)
    (site : Word) (va : DWord) (m : Lanes) (tid : BitVec 12) (home : Nat) (level frame : Nat) : Nat × State :=
  match (s.core c).standing uid page acc with
  | some r => (r.id, s)
  | none =>
    let (id, s) := s.newId
    let ws := recordWords code 1 acc true false 0 0 site va m tid.toNat home gid.val c.val 0 (s.gridSpace c uid page.space) (xlateDetail level true)
      (BitVec.ofNat 64 frame)
    (id, s.pushRecord c ws (some ⟨id, 0, 1, code, acc, uid, page, [], [], level, frame⟩))

/-- The page of a record: that of the replay entries which wait on it, or its own. -/
def Core.pageOf (k : Core) (recId : Nat) : Option PageId :=
  ((k.replay.find? fun r => r.recId == recId).map Replay.page).or ((k.allRecs.find? fun r => r.id == recId).map FaultRec.page)

/-- The lanes of a list of hits that a store leaves to the replay queue, by page: each joins the entry or the record that its page has,
or makes an entry with a record of KIND 1 (R106, R107, R233, R303). -/
def State.replayPage (s : State) (x : Ctx) (va : Fin 64 → DWord) (data : Fin 64 → DWord) (size : Nat) (isAdd : Bool)
    (entry : Option (Fin 8 × Nat)) (scope : Scope) (rel : Bool) (hs : List (Fin 64 × Hit)) (page : PageId) (old : Option Nat) : State :=
  let ls := (hs.filter fun h => match h.2, old with
    | .onRecord r, some o => r == o
    | .onPage q _ _ _, none => q == page
    | _, _ => false).map Prod.fst
  let lanes := ls.map fun p => (⟨x.g.tid.get p, p, va p, data p, size, isAdd⟩ : ReplayLane)
  let tag := x.g.tagScope (Lanes.ofFn fun p => ls.contains p).first rel scope
  let makers := if isAdd then x.act.list.map fun p => (x.g.tid.get p, p) else []
  let (id, s) := s.newId
  let add (s : State) (recId : Nat) (pg : PageId) : State := s.modCore x.c fun k =>
    k.queueReplay ⟨id, recId, x.g.uid, x.t.admitted, x.gid, pg, x.pc, entry, scope, rel, tag, makers, false, lanes⟩
  match old with
  | some recId => add s recId (((s.core x.c).pageOf recId).getD page)
  | none =>
    let (code, level, frame) := (hs.findSome? fun h => match h.2 with
      | .onPage q code level frame => if q = page then some (code, level, frame) else none
      | _ => none).getD (0x07, 0, 0)
    let m := hitLanes hs fun h => h.page == some page
    let p := m.first
    let (recId, s) := s.replayRecord x.c x.g.uid x.gid page (replayAccess isAdd) code x.pc (va p) m (x.g.tid.get p) (x.g.home p) level frame
    add s recId page

/-- The records that store hits join. -/
def oldRecords (hs : List (Fin 64 × Hit)) : List Nat := (hs.filterMap fun h => match h.2 with
  | .onRecord r => some r
  | _ => none).eraseDups

/-- The replay entries of one store instruction (R106). -/
def State.replayAll (s : State) (x : Ctx) (va data : Fin 64 → DWord) (size : Nat) (isAdd : Bool)
    (entry : Option (Fin 8 × Nat)) (scope : Scope) (rel : Bool) (hs : List (Fin 64 × Hit)) : State :=
  let s := (oldRecords hs).foldl (fun s r =>
    s.replayPage x va data size isAdd entry scope rel hs ⟨0, 0, 0⟩ (some r)) s
  (newPages hs).foldl (fun s pg => s.replayPage x va data size isAdd entry scope rel hs pg none) s

/-- The entries that one store instruction needs in the replay queue. -/
def entriesNeeded (hs : List (Fin 64 × Hit)) : Nat := (oldRecords hs).length + (newPages hs).length

/-- Whether the core's replay queue holds an entry made before a release issued (R108). `mark` is the release's place. [DEDUCED, log 10] -/
def Core.replayBefore (k : Core) (mark : Nat) : Bool := k.replay.any fun r => decide (r.id < mark)

/-- What follows once no replay entry made before this release holds it (R108); until then the lanes stay. -/
def State.afterReplays (s : State) (x : Ctx) (scope : Scope) (k : State → State) : State :=
  let mark := x.g.held.getD s.nextId
  if scope != .thr && (s.core x.c).replayBefore mark then
    s.modGroup x.c x.gid fun g => { g with polled := true, held := some mark }
  else k s

/-- Whether earlier writes of the issuing core have yet to perform, for a release at a scope that waits for them
(R101). [DEDUCED, log 10] -/
def State.writesOpen (s : State) (c : Fin 128) (paired : Bool) (scope : Scope) : Bool :=
  (scopeWide scope || (paired && scope == .team))
    && s.reqs.any fun r => (r.core == c || (paired && r.core == partner c)) && r.writes && r.open_
      && (scope == .sys || !r.outside)

/-- Whether reads of ACT's threads have yet to perform, which a release by those threads waits for (R100). -/
def State.readsOpen (s : State) (x : Ctx) : Bool := s.reqs.any fun r => r.kind != .store && r.open_ && x.made r

/-- What follows once a release at a scope may perform: no replay entry made before it is left (R108), its threads' earlier reads have
performed (R100), and, where its scope asks for it, the core's earlier writes have (R101). Until then the lanes stay. -/
def State.released (s : State) (x : Ctx) (scope : Scope) (k : State → State) : State :=
  s.afterReplays x scope fun s =>
    if scope != .thr && (s.writesOpen x.c x.t.paired scope || s.readsOpen x) then
      s.modGroup x.c x.gid fun g => { g with polled := true, held := some (x.g.held.getD s.nextId) }
    else k s

/-- The same for a stream. -/
def State.releasedStream (s : State) (y : SCtx) (scope : Scope) (k : State → State) : State :=
  let mark := y.st.held.getD s.nextId
  if scope != .thr && ((s.core y.c).replayBefore mark || s.writesOpen y.c y.t.paired scope) then
    s.setStream y.c y.copy (some { y.st with polled := true, held := some mark })
  else k s

/-! ### The resolution of a record (R29, R305) -/

/-- Lanes delivered to their group's trap path for an access that they made (R29, R107, R401). `wide` is the LEN of the
instruction at the site. -/
def laneDelivery (code : Byte) (m : Lanes) (site : Word) (wide : Bool) (acc : AccKind) (va : DWord) (d : DWord × DWord) : Delivery :=
  ⟨.fault, code, m, site, wide, acc, 0, va, d.1, d.2, false⟩

/-- Whether the instruction at an offset of a group's section is 32 bits long (R123), as far as its first parcel can be read. -/
def State.siteWide (s : State) (c gid : Fin 128) (g : Group) (site : Word) : Bool :=
  let base := if g.hmode then (s.bankOf c gid g).elim 0 Bank.hcode else (s.gridOf c g).elim 0 fun r => r.kern.base
  match s.translate c (s.spaceOf c g) (base + site.setWidth 64) .load .fetch with
  | (.ok pa _, s) => if inVault pa then (s.mem.get pa).getLsbD 0 else Config.unfetchedWide
  | _ => Config.unfetchedWide

/-- The lanes of a set by the address where they stand, ascending. -/
def Group.bySite (g : Group) (m : Lanes) : List (Word × Lanes) :=
  (sortBy id ((m.list.map fun p => (g.lpc.get p).toNat).eraseDups)).map fun a =>
    (BitVec.ofNat 32 a, Lanes.ofFn fun p => m.has p && (g.lpc.get p).toNat == a)

/-- The lanes parked on a resolved record run again (R27), and their group with them once it misses no page. -/
def State.unpark (s : State) (c : Fin 128) (uid : Nat) (m : Lanes) : State :=
  match s.findGroup c uid with
  | none => s
  | some gid =>
    let free := (s.core c).missing uid == 0
    s.modGroup c gid fun g =>
      { g.setLst (m &&& g.inState .parked) .running with polled := false, out := if free then false else g.out }

/-- The address and the kind of the access with which a lane parked on a record. -/
def FaultRec.accessOf (r : FaultRec) (uid : Nat) (p : Fin 64) : DWord × AccKind :=
  (r.vas.find? fun e => e.1 == uid && e.2.1 == p).elim (0, r.access) fun e => e.2.2

/-- Parked lanes whose record cannot be serviced (R29, R76): their pending slots are filled with 0, their deferred slots
go, and they are delivered with the code given, those of each instruction in a delivery of their own, by ascending address.
[DEDUCED, log 83; DEDUCED, log 91] -/
def State.refuseLanes (s : State) (c : Fin 128) (uid : Nat) (m : Lanes) (code : Byte) (r : FaultRec) : State :=
  match s.findGroup c uid with
  | none => s
  | some gid =>
    let free := (s.core c).missing uid == 0
    let fix (e : QEntry) : QEntry :=
      let pend := m &&& e.pending
      let gone := m &&& e.deferred
      { e with
        filled := e.filled ||| pend
        pending := e.pending &&& ~~~pend
        deferred := e.deferred &&& ~~~gone
        lanes := e.lanes &&& ~~~gone
        vals := Tab.ofFn fun p => if pend.has p then 0 else e.vals.get p }
    let s := s.modGroup c gid fun g =>
      { g.setLst (m &&& g.inState .parked) .running with
        q := g.q.map fun es => es.map fix, polled := false, out := if free then false else g.out }
    match s.group c gid with
    | none => s
    | some g =>
      let m := m &&& g.inState .running
      let ds := (g.bySite m).map fun x =>
        let a := r.accessOf uid x.2.first
        laneDelivery code x.2 x.1 true a.2 a.1 (accessDetail code r.page.space r.level false r.frame)
      if m = 0 then s else (s.deliver c gid ds).settle c gid

/-- Whether a replay entry is a counter add's. -/
def Replay.isAdd (r : Replay) : Bool := r.lanes.any ReplayLane.isAdd

/-- The threads of a replay entry, with their positions at the store. -/
def Replay.threads (r : Replay) : List (BitVec 12 × Fin 64) :=
  if r.stream then [] else if r.makers.isEmpty then r.lanes.map fun l => (l.tid, l.pos) else r.makers

/-- The stream of a core that has a name, as an issuer. -/
def State.streamNamedBy (s : State) (c : Fin 128) (uid : Nat) : Option SCtx :=
  [false, true].findSome? fun copy => (({ s with cur := some (.stream c copy) }).sctx).filter fun y => y.st.uid == uid

/-- The record of lanes that had exited when their store was discarded (R107): no trap. -/
def State.recordGone (s : State) (c : Fin 128) (r : Replay) (ls : List (BitVec 12 × Fin 64)) (code : Byte) (d : DWord × DWord) :
    State :=
  let va := (r.lanes.head?).elim 0 ReplayLane.va
  match sortBy (fun l : BitVec 12 × Fin 64 => l.1.toNat % 64) ls with
  | [] => s
  | l :: _ =>
    s.pushRecord c (recordWords code 1 (replayAccess r.isAdd) true false 0 0 r.site va (Lanes.ofFn fun p => ls.any fun x => x.2 == p)
      l.1.toNat (l.1.toNat % 64) r.gid.val c.val 0 (s.teamSpace c r.team r.page.space) d.1 d.2) none

/-- The lanes of a discarded replay entry that stand in one group delivered with the code given at the store (R107). -/
def State.refuseIn (s : State) (c gid : Fin 128) (r : Replay) (m : Lanes) (code : Byte) (d : DWord × DWord) : State :=
  match s.group c gid with
  | none => s
  | some g =>
    let va := ((r.lanes.find? fun l => l.tid == g.tid.get m.first).or r.lanes.head?).elim 0 ReplayLane.va
    (s.deliver c gid [{ laneDelivery code m r.site true (replayAccess r.isAdd) va d with replay := true }]).settle c gid

/-- The threads of a discarded replay entry (R107), whatever group each stands in now: those that have not exited are delivered with the
code given at the store, and those that have exited cause a record with no trap. A stream's access faults the stream (R273). A thread of
`told` has been delivered for this record already. [DEDUCED, log 91] -/
def State.refuseReplay (s : State) (c : Fin 128) (r : Replay) (code : Byte) (d : DWord × DWord) (told : List (Nat × BitVec 12) := []) :
    State :=
  let threads := r.threads.filter fun l => !told.contains (r.team, l.1)
  let place (l : BitVec 12 × Fin 64) : Option (Fin 128 × Fin 64) := match s.threadAt c r.team l.1 with
    | some (i, p) => if (s.group c i).any fun g => g.lst.get p != .exited then some (i, p) else none
    | none => none
  let at_ := threads.map place
  let gids := (at_.filterMap fun a => a.map Prod.fst).eraseDups
  let s := match r.entry with
    | some (q, e) => s.modEntryOf c r.uid q e fun x =>
        { x with lanes := x.lanes &&& ~~~(Lanes.ofFn fun p => r.lanes.any fun l => l.pos == p) }
    | none => s
  if r.stream then
    match s.streamNamedBy c r.uid with
    | some y => s.streamFault y code (replayAccess r.isAdd) ((r.lanes.head?).elim 0 ReplayLane.va) d.1 d.2
    | none => s.recordGone c r [(0, 0)] code d
  else
    let s := s.recordGone c r (threads.filter fun l => (place l).isNone) code d
    gids.foldl (fun s i => s.refuseIn c i r (Lanes.ofFn fun p => at_.contains (some (i, p))) code d) s

/-- What becomes of a lane of a replay entry sent on (R106, R107): it is gone from the queue, waits behind an entry that its page has,
or faults again. -/
inductive Resent where
  | gone
  | joins (recId : Nat) (page : PageId)
  | again (code : Byte) (svc : Bool) (page : PageId) (level frame : Nat)
  deriving DecidableEq, Repr

/-- One lane of a replay entry sent on once its record is resolved (R106): it performs at its frame at once if nothing made before it
keeps it back, is on its way if something does, or is held by a frozen entry. -/
def State.replayLane (s : State) (fadd : Word → Word → Word) (c : Fin 128) (r : Replay) (l : ReplayLane) : Resent × State :=
  match (s.core c).replayFor r.page.space l.va with
  | some e => (.joins e.recId e.page, s)
  | none =>
    let (id, s) := s.newId
    let req : Req := {
      id := id, push := r.id, kind := .store, aop := .exch, add64 := l.isAdd, core := c, uid := r.uid, gid := r.gid, team := r.team
      pos := l.pos, tid := l.tid, tids := if r.makers.isEmpty && !r.stream then [l.tid] else r.makers.map Prod.fst, space := r.page.space, va := l.va, pa := noFrame, xl := 0, entry := r.entry
      scope := r.scope, acq := false, rel := r.release, tagScope := r.tagScope, data := l.data, data2 := 0, promoted := false
      phase := .sent, since := s.reft }
    match s.translate c r.page.space l.va (replayAccess l.isAdd) .core (some (r.gid.val, r.page.space)) with
    | (.ok pa u, s) =>
      let req := { req with pa := pa, xl := u }
      (.gone, let t : State := { s with reqs := s.reqs ++ [req] }
        if field pa 46 2 = 0 && s.mayPerform req then t.perform fadd req else t)
    | (.frozen pa, s) => (.gone, { s with reqs := s.reqs ++ [{ req with pa := pa, phase := .frozen }] })
    | (.fault code svc level page frame, s) => (.again code svc page level frame, s)

/-- Lanes of a replay entry that fault again on one page: the entry stands again in its place, on the record that the page has or on
a new one, or the lanes are refused when the fault is not serviceable (R106, R107). -/
def State.requeue (s : State) (c : Fin 128) (r : Replay) (ls : List ReplayLane) (why : Resent) : State :=
  match why with
  | .gone => s
  | .joins recId page => s.modCore c fun k => k.queueReplay { r with recId := recId, page := page, lanes := ls }
  | .again code svc page level frame =>
    if svc then
      let l := ls.headD ⟨0, 0, 0, 0, 0, false⟩
      let (recId, s) := s.replayRecord c r.uid r.gid page (replayAccess l.isAdd) code r.site l.va
        (Lanes.ofFn fun p => ls.any fun x => x.pos == p) l.tid (l.tid.toNat % 64) level frame
      s.modCore c fun k => k.queueReplay { r with recId := recId, page := page, lanes := ls }
    else s.refuseReplay c { r with lanes := ls } code (accessDetail code r.page.space level false frame)

/-- A replay entry of a resolved record performed (R106). Lanes that fault again are put back page by page. -/
def State.replayEntry (s : State) (fadd : Word → Word → Word) (c : Fin 128) (r : Replay) : State :=
  let (left, s) := r.lanes.foldl (fun (acc : List (ReplayLane × Resent) × State) l =>
    match acc.2.replayLane fadd c r l with
    | (.gone, s) => (acc.1, s)
    | (f, s) => (acc.1 ++ [(l, f)], s)) ([], s)
  ((left.map Prod.snd).eraseDups).foldl (fun s f => s.requeue c r ((left.filter fun x => x.2 == f).map Prod.fst) f) s

/-- A held access whose record is resolved (R401): serviced, the core performs it under its new translation and fills its slot, at
once if nothing made before it keeps it back. -/
def State.retryHeld (s : State) (fadd : Word → Word → Word) (r : Req) : State :=
  match s.translate r.core r.space r.va r.access .core (some (r.gid.val, r.space)) with
  | (.ok pa u, s) =>
    let r := { r with pa := pa, xl := u, phase := .sent }
    let s := s.modReq r.id fun _ => r
    if field pa 46 2 = 0 && s.mayPerform r && (s.tagMet r).isNone then
      let s := s.perform fadd r
      match s.reqs.find? fun x => x.id == r.id, r.entry with
      | some x, some (q, e) =>
        match x.phase with
        | .done v ue => (s.modEntryOf r.core r.uid q e fun en => en.fill r.pos (v.setWidth 32) ue).dropReq r.id
        | _ => s
      | _, _ => s
    else s
  | (.frozen pa, s) => s.modReq r.id fun x => { x with phase := .frozen, pa := pa }
  | (.fault _ _ _ _ _, s) => s.modReq r.id fun x => { x with phase := .frozen, pa := noFrame }

/-- The threads of accesses that cannot be serviced delivered where they stand (R401), whatever group each stands in now: those of each
address in a delivery of their own. A lane that has exited is not delivered, nor one of `told`. [DEDUCED, log 91] -/
def State.deliverHeld (s : State) (c : Fin 128) (rs : List Req) (code : Byte) (d : DWord × DWord) (told : List (Nat × BitVec 12) := []) :
    State :=
  let at_ := rs.flatMap fun r => (r.tids.filter fun t => !told.contains (r.team, t)).filterMap fun t =>
    (s.threadAt c r.team t).map fun w => (w, r)
  ((at_.map fun e => e.1.1).eraseDups).foldl (fun s gid =>
    match s.group c gid with
    | none => s
    | some g =>
      let m := Lanes.ofFn fun p => at_.any (fun e => e.1 == (gid, p)) && (g.lst.get p == .running || g.lst.get p == .parked)
      if m = 0 then s
      else
        let ds := (g.bySite m).map fun x =>
          match at_.find? fun e => e.1 == (gid, x.2.first) with
          | some e => laneDelivery code x.2 x.1 (s.siteWide c gid g x.1) e.2.access e.2.va d
          | none => laneDelivery code x.2 x.1 true .load 0 d
        ((s.modGroup c gid fun g => g.setLst (m &&& g.inState .parked) .running).deliver c gid ds).settle c gid) s

/-- Accesses of a core that cannot be serviced (R401): their slots are filled with 0, and their lanes are delivered. -/
def State.refuseHeld (s : State) (c : Fin 128) (rs : List Req) (code : Byte) (d : DWord × DWord) (told : List (Nat × BitVec 12) := []) :
    State :=
  (rs.foldl (fun s r => (match r.entry with
    | some (q, e) => s.modEntryOf r.core r.uid q e fun en => en.fill r.pos 0 false
    | none => s).dropReq r.id) s).deliverHeld c rs code d told

/-- A copy that cannot make an access: `final` is 0 for an element, which abandons the rest, 1 for the status word and 2 for the
counter, which are skipped (R120, R121). [DEDUCED, log 38] -/
def Copy.abandon (k : Copy) (final : Nat) (code : Byte) : Copy :=
  if final = 0 then { k with code := code, phase := .status }
  else if final = 1 then { k with phase := .counter }
  else { k with phase := .done }

/-- A copy stopped on a record goes on when it is serviced, and ends with the record's code when it is not (R120, R121). -/
def Copy.resolved (k : Copy) (recId : Nat) (code : Byte) : Copy :=
  match k.phase with
  | .stopped r final =>
    if r = recId then
      if code = 0 then
        { k with phase := if final = 0 then .moving else if final = 1 then .status else .counter }
      else k.abandon final code
    else k
  | _ => k

/-- The threads that are parked on a record. -/
def State.parkedThreads (s : State) (c : Fin 128) (r : FaultRec) : List (Nat × BitVec 12) :=
  r.waiters.flatMap fun w => ((s.findGroup c w.1).bind (s.group c)).elim [] fun g =>
    (w.2 &&& g.inState .parked).list.map fun p => ((s.team c g.team).elim 0 Team.admitted, g.tid.get p)

/-- A FAULTRES write (R305): the record SEQ resolved with RESULT. A SEQ that names no unresolved record changes nothing. [DEDUCED, log 83] -/
def State.resolve (s : State) (fadd : Word → Word → Word) (c : Fin 128) (seq : Nat) (result : Byte) : State :=
  match (s.core c).recs.find? fun r => r.seq == seq with
  | none => s
  | some rec_ =>
    let code := if 0x12 ≤ result.toNat then rec_.code else result
    let entries := (s.core c).replay.filter fun r => r.recId == rec_.id
    let held := s.reqs.filter fun r => r.core == c && r.phase == .faulted rec_.id
    let s := s.modCore c fun k =>
      { k with recs := k.recs.filter fun r => r.id != rec_.id, replay := k.replay.filter fun r => r.recId != rec_.id }
    let s := { s with copies := s.copies.map fun k => if k.core = c then k.resolved rec_.id code else k }
    if code = 0 then
      let s := rec_.waiters.foldl (fun s w => s.unpark c w.1 w.2) s
      let s := entries.foldl (fun s r => s.replayEntry fadd c r) s
      held.foldl (fun s r => s.retryHeld fadd r) s
    else
      let told := s.parkedThreads c rec_
      let s := rec_.waiters.foldl (fun s w => s.refuseLanes c w.1 w.2 code rec_) s
      let d := accessDetail code rec_.page.space rec_.level false rec_.frame
      let (told, s) := entries.foldl (fun a r =>
        (a.1 ++ r.threads.map fun l => (r.team, l.1), a.2.refuseReplay c r code d a.1)) (told, s)
      s.refuseHeld c held code d told

end Sys2Proof.Machine
end

