-- ==== Sys2Proof/WellFormed.lean ====
section
/-! DEFINITION. Well-formedness: what an instruction's fields must meet beyond their ranges (R126, R131, R132), and the
names under which the decoder rejects an encoding (R142). -/
namespace Sys2Proof

/-- Why an encoding is no instruction (R142). Every reason faults with ILLOP. -/
inductive Illegal where
  | straddle        -- LEN = 1 in the last parcel of a code section
  | unassignedOp    -- a major opcode that R134 does not assign
  | unassignedSub   -- a SUB value that no table assigns
  | reservedField   -- a non-zero reserved field or a reserved field value
  | lastBit         -- a LAST bit against R126
  | alignment       -- a register group against R131, or one that runs past S127
  | maskK7          -- K7 as a destination (R54)
  deriving DecidableEq, Repr

/-- A LAST bit on a mixed field that names a uniform register is illegal (R126). -/
def lastOnMixed (b : Mixed) (lb : Bool) : Option Illegal :=
  match b with
  | .v _ => none
  | .s _ => if lb then some .lastBit else none

/-- A register group of `n` must start at a multiple of `n` (R131). -/
def groupAligned (n r : Nat) : Option Illegal := if r % n = 0 then none else some .alignment

/-- The checks of IADD64 (R197): even pairs, and LAST on no uniform operand. -/
def pairMixed (d a : Fin 64) (b : Mixed) (lb : Bool) : Option Illegal :=
  if d.val % 2 ≠ 0 ∨ a.val % 2 ≠ 0 then some .alignment
  else match b with
    | .v r => if r.val % 2 = 0 then none else some .alignment
    | .s _ => if lb then some .lastBit else none

/-- PLDW and PSTW name two or four registers (R222). -/
def wideAligned (x4 : Bool) (d : Fin 64) : Option Illegal := groupAligned (if x4 then 4 else 2) d.val

/-- CAS names a pair (R224, R229). -/
def casAligned (aop : Aop) (d : Fin 64) : Option Illegal := if aop = .cas then groupAligned 2 d.val else none

/-- With OB = 0 the scope field must be 0 (R132). -/
def relaxedScope (ob : Bool) (sc : Scope) : Option Illegal := if ob = false ∧ sc ≠ .thr then some .reservedField else none

/-- A group of `n` uniform registers from `a` must end at S127 or before (R140). -/
def uniformRun (n : Nat) (a : Fin 128) : Option Illegal := if a.val + n ≤ 128 then none else some .alignment

/-- What is wrong with an instruction's fields, if anything. -/
def Instr.problem (i : Instr) : Option Illegal :=
  match i with
  | .sadd _ _ _ _ => none
  | .ssub _ _ _ _ => none
  | .smul _ _ _ _ => none
  | .smulh _ _ _ _ => none
  | .sand _ _ _ _ => none
  | .sor _ _ _ _ => none
  | .sxor _ _ _ _ => none
  | .sshl _ _ _ _ => none
  | .sshr _ _ _ _ => none
  | .ssra _ _ _ _ => none
  | .sminI64 _ _ _ _ => none
  | .smaxI64 _ _ _ _ => none
  | .scmp _ _ _ _ => none
  | .ssel _ _ _ _ => none
  | .sminN64 _ _ _ _ => none
  | .smaxN64 _ _ _ _ => none
  | .srdl _ _ _ _ => none
  | .smov _ _ _ => none
  | .spopc _ _ _ => none
  | .sclz _ _ _ => none
  | .setwReg _ _ _ => none
  | .setwImm _ _ _ => none
  | .getw _ _ => none
  | .tid _ _ => none
  | .hlane _ _ => none
  | .rank _ _ => none
  | .team _ _ _ => none
  | .grid _ _ _ => none
  | .gid _ _ => none
  | .core _ _ => none
  | .die _ _ => none
  | .cyc _ _ => none
  | .reft _ _ => none
  | .xfrd _ _ => none
  | .xfclr _ _ => none
  | .sli _ _ _ => none
  | .slih _ _ _ => none
  | .sld _ _ _ _ => none
  | .sst _ _ _ _ => none
  | .crr _ _ _ => none
  | .crw _ _ _ => none
  | .xlinv _ _ => none
  | .ctxsv _ _ => none
  | .ctxld _ _ => none
  | .eret _ => none
  | .idle _ => none
  | .brc _ _ _ _ => none
  | .bru _ _ _ _ => none
  | .brm _ _ _ _ => none
  | .brb _ _ _ _ => none
  | .lenter _ _ => none
  | .call _ _ => none
  | .calli _ _ _ => none
  | .nop _ => none
  | .rcv _ => none
  | .exit _ => none
  | .ret _ => none
  | .trap _ _ => none
  | .brk _ => none
  | .yield _ => none
  | .iadd _ _ b _ lb _ => lastOnMixed b lb
  | .isub _ _ b _ lb _ => lastOnMixed b lb
  | .imul _ _ b _ lb _ => lastOnMixed b lb
  | .imulhI32 _ _ b _ lb _ => lastOnMixed b lb
  | .imulhN32 _ _ b _ lb _ => lastOnMixed b lb
  | .imad _ _ b _ lb _ => lastOnMixed b lb
  | .iadd64 d a b _ lb _ => pairMixed d a b lb
  | .lea _ _ b _ lb _ => lastOnMixed b lb
  | .iminI32 _ _ b _ lb _ => lastOnMixed b lb
  | .iminN32 _ _ b _ lb _ => lastOnMixed b lb
  | .imaxI32 _ _ b _ lb _ => lastOnMixed b lb
  | .imaxN32 _ _ b _ lb _ => lastOnMixed b lb
  | .and _ _ b _ lb _ => lastOnMixed b lb
  | .or _ _ b _ lb _ => lastOnMixed b lb
  | .xor _ _ b _ lb _ => lastOnMixed b lb
  | .mov _ b lb _ => lastOnMixed b lb
  | .shl _ _ b _ lb _ => lastOnMixed b lb
  | .shr _ _ b _ lb _ => lastOnMixed b lb
  | .sra _ _ b _ lb _ => lastOnMixed b lb
  | .rot _ _ b _ lb _ => lastOnMixed b lb
  | .bfeI32 _ _ b _ lb _ => lastOnMixed b lb
  | .bfeN32 _ _ b _ lb _ => lastOnMixed b lb
  | .bfi _ _ b _ lb _ => lastOnMixed b lb
  | .iabs _ _ _ _ => none
  | .ineg _ _ _ _ => none
  | .not _ _ _ _ => none
  | .popc _ _ _ _ => none
  | .clz _ _ _ _ => none
  | .brev _ _ _ _ => none
  | .fabs _ _ _ _ => none
  | .fneg _ _ _ _ => none
  | .fclass _ _ _ _ => none
  | .frndRn _ _ _ _ => none
  | .frndRz _ _ _ _ => none
  | .frndRp _ _ _ _ => none
  | .frndRm _ _ _ _ => none
  | .frcp _ _ _ _ => none
  | .frsq _ _ _ _ => none
  | .fsqrt _ _ _ _ => none
  | .fexp2 _ _ _ _ => none
  | .flog2 _ _ _ _ => none
  | .fsin _ _ _ _ => none
  | .fcos _ _ _ _ => none
  | .isel _ _ b lb _ => lastOnMixed b lb
  | .fsel _ _ b lb _ => lastOnMixed b lb
  | .icmpI32 _ _ _ b _ lb _ => lastOnMixed b lb
  | .icmpN32 _ _ _ b _ lb _ => lastOnMixed b lb
  | .fcmp _ _ _ b _ lb _ => lastOnMixed b lb
  | .vote _ _ _ _ => none
  | .kand _ _ _ _ => none
  | .kor _ _ _ _ => none
  | .kxor _ _ _ _ => none
  | .knot _ _ _ => none
  | .kmov _ _ _ => none
  | .kpopc _ _ _ => none
  | .fadd _ _ b _ lb _ => lastOnMixed b lb
  | .fsub _ _ b _ lb _ => lastOnMixed b lb
  | .fmul _ _ b _ lb _ => lastOnMixed b lb
  | .ffma _ _ b _ lb _ => lastOnMixed b lb
  | .fmin _ _ b _ lb _ => lastOnMixed b lb
  | .fmax _ _ b _ lb _ => lastOnMixed b lb
  | .fdiv _ _ b _ lb _ => lastOnMixed b lb
  | .hadd2 _ _ b _ lb _ => lastOnMixed b lb
  | .hmul2 _ _ b _ lb _ => lastOnMixed b lb
  | .hfma2 _ _ b _ lb _ => lastOnMixed b lb
  | .cvtNarrow _ _ _ _ _ => none
  | .cvtWiden _ _ _ _ _ => none
  | .cvti _ _ _ _ _ _ => none
  | .cvtf _ _ _ _ _ _ => none
  | .pk8 _ _ _ _ _ _ => none
  | .upk8 _ _ _ _ _ _ => none
  | .pk4 _ _ _ _ _ _ => none
  | .upk4 _ _ _ _ _ _ => none
  | .shfl _ _ b _ lb _ => lastOnMixed b lb
  | .shflup _ _ b _ lb _ => lastOnMixed b lb
  | .shfldn _ _ b _ lb _ => lastOnMixed b lb
  | .shflx _ _ b _ lb _ => lastOnMixed b lb
  | .bcast _ _ b _ lb _ => lastOnMixed b lb
  | .redaddN32 _ _ _ _ => none
  | .redaddF32 _ _ _ _ => none
  | .redminI32 _ _ _ _ => none
  | .redminN32 _ _ _ _ => none
  | .redminF32 _ _ _ _ => none
  | .redmaxI32 _ _ _ _ => none
  | .redmaxN32 _ _ _ _ => none
  | .redmaxF32 _ _ _ _ => none
  | .scanaddN32 _ _ _ _ => none
  | .scanaddF32 _ _ _ _ => none
  | .scanaddN32Exc _ _ _ _ => none
  | .scanaddF32Exc _ _ _ _ => none
  | .matchV _ _ _ _ => none
  | .pld _ _ _ _ _ => none
  | .pst _ _ _ _ _ _ => none
  | .pldw x4 d _ _ _ _ => wideAligned x4 d
  | .pstw x4 d _ _ _ _ _ => wideAligned x4 d
  | .patom aop _ d _ _ _ => casAligned aop d
  | .bar _ _ => none
  | .bara _ _ => none
  | .bard _ _ => none
  | .barw _ _ _ => none
  | .barx _ _ _ => none
  | .fset _ _ => none
  | .fclr _ _ => none
  | .fwait _ _ => none
  | .fence _ _ _ => none
  | .xfence _ => none
  | .qld _ acq sc _ _ _ => relaxedScope acq sc
  | .qst _ rel sc _ _ _ _ _ => relaxedScope rel sc
  | .qpf _ _ _ _ => none
  | .qpop _ _ _ => none
  | .qwait _ _ _ => none
  | .qatom aop _ _ _ _ d _ => casAligned aop d
  | .cpy _ _ sb _ _ => groupAligned 4 sb.val
  | .cpyg _ _ sb _ _ => groupAligned 4 sb.val
  | .cpys _ _ sb _ _ => groupAligned 4 sb.val
  | .cseal _ _ => none
  | .cbulk _ _ _ _ => none
  | .cntadd _ _ _ _ => none
  | .cntwait _ _ _ _ => none
  | .rput _ _ _ _ => none
  | .rget _ _ _ => none
  | .wqpop d _ _ => groupAligned 8 d.val
  | .wqpush d _ _ => groupAligned 8 d.val
  | .grec d _ _ => groupAligned 8 d.val
  | .gemit d _ _ => groupAligned 8 d.val
  | .tcfg _ _ _ => none
  | .tld _ _ _ => none
  | .tst _ _ _ => none
  | .tzero _ _ => none
  | .ttrn _ _ _ => none
  | .scld a _ => uniformRun 2 a
  | .mma _ _ _ _ => none
  | .mmas tx _ _ _ => groupAligned 2 tx.val
  | .accz _ _ => none
  | .accld a _ => uniformRun 2 a
  | .accst _ a _ => uniformRun 3 a
  | .mfrd _ _ _ => none
  | .fork a _ _ => uniformRun 2 a
  | .rdv _ => none
  | .mend _ => none
  | .movCompact _ _ _ => none
  | .iaddCompact _ _ _ => none
  | .isubCompact _ _ _ => none
  | .imulCompact _ _ _ => none
  | .andCompact _ _ _ => none
  | .orCompact _ _ _ => none
  | .xorCompact _ _ _ => none
  | .shlCompact _ _ _ => none
  | .shrCompact _ _ _ => none
  | .sraCompact _ _ _ => none
  | .faddCompact _ _ _ => none
  | .fsubCompact _ _ _ => none
  | .fmulCompact _ _ _ => none
  | .fminCompact _ _ _ => none
  | .fmaxCompact _ _ _ => none
  | .leaCompact _ _ _ => none
  | .brmWindowExpiry _ _ => none
  | .waitTimeout _ => none
  | .coreReserveLoan _ => none
  | .tlbTranslate _ => none
  | .accessPerform _ => none
  | .responseArrival _ => none
  | .remoteScopePromotion _ => none
  | .tokenWrite _ => none
  | .xlinvCompletion _ => none
  | .thawRetranslate _ => none
  | .copyTransferPage _ => none
  | .copyCompletion _ => none
  | .cxlCompletion _ _ _ => none
  | .idleWake _ _ => none
  | .matrixInstructionComplete _ => none
  | .firingDispatch _ => none
  | .firingCommit _ _ => none
  | .rebindSwap _ => none
  | .unbindCompletion _ => none
  | .handlerBankGrant _ _ => none
  | .groupStopComplete _ _ => none
  | .timerMatch _ => none
  | .retirementComplete _ _ => none
  | .quoteExpiry _ => none
  | .haltTime _ => none
  | .haltEnergy _ => none
  | .teamPlacement => none
  | .teamRelease _ _ => none
  | .forwardProgressSwap _ => none
  | .safePointTimeout _ _ => none
  | .teamSave _ _ => none
  | .frequencyStep _ _ => none
  | .relockComplete _ => none
  | .droopStretch _ => none
  | .capChange _ => none
  | .envelopeChange _ _ => none
  | .breakEvenHold _ => none
  | .powerGate _ => none
  | .coreWake _ => none
  | .inrushGrant _ _ => none
  | .suspendStep => none
  | .portRetrain _ => none
  | .portSequenceConfirm _ _ => none
  | .throttle _ _ => none
  | .throttleStep _ _ => none
  | .emergencySave _ _ => none
  | .emergencySaveCommit _ => none
  | .hardTrip _ _ => none
  | .boot => none
  | .scrubCompletion _ => none
  | .hostBar2Access _ _ _ _ => none
  | .dieLinkRetrain _ => none
  | .peerWrite _ _ _ => none
  | .peerRead _ _ _ => none
  | .peerResponse _ _ _ => none
  | .peerAdd _ _ _ => none
  | .peerRequest _ _ _ => none
  | .peerReject _ _ _ => none
  | .heartbeatWindowEnd _ => none
  | .cmdLoad _ _ => none
  | .cmdUnload _ _ => none
  | .cmdQuote _ _ => none
  | .cmdAccept _ _ => none
  | .cmdDecline _ _ => none
  | .cmdLaunch _ _ => none
  | .cmdBind _ _ => none
  | .cmdUnbind _ _ => none
  | .mbResume _ => none
  | .mbAttest _ => none
  | .mbReload _ => none
  | .mbLogdump _ => none
  | .mbIdcert _ => none
  | .faultres _ _ => none
  | .gstopStop _ _ => none
  | .gstopRun _ _ => none
  | .spretire _ _ => none
  | .fpwinWrite _ _ => none
  | .krlock _ => none
  | .clkratReq _ _ => none
  | .suspctlGo => none
  | .scrubn _ _ => none
  | .lqdoor _ _ => none
  | .wqdoor _ _ => none
  | .notifyApertureWrite _ => none
  | .hbeat _ _ => none
  | .ownerWrite _ _ => none
  | .registerWrite _ _ => none
  | .linkRetrainingEnd _ _ => none
  | .flitRetry _ => none
  | .patrolRead _ _ => none
  | .partitionStart _ _ => none

/-- An instruction is well formed when nothing is wrong with its fields. -/
def Instr.wellFormed (i : Instr) : Bool := i.problem.isNone

end Sys2Proof
end

