-- ==== Sys2Proof/Decode.lean ====
section
/-! DEFINITION. The decoder, total on any parcels, and the encoder (R123 to R140).

A word is a natural number whose bit 0 is LEN, the least significant bit of the first parcel. Fields are read by
position with `fld`; a field that a format or an operation reserves must be 0 (R5, R142). -/
namespace Sys2Proof

/-- Bits [lo + k - 1 : lo] of a word. -/
def fld (w lo k : Nat) : Nat := w / 2 ^ lo % 2 ^ k

/-- A field as an index below `2 ^ k`. -/
def fin3 (w lo : Nat) : Fin 8 := Fin.ofNat 8 (w / 2 ^ lo)
/-- A four-bit field. -/
def fin4 (w lo : Nat) : Fin 16 := Fin.ofNat 16 (w / 2 ^ lo)
/-- A six-bit field. -/
def fin6 (w lo : Nat) : Fin 64 := Fin.ofNat 64 (w / 2 ^ lo)
/-- A seven-bit field. -/
def fin7 (w lo : Nat) : Fin 128 := Fin.ofNat 128 (w / 2 ^ lo)
/-- A one-bit field. -/
def bitAt (w lo : Nat) : Bool := w / 2 ^ lo % 2 = 1
/-- A bit as a number. -/
def b01 (b : Bool) : Nat := if b then 1 else 0

/-- STALL, bits [3:1] (R124). -/
def stallOf (w : Nat) : Fin 8 := fin3 w 1
/-- OP, bits [12:6] (R124). -/
def opOf (w : Nat) : Nat := fld w 6 7

/-- D of U, UX, UM and CC: [25], [18:13] (R128). -/
def dU (w : Nat) : Fin 128 := Fin.ofNat 128 (fld w 25 1 * 64 + fld w 13 6)
/-- A of U, UX, UM and CC: [26], [24:19]. -/
def aU (w : Nat) : Fin 128 := Fin.ofNat 128 (fld w 26 1 * 64 + fld w 19 6)
/-- B, SUB or IMM of U, UX, UM and CC: [31:27], [5:4]. -/
def bU (w : Nat) : Nat := fld w 27 5 * 4 + fld w 4 2

/-- A mixed field's value (R127). -/
def mixedOf (x : Nat) : Mixed := if x % 128 < 64 then .v (Fin.ofNat 64 x) else .s (Fin.ofNat 64 (x - 64))
/-- The number of a mixed field. -/
def mixedNum : Mixed → Nat
  | .v r => r.val
  | .s r => 64 + r.val

/-- SC (R132). -/
def scopeOf (x : Nat) : Option Scope :=
  match x with
  | 0 => some .thr | 1 => some .grp | 2 => some .team | 3 => some .core
  | 4 => some .die | 5 => some .dev | 6 => some .sys | _ => none
/-- The number of a scope. -/
def scopeNum : Scope → Nat
  | .thr => 0 | .grp => 1 | .team => 2 | .core => 3 | .die => 4 | .dev => 5 | .sys => 6
/-- ORD (R132). -/
def ordOf (x : Nat) : MemOrd :=
  match x with
  | 0 => .rlx | 1 => .acq | 2 => .rel | _ => .ar
/-- The number of an ordering. -/
def ordNum : MemOrd → Nat
  | .rlx => 0 | .acq => 1 | .rel => 2 | .ar => 3
/-- The number of a fence's ordering. -/
def fenceNum : FenceOrd → Nat
  | .acq => 1 | .rel => 2 | .ar => 3
/-- AOP (R132). -/
def aopOf (x : Nat) : Option Aop :=
  match x with
  | 0 => some .addN32 | 1 => some .minI32 | 2 => some .minN32 | 3 => some .maxI32 | 4 => some .maxN32
  | 5 => some .and | 6 => some .or | 7 => some .xor | 8 => some .exch | 9 => some .cas | 10 => some .addF32 | _ => none
/-- The number of an atomic operation. -/
def aopNum : Aop → Nat
  | .addN32 => 0 | .minI32 => 1 | .minN32 => 2 | .maxI32 => 3 | .maxN32 => 4
  | .and => 5 | .or => 6 | .xor => 7 | .exch => 8 | .cas => 9 | .addF32 => 10
/-- CND of ICMP (R138). -/
def icndOf (x : Nat) : Option ICnd :=
  match x with
  | 0 => some .eq | 1 => some .ne | 2 => some .lt | 3 => some .le | 4 => some .gt | 5 => some .ge | _ => none
/-- The number of an ICMP condition. -/
def icndNum : ICnd → Nat
  | .eq => 0 | .ne => 1 | .lt => 2 | .le => 3 | .gt => 4 | .ge => 5
/-- CND of FCMP (R138). -/
def fcndOf (x : Nat) : FCnd :=
  match x with
  | 0 => .eq | 1 => .ne | 2 => .lt | 3 => .le | 4 => .gt | 5 => .ge | 6 => .un | _ => .or
/-- The number of an FCMP condition. -/
def fcndNum : FCnd → Nat
  | .eq => 0 | .ne => 1 | .lt => 2 | .le => 3 | .gt => 4 | .ge => 5 | .un => 6 | .or => 7
/-- A rounding mode written in the instruction (R138). -/
def rmodeOf (x : Nat) : RMode :=
  match x with
  | 0 => .rn | 1 => .rz | 2 => .rp | _ => .rm
/-- The number of a rounding mode. -/
def rmodeNum : RMode → Nat
  | .rn => 0 | .rz => 1 | .rp => 2 | .rm => 3

/-- An instruction whose reserved fields must all read 0. -/
def ifZero (reserved : Nat) (i : Instr) : Except Illegal Instr :=
  if reserved = 0 then .ok i else .error .reservedField

/-- KD, which must not name K7 (R54, R131). -/
def withKd (w : Nat) (k : Fin 7 → Except Illegal Instr) : Except Illegal Instr :=
  if h : fld w 16 3 < 7 then k ⟨fld w 16 3, h⟩ else .error .maskK7

/-- SC at a position, which must not be the reserved value. -/
def withScope (x : Nat) (k : Scope → Except Illegal Instr) : Except Illegal Instr :=
  match scopeOf x with
  | some sc => k sc
  | none => .error .reservedField

/-- AOP at [31:28], which must not be a reserved value. -/
def withAop (w : Nat) (k : Aop → Except Illegal Instr) : Except Illegal Instr :=
  match aopOf (fld w 28 4) with
  | some a => k a
  | none => .error .reservedField

/-- Format L (R128). -/
def decL (w : Nat) (k : Fin 64 → Fin 64 → Mixed → Bool → Bool → Fin 8 → Instr) : Except Illegal Instr :=
  .ok (k (fin6 w 13) (fin6 w 19) (mixedOf (fld w 25 7)) (bitAt w 5) (bitAt w 4) (stallOf w))

/-- Format U (R128). -/
def decU (w : Nat) (k : Fin 128 → Fin 128 → Fin 128 → Fin 8 → Instr) : Except Illegal Instr :=
  .ok (k (dU w) (aU w) (Fin.ofNat 128 (bU w)) (stallOf w))

/-- Format W: D [31:25], IMM {[24:13], [5:4]}. -/
def decW (w : Nat) (k : Fin 128 → BitVec 14 → Fin 8 → Instr) : Except Illegal Instr :=
  .ok (k (fin7 w 25) (BitVec.ofNat 14 (fld w 13 12 * 4 + fld w 4 2)) (stallOf w))

/-- Format UM: U with a signed immediate for B. -/
def decUM (w : Nat) (k : Fin 128 → Fin 128 → BitVec 7 → Fin 8 → Instr) : Except Illegal Instr :=
  .ok (k (dU w) (aU w) (BitVec.ofNat 7 (bU w)) (stallOf w))

/-- A lane destination of UX: D[6] must be 0 (R131). -/
def uxLane (w : Nat) (k : Fin 64 → Instr) : Except Illegal Instr :=
  if fld w 25 1 = 0 then .ok (k (fin6 w 13)) else .error .alignment

/-- An axis of TEAM and GRID, 0 to 2 (R135). -/
def uxAxis (w : Nat) (k : Fin 3 → Except Illegal Instr) : Except Illegal Instr :=
  if h : (aU w).val < 3 then k ⟨(aU w).val, h⟩ else .error .reservedField

/-- The uniform extended group, OP 0x0F (R135). -/
def decUX (w : Nat) : Except Illegal Instr :=
  let d := dU w
  let a := aU w
  let st := stallOf w
  match bU w with
  | 0x00 => .ok (.smov d a st)
  | 0x01 => .ok (.spopc d a st)
  | 0x02 => .ok (.sclz d a st)
  | 0x08 => .ok (.setwReg d a st)
  | 0x09 => .ok (.setwImm d (BitVec.ofNat 7 a.val) st)
  | 0x0A => ifZero a.val (.getw d st)
  | 0x10 => if a.val = 0 then uxLane w (fun v => .tid v st) else .error .reservedField
  | 0x11 => if a.val = 0 then uxLane w (fun v => .hlane v st) else .error .reservedField
  | 0x12 => if a.val = 0 then uxLane w (fun v => .rank v st) else .error .reservedField
  | 0x13 => uxAxis w (fun x => uxLane w (fun v => .team v x st))
  | 0x14 => uxAxis w (fun x => .ok (.grid d x st))
  | 0x15 => ifZero a.val (.gid d st)
  | 0x16 => ifZero a.val (.core d st)
  | 0x17 => ifZero a.val (.die d st)
  | 0x18 => ifZero a.val (.cyc d st)
  | 0x19 => ifZero a.val (.reft d st)
  | 0x1A => ifZero a.val (.xfrd d st)
  | 0x1B => ifZero (d.val + fld w 26 1) (.xfclr (BitVec.ofNat 6 (fld w 19 6)) st)
  | _ => .error .unassignedSub

/-- The record group, OP 0x68 (R136). -/
def decRecord (w : Nat) : Except Illegal Instr :=
  let d := dU w
  let a := aU w
  let st := stallOf w
  match bU w with
  | 0 => .ok (.wqpop d a st)
  | 1 => .ok (.wqpush d a st)
  | 2 => .ok (.grec d a st)
  | 3 => .ok (.gemit d a st)
  | _ => .error .unassignedSub

/-- The system group, OP 0x17, format PV (R136). -/
def decPV (w : Nat) : Except Illegal Instr :=
  let sel := BitVec.ofNat 10 (fld w 22 10)
  let s := fin6 w 13
  let st := stallOf w
  if fld w 4 2 ≠ 0 then .error .reservedField else
  match fld w 19 3 with
  | 0 => .ok (.crr s sel st)
  | 1 => .ok (.crw s sel st)
  | 2 => ifZero (fld w 22 10) (.xlinv s st)
  | 3 => ifZero (fld w 22 10) (.ctxsv s st)
  | 4 => ifZero (fld w 22 10) (.ctxld s st)
  | 5 => ifZero (fld w 22 10 + s.val) (.eret st)
  | 6 => ifZero (fld w 22 10 + s.val) (.idle st)
  | _ => .error .unassignedSub

/-- The control group, OP 0x1F, format CT (R136). -/
def decCT (w : Nat) : Except Illegal Instr :=
  let imm := fld w 24 8
  let st := stallOf w
  if fld w 16 8 + fld w 4 2 ≠ 0 then .error .reservedField else
  match fld w 13 3 with
  | 0 => ifZero imm (.nop st)
  | 1 => ifZero imm (.rcv st)
  | 2 => ifZero imm (.exit st)
  | 3 => ifZero imm (.ret st)
  | 4 => .ok (.trap (BitVec.ofNat 8 imm) st)
  | 5 => ifZero imm (.brk st)
  | 6 => ifZero imm (.yield st)
  | _ => .error .unassignedSub

/-- The lane unary group, OP 0x37 (R137). -/
def decLU (w : Nat) : Except Illegal Instr :=
  let d := fin6 w 13
  let a := fin6 w 19
  let la := bitAt w 5
  let st := stallOf w
  let r := fld w 4 1
  match fld w 25 7 with
  | 0x00 => ifZero r (.iabs d a la st)
  | 0x01 => ifZero r (.ineg d a la st)
  | 0x02 => ifZero r (.not d a la st)
  | 0x03 => ifZero r (.popc d a la st)
  | 0x04 => ifZero r (.clz d a la st)
  | 0x05 => ifZero r (.brev d a la st)
  | 0x08 => ifZero r (.fabs d a la st)
  | 0x09 => ifZero r (.fneg d a la st)
  | 0x0A => ifZero r (.fclass d a la st)
  | 0x0C => ifZero r (.frndRn d a la st)
  | 0x0D => ifZero r (.frndRz d a la st)
  | 0x0E => ifZero r (.frndRp d a la st)
  | 0x0F => ifZero r (.frndRm d a la st)
  | 0x10 => ifZero r (.frcp d a la st)
  | 0x11 => ifZero r (.frsq d a la st)
  | 0x12 => ifZero r (.fsqrt d a la st)
  | 0x13 => ifZero r (.fexp2 d a la st)
  | 0x14 => ifZero r (.flog2 d a la st)
  | 0x15 => ifZero r (.fsin d a la st)
  | 0x16 => ifZero r (.fcos d a la st)
  | _ => .error .unassignedSub

/-- The cross-lane group, OP 0x57 (R137). -/
def decCross (w : Nat) : Except Illegal Instr :=
  let d := fin6 w 13
  let a := fin6 w 19
  let la := bitAt w 5
  let st := stallOf w
  let r := fld w 4 1
  match fld w 25 7 with
  | 0x00 => ifZero r (.redaddN32 d a la st)
  | 0x01 => ifZero r (.redaddF32 d a la st)
  | 0x02 => ifZero r (.redminI32 d a la st)
  | 0x03 => ifZero r (.redminN32 d a la st)
  | 0x04 => ifZero r (.redminF32 d a la st)
  | 0x05 => ifZero r (.redmaxI32 d a la st)
  | 0x06 => ifZero r (.redmaxN32 d a la st)
  | 0x07 => ifZero r (.redmaxF32 d a la st)
  | 0x08 => ifZero r (.scanaddN32 d a la st)
  | 0x09 => ifZero r (.scanaddF32 d a la st)
  | 0x0A => ifZero r (.scanaddN32Exc d a la st)
  | 0x0B => ifZero r (.scanaddF32Exc d a la st)
  | 0x10 => ifZero r (.matchV d a la st)
  | _ => .error .unassignedSub

/-- Formats LS and LK: selects and compares, OP 0x38 to 0x3D (R138). -/
def decSelect (w : Nat) (k : Fin 64 → Fin 8 → Mixed → Bool → Fin 8 → Instr) : Except Illegal Instr :=
  ifZero (fld w 19 3 + fld w 5 1) (k (fin6 w 13) (fin3 w 22) (mixedOf (fld w 25 7)) (bitAt w 4) (stallOf w))

/-- ICMP: CND 6 and 7 are reserved. -/
def decICmp (w : Nat) (k : Fin 7 → ICnd → Fin 64 → Mixed → Bool → Bool → Fin 8 → Instr) : Except Illegal Instr :=
  match icndOf (fld w 13 3) with
  | none => .error .reservedField
  | some c => withKd w (fun kd =>
      .ok (k kd c (fin6 w 19) (mixedOf (fld w 25 7)) (bitAt w 5) (bitAt w 4) (stallOf w)))

/-- The mask group, OP 0x3E, format KM (R138). -/
def decKM (w : Nat) : Except Illegal Instr :=
  let sd := fin7 w 25
  let ka := fin3 w 22
  let kb := fin3 w 19
  let st := stallOf w
  if fld w 4 2 ≠ 0 then .error .reservedField else
  match fld w 13 3 with
  | 0 => withKd w (fun kd => ifZero sd.val (.kand kd ka kb st))
  | 1 => withKd w (fun kd => ifZero sd.val (.kor kd ka kb st))
  | 2 => withKd w (fun kd => ifZero sd.val (.kxor kd ka kb st))
  | 3 => withKd w (fun kd => ifZero (sd.val + kb.val) (.knot kd ka st))
  | 4 => withKd w (fun kd => ifZero (sd.val + kb.val) (.kmov kd ka st))
  | 5 => ifZero (kb.val + fld w 16 3) (.kpopc sd ka st)
  | _ => .error .unassignedSub

/-- CVT (R138, R210): MODE 0 narrows, 1 widens, SEL is 0. -/
def decCvt (w : Nat) : Except Illegal Instr :=
  let fs := fin3 w 29
  let d := fin6 w 13
  let a := fin6 w 19
  let la := bitAt w 5
  let st := stallOf w
  let r := fld w 25 2 + fld w 4 1
  match fld w 27 2 with
  | 0 => ifZero r (.cvtNarrow fs d a la st)
  | 1 => ifZero r (.cvtWiden fs d a la st)
  | _ => .error .reservedField

/-- CVTI and CVTF: FS and SEL[1] are 0. -/
def decCvtInt (w : Nat) (k : RMode → Bool → Fin 64 → Fin 64 → Bool → Fin 8 → Instr) : Except Illegal Instr :=
  ifZero (fld w 29 3 + fld w 26 1 + fld w 4 1)
    (k (rmodeOf (fld w 27 2)) (bitAt w 25) (fin6 w 13) (fin6 w 19) (bitAt w 5) (stallOf w))

/-- PK8 and UPK8: MODE is 0, SEL is the byte index. -/
def decPk8 (w : Nat) (k : Fin 8 → Fin 4 → Fin 64 → Fin 64 → Bool → Fin 8 → Instr) : Except Illegal Instr :=
  ifZero (fld w 27 2 + fld w 4 1)
    (k (fin3 w 29) (Fin.ofNat 4 (w / 2 ^ 25)) (fin6 w 13) (fin6 w 19) (bitAt w 5) (stallOf w))

/-- PK4 and UPK4: [28] is 0, [27:25] is the nibble index. -/
def decPk4 (w : Nat) (k : Fin 8 → Fin 8 → Fin 64 → Fin 64 → Bool → Fin 8 → Instr) : Except Illegal Instr :=
  ifZero (fld w 28 1 + fld w 4 1)
    (k (fin3 w 29) (fin3 w 25) (fin6 w 13) (fin6 w 19) (bitAt w 5) (stallOf w))

/-- Formats PM, PA: pool memory (R128, R134). -/
def decPool (w op : Nat) : Except Illegal Instr :=
  let d := fin6 w 13
  let a := fin6 w 19
  let la := bitAt w 5
  let ld := bitAt w 4
  let st := stallOf w
  match op with
  | 0x58 => ifZero (fld w 4 1) (.pld d a (BitVec.ofNat 7 (fld w 25 7)) la st)
  | 0x59 => .ok (.pst d a (BitVec.ofNat 7 (fld w 25 7)) la ld st)
  | 0x5A => ifZero (fld w 4 1) (.pldw (bitAt w 31) d a (BitVec.ofNat 6 (fld w 25 6)) la st)
  | 0x5B => .ok (.pstw (bitAt w 31) d a (BitVec.ofNat 6 (fld w 25 6)) la ld st)
  | _ => withAop w (fun aop => ifZero (fld w 25 1 + fld w 4 1) (.patom aop (ordOf (fld w 26 2)) d a la st))

/-- The synchronisation group, OP 0x5D, format SN (R139). -/
def decSN (w : Nat) : Except Illegal Instr :=
  let id := fin6 w 22
  let sa := fin6 w 16
  let sc := fld w 13 3
  let ord := fld w 4 2
  let st := stallOf w
  let bar (k : Fin 16 → Instr) (r : Nat) : Except Illegal Instr :=
    if fld w 26 2 = 0 then ifZero r (k (fin4 w 22)) else .error .alignment
  match fld w 28 4 with
  | 0 => bar (fun b => .bar b st) (sa.val + sc + ord)
  | 1 => bar (fun b => .bara b st) (sa.val + sc + ord)
  | 2 => bar (fun b => .bard b st) (sa.val + sc + ord)
  | 3 => bar (fun b => .barw b sa st) (sc + ord)
  | 4 => bar (fun b => .barx b sa st) (sc + ord)
  | 5 => ifZero (sa.val + sc + ord) (.fset id st)
  | 6 => ifZero (sa.val + sc + ord) (.fclr id st)
  | 7 => ifZero (sa.val + sc + ord) (.fwait id st)
  | 8 => withScope sc (fun s =>
      match ord with
      | 1 => ifZero (id.val + sa.val) (.fence .acq s st)
      | 2 => ifZero (id.val + sa.val) (.fence .rel s st)
      | 3 => ifZero (id.val + sa.val) (.fence .ar s st)
      | _ => .error .reservedField)
  | 9 => ifZero (id.val + sa.val + sc + ord) (.xfence st)
  | _ => .error .unassignedSub

/-- Queue memory and control, OP 0x60 to 0x63 (R128, R134, R140). -/
def decQueue (w op : Nat) : Except Illegal Instr :=
  let q := fin3 w 29
  let d := fin6 w 13
  let a := fin6 w 19
  let ob := bitAt w 25
  let la := bitAt w 5
  let ld := bitAt w 4
  let st := stallOf w
  match op with
  | 0x60 => withScope (fld w 26 3) (fun s => ifZero (d.val + fld w 4 1) (.qld q ob s a la st))
  | 0x61 => withScope (fld w 26 3) (fun s => .ok (.qst q ob s a d la ld st))
  | 0x62 => ifZero (fld w 25 4 + d.val + fld w 4 1) (.qpf q a la st)
  | _ =>
    match fld w 4 2 with
    | 0 => ifZero (fld w 19 10) (.qpop d q st)
    | 1 => ifZero (fld w 13 10) (.qwait q (fin6 w 23) st)
    | _ => .error .unassignedSub

/-- Queue atomics, OP 0x78 to 0x7F, format QA (R128). -/
def decQA (w : Nat) : Except Illegal Instr :=
  withAop w (fun aop => withScope (fld w 25 3) (fun s =>
    .ok (.qatom aop (ordOf (fld w 4 2)) s (fin3 w 6) (fin6 w 19) (fin6 w 13) (stallOf w))))

/-- Per-thread copies, format CP. -/
def decCP (w : Nat) (k : Fin 64 → Fin 64 → Fin 128 → Bool → Fin 8 → Instr) : Except Illegal Instr :=
  ifZero (fld w 4 1) (k (fin6 w 13) (fin6 w 19) (fin7 w 25) (bitAt w 5) (stallOf w))

/-- The copy-control group, OP 0x67, format CC (R139). -/
def decCC (w : Nat) : Except Illegal Instr :=
  let a := aU w
  let b : Fin 128 := Fin.ofNat 128 (bU w)
  let st := stallOf w
  if fld w 25 1 ≠ 0 then .error .reservedField else
  match fld w 13 3 with
  | 0 => ifZero (a.val + fld w 16 3) (.cseal b st)
  | 1 => withScope (fld w 16 3) (fun s => .ok (.cbulk s a b st))
  | 2 => withScope (fld w 16 3) (fun s => .ok (.cntadd s a b st))
  | 3 => withScope (fld w 16 3) (fun s => .ok (.cntwait s a b st))
  | 4 => withScope (fld w 16 3) (fun s => .ok (.rput s a b st))
  | 5 => ifZero (fld w 16 3) (.rget a b st)
  | _ => .error .unassignedSub

/-- The matrix group, OP 0x69, format MX (R140, R254). -/
def decMX (w : Nat) : Except Illegal Instr :=
  let tx := fin4 w 28
  let ty := fin4 w 24
  let a := fin7 w 17
  let aux := fld w 4 2
  let st := stallOf w
  match fld w 13 4 with
  | 0x0 => ifZero (ty.val + aux) (.tcfg tx a st)
  | 0x1 => ifZero (ty.val + aux) (.tld tx a st)
  | 0x2 => ifZero (ty.val + aux) (.tst tx a st)
  | 0x3 => ifZero (ty.val + a.val + aux) (.tzero tx st)
  | 0x4 => ifZero (a.val + aux) (.ttrn tx ty st)
  | 0x5 => ifZero (tx.val + ty.val + aux) (.scld a st)
  | 0x6 => ifZero aux (.mma tx ty a st)
  | 0x7 => ifZero aux (.mmas tx ty a st)
  | 0x8 => ifZero (tx.val + ty.val + aux) (.accz a st)
  | 0x9 => ifZero (tx.val + ty.val + aux) (.accld a st)
  | 0xA => ifZero (tx.val + fld w 27 1 + aux) (.accst (fin3 w 24) a st)
  | 0xB => ifZero (tx.val + ty.val + fld w 5 1) (.mfrd a (bitAt w 4) st)
  | 0xC => ifZero (tx.val + ty.val + fld w 5 1) (.fork a (bitAt w 4) st)
  | 0xD => ifZero (tx.val + ty.val + a.val + aux) (.rdv st)
  | 0xE => ifZero (tx.val + ty.val + a.val + aux) (.mend st)
  | _ => .error .unassignedSub

/-- The fields of a 32-bit word, by major opcode (R134), before the checks of `Instr.problem`. -/
def decodeFields (w : Nat) : Except Illegal Instr :=
  let st := stallOf w
  match opOf w with
  | 0x01 => decU w .sadd | 0x02 => decU w .ssub | 0x03 => decU w .smul | 0x04 => decU w .smulh
  | 0x05 => decU w .sand | 0x06 => decU w .sor | 0x07 => decU w .sxor | 0x08 => decU w .sshl
  | 0x09 => decU w .sshr | 0x0A => decU w .ssra | 0x0B => decU w .sminI64 | 0x0C => decU w .smaxI64
  | 0x0D => decU w .scmp | 0x0E => decU w .ssel
  | 0x0F => decUX w
  | 0x10 => decW w .sli | 0x11 => decW w .slih
  | 0x12 => decUM w .sld | 0x13 => decUM w .sst
  | 0x14 => if fld w 26 1 = 0 then .ok (.srdl (dU w) (fin6 w 19) (Fin.ofNat 128 (bU w)) st) else .error .reservedField
  | 0x15 => decU w .sminN64 | 0x16 => decU w .smaxN64
  | 0x17 => decPV w
  | 0x18 => ifZero (fld w 4 1) (.brc (BitVec.ofNat 16 (fld w 16 16)) (fin3 w 13) (bitAt w 5) st)
  | 0x19 => ifZero (fld w 4 1) (.bru (BitVec.ofNat 13 (fld w 19 13)) (fin6 w 13) (bitAt w 5) st)
  | 0x1A => ifZero (fld w 4 1) (.brm (BitVec.ofNat 16 (fld w 16 16)) (fin3 w 13) (bitAt w 5) st)
  | 0x1B => .ok (.brb (BitVec.ofNat 12 (fld w 20 12)) (fin3 w 17) (Fin.ofNat 64 (fld w 4 2 * 16 + fld w 13 4)) st)
  | 0x1C => ifZero (fld w 17 15) (.lenter (Fin.ofNat 64 (fld w 4 2 * 16 + fld w 13 4)) st)
  | 0x1D => .ok (.call (BitVec.ofNat 21 (fld w 13 19 * 4 + fld w 4 2)) st)
  | 0x1E => ifZero (fld w 25 7 + fld w 13 6 + fld w 4 1) (.calli (fin6 w 19) (bitAt w 5) st)
  | 0x1F => decCT w
  | 0x20 => decL w .iadd | 0x21 => decL w .isub | 0x22 => decL w .imul | 0x23 => decL w .imulhI32
  | 0x24 => decL w .imulhN32 | 0x25 => decL w .imad | 0x26 => decL w .iadd64 | 0x27 => decL w .lea
  | 0x28 => decL w .iminI32 | 0x29 => decL w .iminN32 | 0x2A => decL w .imaxI32 | 0x2B => decL w .imaxN32
  | 0x2C => decL w .and | 0x2D => decL w .or | 0x2E => decL w .xor
  | 0x2F => ifZero (fld w 19 6 + fld w 5 1) (.mov (fin6 w 13) (mixedOf (fld w 25 7)) (bitAt w 4) st)
  | 0x30 => decL w .shl | 0x31 => decL w .shr | 0x32 => decL w .sra | 0x33 => decL w .rot
  | 0x34 => decL w .bfeI32 | 0x35 => decL w .bfeN32 | 0x36 => decL w .bfi
  | 0x37 => decLU w
  | 0x38 => decSelect w .isel | 0x39 => decSelect w .fsel
  | 0x3A => decICmp w .icmpI32 | 0x3B => decICmp w .icmpN32
  | 0x3C => withKd w (fun kd => .ok (.fcmp kd (fcndOf (fld w 13 3)) (fin6 w 19) (mixedOf (fld w 25 7))
      (bitAt w 5) (bitAt w 4) st))
  | 0x3D => withKd w (fun kd => ifZero (fld w 25 7 + fld w 13 3 + fld w 4 1) (.vote kd (fin6 w 19) (bitAt w 5) st))
  | 0x3E => decKM w
  | 0x40 => decL w .fadd | 0x41 => decL w .fsub | 0x42 => decL w .fmul | 0x43 => decL w .ffma
  | 0x44 => decL w .fmin | 0x45 => decL w .fmax | 0x46 => decL w .fdiv
  | 0x48 => decL w .hadd2 | 0x49 => decL w .hmul2 | 0x4A => decL w .hfma2
  | 0x4B => decCvt w
  | 0x4C => decCvtInt w .cvti | 0x4D => decCvtInt w .cvtf
  | 0x4E => decPk8 w .pk8 | 0x4F => decPk8 w .upk8
  | 0x50 => decPk4 w .pk4 | 0x51 => decPk4 w .upk4
  | 0x52 => decL w .shfl | 0x53 => decL w .shflup | 0x54 => decL w .shfldn | 0x55 => decL w .shflx
  | 0x56 => decL w .bcast
  | 0x57 => decCross w
  | 0x58 => decPool w 0x58 | 0x59 => decPool w 0x59 | 0x5A => decPool w 0x5A | 0x5B => decPool w 0x5B
  | 0x5C => decPool w 0x5C
  | 0x5D => decSN w
  | 0x60 => decQueue w 0x60 | 0x61 => decQueue w 0x61 | 0x62 => decQueue w 0x62 | 0x63 => decQueue w 0x63
  | 0x64 => decCP w .cpy | 0x65 => decCP w .cpyg | 0x66 => decCP w .cpys
  | 0x67 => decCC w
  | 0x68 => decRecord w
  | 0x69 => decMX w
  | 0x78 => decQA w | 0x79 => decQA w | 0x7A => decQA w | 0x7B => decQA w
  | 0x7C => decQA w | 0x7D => decQA w | 0x7E => decQA w | 0x7F => decQA w
  | _ => .error .unassignedOp

/-- A 32-bit instruction, rejected by name where R142 makes it none. [DEDUCED, log 43] -/
def decode32 (w : Nat) : Except Illegal Instr :=
  match decodeFields w with
  | .error e => .error e
  | .ok i =>
    match i.problem with
    | none => .ok i
    | some e => .error e

/-- A compact instruction: LAST [15], A [14:10], D [9:5], COP [4:1] (R133). Every parcel is one. -/
def decode16 (p : Nat) : Instr :=
  let d : Fin 32 := Fin.ofNat 32 (p / 2 ^ 5)
  let a : Fin 32 := Fin.ofNat 32 (p / 2 ^ 10)
  let l := bitAt p 15
  match fld p 1 4 with
  | 0x0 => .movCompact d a l
  | 0x1 => .iaddCompact d a l
  | 0x2 => .isubCompact d a l
  | 0x3 => .imulCompact d a l
  | 0x4 => .andCompact d a l
  | 0x5 => .orCompact d a l
  | 0x6 => .xorCompact d a l
  | 0x7 => .shlCompact d a l
  | 0x8 => .shrCompact d a l
  | 0x9 => .sraCompact d a l
  | 0xA => .faddCompact d a l
  | 0xB => .fsubCompact d a l
  | 0xC => .fmulCompact d a l
  | 0xD => .fminCompact d a l
  | 0xE => .fmaxCompact d a l
  | _ => .leaCompact d a l

/-- An encoded instruction: `wide` says two parcels, `bits` is the word or the parcel. -/
structure Code where
  wide : Bool
  bits : Nat
  deriving DecidableEq, Repr

/-- The instruction at the head of a list of bytes and its length in bytes (R123). A first parcel with LEN = 1 and no
second parcel straddles the end of its section. -/
def decodeBytes (bs : List Byte) : Except Illegal (Instr × Nat) :=
  match bs with
  | b0 :: b1 :: rest =>
    let p0 := b0.toNat + 256 * b1.toNat
    if p0 % 2 = 0 then .ok (decode16 p0, 2)
    else match rest with
      | b2 :: b3 :: _ =>
        match decode32 (p0 + 65536 * (b2.toNat + 256 * b3.toNat)) with
        | .ok i => .ok (i, 4)
        | .error e => .error e
      | _ => .error .straddle
  | _ => .error .straddle

/-- The instruction of a code. -/
def decodeCode (c : Code) : Except Illegal Instr :=
  if c.wide then decode32 c.bits else .ok (decode16 c.bits)

/-- The bytes of a code, each parcel little-endian, the first parcel at the lower address (R123). -/
def Code.bytes (c : Code) : List Byte :=
  if c.wide then [BitVec.ofNat 8 c.bits, BitVec.ofNat 8 (c.bits / 2 ^ 8), BitVec.ofNat 8 (c.bits / 2 ^ 16),
    BitVec.ofNat 8 (c.bits / 2 ^ 24)]
  else [BitVec.ofNat 8 c.bits, BitVec.ofNat 8 (c.bits / 2 ^ 8)]

/-- What the decoder reads from an instruction whose bits are `w`, numbered as the table numbers them: the bits are
laid out as parcels in memory (two bytes when `nbits` is 16, four otherwise) and given to `decodeBytes`. -/
def decodeTableWord (nbits w : Nat) : Option Instr :=
  match decodeBytes (if nbits ≤ 16 then (Code.mk false w).bytes else (Code.mk true w).bytes) with
  | .ok (i, _) => some i
  | .error _ => none

/-! ### The encoder -/

/-- Format L: B [31:25], A [24:19], D [18:13], OP, LA [5], LB [4], STALL (R128). -/
def encL (op b a d la lb st : Nat) : Nat :=
  b * 2 ^ 25 + a * 2 ^ 19 + d * 2 ^ 13 + op * 2 ^ 6 + la * 2 ^ 5 + lb * 2 ^ 4 + st * 2 + 1
/-- Formats U, UX, UM and CC: the split fields B, A and D. -/
def encU (op b a d st : Nat) : Nat :=
  b / 4 * 2 ^ 27 + a / 64 * 2 ^ 26 + d / 64 * 2 ^ 25 + a % 64 * 2 ^ 19 + d % 64 * 2 ^ 13 + op * 2 ^ 6 + b % 4 * 2 ^ 4 +
    st * 2 + 1
/-- Format W: D [31:25], IMM[13:2] [24:13], IMM[1:0] [5:4]. -/
def encW (op d imm st : Nat) : Nat := d * 2 ^ 25 + imm / 4 * 2 ^ 13 + op * 2 ^ 6 + imm % 4 * 2 ^ 4 + st * 2 + 1
/-- Format KM: SD, KA, KB, KD, SUB. -/
def encKM (sd ka kb kd sub st : Nat) : Nat :=
  sd * 2 ^ 25 + ka * 2 ^ 22 + kb * 2 ^ 19 + kd * 2 ^ 16 + sub * 2 ^ 13 + 0x3E * 2 ^ 6 + st * 2 + 1
/-- Format LK: B, A, KD, CND, LA, LB. -/
def encLK (op b a kd cnd la lb st : Nat) : Nat :=
  b * 2 ^ 25 + a * 2 ^ 19 + kd * 2 ^ 16 + cnd * 2 ^ 13 + op * 2 ^ 6 + la * 2 ^ 5 + lb * 2 ^ 4 + st * 2 + 1
/-- Format LV: FS [31:29], MODE [28:27], SEL [26:25], A, D, LA. -/
def encLV (op fs mode sel a d la st : Nat) : Nat :=
  fs * 2 ^ 29 + mode * 2 ^ 27 + sel * 2 ^ 25 + a * 2 ^ 19 + d * 2 ^ 13 + op * 2 ^ 6 + la * 2 ^ 5 + st * 2 + 1
/-- Formats BR and BU: OFF, K or S, NEG. -/
def encBR (op off k neg st : Nat) : Nat := off * 2 ^ 16 + k * 2 ^ 13 + op * 2 ^ 6 + neg * 2 ^ 5 + st * 2 + 1
/-- Format BU. -/
def encBU (off s neg st : Nat) : Nat := off * 2 ^ 19 + s * 2 ^ 13 + 0x19 * 2 ^ 6 + neg * 2 ^ 5 + st * 2 + 1
/-- Format LP: OFF [31:20], K [19:17], LID[3:0] [16:13], LID[5:4] [5:4]. -/
def encLP (op off k lid st : Nat) : Nat :=
  off * 2 ^ 20 + k * 2 ^ 17 + lid % 16 * 2 ^ 13 + op * 2 ^ 6 + lid / 16 * 2 ^ 4 + st * 2 + 1
/-- Format CL: OFF[20:2] [31:13], OFF[1:0] [5:4]. -/
def encCL (off st : Nat) : Nat := off / 4 * 2 ^ 13 + 0x1D * 2 ^ 6 + off % 4 * 2 ^ 4 + st * 2 + 1
/-- Format CT: IMM [31:24], SUB [15:13]. -/
def encCT (imm sub st : Nat) : Nat := imm * 2 ^ 24 + sub * 2 ^ 13 + 0x1F * 2 ^ 6 + st * 2 + 1
/-- Format PV: SEL [31:22], SUB [21:19], S [18:13]. -/
def encPV (sel sub s st : Nat) : Nat := sel * 2 ^ 22 + sub * 2 ^ 19 + s * 2 ^ 13 + 0x17 * 2 ^ 6 + st * 2 + 1
/-- Format QM: Q [31:29], SC [28:26], OB [25], A, D, LA, LD. -/
def encQM (op q sc ob a d la ld st : Nat) : Nat :=
  q * 2 ^ 29 + sc * 2 ^ 26 + ob * 2 ^ 25 + a * 2 ^ 19 + d * 2 ^ 13 + op * 2 ^ 6 + la * 2 ^ 5 + ld * 2 ^ 4 + st * 2 + 1
/-- Format QC: Q, CNT [28:23], D, SUB [5:4]. -/
def encQC (q cnt d sub st : Nat) : Nat := q * 2 ^ 29 + cnt * 2 ^ 23 + d * 2 ^ 13 + 0x63 * 2 ^ 6 + sub * 2 ^ 4 + st * 2 + 1
/-- Format QA: AOP [31:28], SC [27:25], A, D, queue in OP[2:0], ORD [5:4]. -/
def encQA (aop sc a d q ord st : Nat) : Nat :=
  aop * 2 ^ 28 + sc * 2 ^ 25 + a * 2 ^ 19 + d * 2 ^ 13 + (0x78 + q) * 2 ^ 6 + ord * 2 ^ 4 + st * 2 + 1
/-- Format PA: AOP [31:28], ORD [27:26], A, D, LA. -/
def encPA (aop ord a d la st : Nat) : Nat :=
  aop * 2 ^ 28 + ord * 2 ^ 26 + a * 2 ^ 19 + d * 2 ^ 13 + 0x5C * 2 ^ 6 + la * 2 ^ 5 + st * 2 + 1
/-- Format SN: SUB [31:28], ID [27:22], SA [21:16], SC [15:13], ORD [5:4]. -/
def encSN (sub id sa sc ord st : Nat) : Nat :=
  sub * 2 ^ 28 + id * 2 ^ 22 + sa * 2 ^ 16 + sc * 2 ^ 13 + 0x5D * 2 ^ 6 + ord * 2 ^ 4 + st * 2 + 1
/-- Format CC: B split, A split, SC [18:16], SUB [15:13]. -/
def encCC (b a sc sub st : Nat) : Nat :=
  b / 4 * 2 ^ 27 + a / 64 * 2 ^ 26 + a % 64 * 2 ^ 19 + sc * 2 ^ 16 + sub * 2 ^ 13 + 0x67 * 2 ^ 6 + b % 4 * 2 ^ 4 + st * 2 + 1
/-- Format MX: TX [31:28], TY [27:24], SA [23:17], SUB [16:13], AUX [5:4]. -/
def encMX (tx ty sa sub aux st : Nat) : Nat :=
  tx * 2 ^ 28 + ty * 2 ^ 24 + sa * 2 ^ 17 + sub * 2 ^ 13 + 0x69 * 2 ^ 6 + aux * 2 ^ 4 + st * 2 + 1
/-- A compact parcel: LAST [15], A [14:10], D [9:5], COP [4:1] (R133). -/
def enc16 (cop : Nat) (d a : Fin 32) (l : Bool) : Code := ⟨false, b01 l * 2 ^ 15 + a.val * 2 ^ 10 + d.val * 2 ^ 5 + cop * 2⟩
/-- A 32-bit word. -/
def enc32 (w : Nat) : Code := ⟨true, w⟩

/-- The code of an instruction; events and commands have none. -/
def encode (i : Instr) : Option Code :=
  match i with
  | .sadd d a b st => some (enc32 (encU 0x1 b.val a.val d.val st.val))
  | .ssub d a b st => some (enc32 (encU 0x2 b.val a.val d.val st.val))
  | .smul d a b st => some (enc32 (encU 0x3 b.val a.val d.val st.val))
  | .smulh d a b st => some (enc32 (encU 0x4 b.val a.val d.val st.val))
  | .sand d a b st => some (enc32 (encU 0x5 b.val a.val d.val st.val))
  | .sor d a b st => some (enc32 (encU 0x6 b.val a.val d.val st.val))
  | .sxor d a b st => some (enc32 (encU 0x7 b.val a.val d.val st.val))
  | .sshl d a b st => some (enc32 (encU 0x8 b.val a.val d.val st.val))
  | .sshr d a b st => some (enc32 (encU 0x9 b.val a.val d.val st.val))
  | .ssra d a b st => some (enc32 (encU 0xa b.val a.val d.val st.val))
  | .sminI64 d a b st => some (enc32 (encU 0xb b.val a.val d.val st.val))
  | .smaxI64 d a b st => some (enc32 (encU 0xc b.val a.val d.val st.val))
  | .scmp d a b st => some (enc32 (encU 0xd b.val a.val d.val st.val))
  | .ssel d a b st => some (enc32 (encU 0xe b.val a.val d.val st.val))
  | .sminN64 d a b st => some (enc32 (encU 0x15 b.val a.val d.val st.val))
  | .smaxN64 d a b st => some (enc32 (encU 0x16 b.val a.val d.val st.val))
  | .srdl d a b st => some (enc32 (encU 0x14 b.val a.val d.val st.val))
  | .smov d a st => some (enc32 (encU 0x0F 0x0 a.val d.val st.val))
  | .spopc d a st => some (enc32 (encU 0x0F 0x1 a.val d.val st.val))
  | .sclz d a st => some (enc32 (encU 0x0F 0x2 a.val d.val st.val))
  | .setwReg d a st => some (enc32 (encU 0x0F 0x8 a.val d.val st.val))
  | .setwImm d imm st => some (enc32 (encU 0x0F 0x9 imm.toNat d.val st.val))
  | .getw d st => some (enc32 (encU 0x0F 0xa 0 d.val st.val))
  | .tid d st => some (enc32 (encU 0x0F 0x10 0 d.val st.val))
  | .hlane d st => some (enc32 (encU 0x0F 0x11 0 d.val st.val))
  | .rank d st => some (enc32 (encU 0x0F 0x12 0 d.val st.val))
  | .team d axis st => some (enc32 (encU 0x0F 0x13 axis.val d.val st.val))
  | .grid d axis st => some (enc32 (encU 0x0F 0x14 axis.val d.val st.val))
  | .gid d st => some (enc32 (encU 0x0F 0x15 0 d.val st.val))
  | .core d st => some (enc32 (encU 0x0F 0x16 0 d.val st.val))
  | .die d st => some (enc32 (encU 0x0F 0x17 0 d.val st.val))
  | .cyc d st => some (enc32 (encU 0x0F 0x18 0 d.val st.val))
  | .reft d st => some (enc32 (encU 0x0F 0x19 0 d.val st.val))
  | .xfrd d st => some (enc32 (encU 0x0F 0x1a 0 d.val st.val))
  | .xfclr mask st => some (enc32 (encU 0x0F 0x1b mask.toNat 0 st.val))
  | .sli d imm st => some (enc32 (encW 0x10 d.val imm.toNat st.val))
  | .slih d imm st => some (enc32 (encW 0x11 d.val imm.toNat st.val))
  | .sld d a imm st => some (enc32 (encU 0x12 imm.toNat a.val d.val st.val))
  | .sst d a imm st => some (enc32 (encU 0x13 imm.toNat a.val d.val st.val))
  | .crr s sel st => some (enc32 (encPV sel.toNat 0 s.val st.val))
  | .crw s sel st => some (enc32 (encPV sel.toNat 1 s.val st.val))
  | .xlinv s st => some (enc32 (encPV 0 2 s.val st.val))
  | .ctxsv s st => some (enc32 (encPV 0 3 s.val st.val))
  | .ctxld s st => some (enc32 (encPV 0 4 s.val st.val))
  | .eret st => some (enc32 (encPV 0 5 0 st.val))
  | .idle st => some (enc32 (encPV 0 6 0 st.val))
  | .brc off k neg st => some (enc32 (encBR 0x18 off.toNat k.val (b01 neg) st.val))
  | .bru off s neg st => some (enc32 (encBU off.toNat s.val (b01 neg) st.val))
  | .brm off k neg st => some (enc32 (encBR 0x1a off.toNat k.val (b01 neg) st.val))
  | .brb off k lid st => some (enc32 (encLP 0x1B off.toNat k.val lid.val st.val))
  | .lenter lid st => some (enc32 (encLP 0x1C 0 0 lid.val st.val))
  | .call off st => some (enc32 (encCL off.toNat st.val))
  | .calli a la st => some (enc32 (encL 0x1E 0 a.val 0 (b01 la) 0 st.val))
  | .nop st => some (enc32 (encCT 0 0 st.val))
  | .rcv st => some (enc32 (encCT 0 1 st.val))
  | .exit st => some (enc32 (encCT 0 2 st.val))
  | .ret st => some (enc32 (encCT 0 3 st.val))
  | .trap code st => some (enc32 (encCT code.toNat 4 st.val))
  | .brk st => some (enc32 (encCT 0 5 st.val))
  | .yield st => some (enc32 (encCT 0 6 st.val))
  | .iadd d a b la lb st => some (enc32 (encL 0x20 (mixedNum b) a.val d.val (b01 la) (b01 lb) st.val))
  | .isub d a b la lb st => some (enc32 (encL 0x21 (mixedNum b) a.val d.val (b01 la) (b01 lb) st.val))
  | .imul d a b la lb st => some (enc32 (encL 0x22 (mixedNum b) a.val d.val (b01 la) (b01 lb) st.val))
  | .imulhI32 d a b la lb st => some (enc32 (encL 0x23 (mixedNum b) a.val d.val (b01 la) (b01 lb) st.val))
  | .imulhN32 d a b la lb st => some (enc32 (encL 0x24 (mixedNum b) a.val d.val (b01 la) (b01 lb) st.val))
  | .imad d a b la lb st => some (enc32 (encL 0x25 (mixedNum b) a.val d.val (b01 la) (b01 lb) st.val))
  | .iadd64 d a b la lb st => some (enc32 (encL 0x26 (mixedNum b) a.val d.val (b01 la) (b01 lb) st.val))
  | .lea d a b la lb st => some (enc32 (encL 0x27 (mixedNum b) a.val d.val (b01 la) (b01 lb) st.val))
  | .iminI32 d a b la lb st => some (enc32 (encL 0x28 (mixedNum b) a.val d.val (b01 la) (b01 lb) st.val))
  | .iminN32 d a b la lb st => some (enc32 (encL 0x29 (mixedNum b) a.val d.val (b01 la) (b01 lb) st.val))
  | .imaxI32 d a b la lb st => some (enc32 (encL 0x2a (mixedNum b) a.val d.val (b01 la) (b01 lb) st.val))
  | .imaxN32 d a b la lb st => some (enc32 (encL 0x2b (mixedNum b) a.val d.val (b01 la) (b01 lb) st.val))
  | .and d a b la lb st => some (enc32 (encL 0x2c (mixedNum b) a.val d.val (b01 la) (b01 lb) st.val))
  | .or d a b la lb st => some (enc32 (encL 0x2d (mixedNum b) a.val d.val (b01 la) (b01 lb) st.val))
  | .xor d a b la lb st => some (enc32 (encL 0x2e (mixedNum b) a.val d.val (b01 la) (b01 lb) st.val))
  | .mov d b lb st => some (enc32 (encL 0x2F (mixedNum b) 0 d.val 0 (b01 lb) st.val))
  | .shl d a b la lb st => some (enc32 (encL 0x30 (mixedNum b) a.val d.val (b01 la) (b01 lb) st.val))
  | .shr d a b la lb st => some (enc32 (encL 0x31 (mixedNum b) a.val d.val (b01 la) (b01 lb) st.val))
  | .sra d a b la lb st => some (enc32 (encL 0x32 (mixedNum b) a.val d.val (b01 la) (b01 lb) st.val))
  | .rot d a b la lb st => some (enc32 (encL 0x33 (mixedNum b) a.val d.val (b01 la) (b01 lb) st.val))
  | .bfeI32 d a b la lb st => some (enc32 (encL 0x34 (mixedNum b) a.val d.val (b01 la) (b01 lb) st.val))
  | .bfeN32 d a b la lb st => some (enc32 (encL 0x35 (mixedNum b) a.val d.val (b01 la) (b01 lb) st.val))
  | .bfi d a b la lb st => some (enc32 (encL 0x36 (mixedNum b) a.val d.val (b01 la) (b01 lb) st.val))
  | .iabs d a la st => some (enc32 (encL 0x37 0x0 a.val d.val (b01 la) 0 st.val))
  | .ineg d a la st => some (enc32 (encL 0x37 0x1 a.val d.val (b01 la) 0 st.val))
  | .not d a la st => some (enc32 (encL 0x37 0x2 a.val d.val (b01 la) 0 st.val))
  | .popc d a la st => some (enc32 (encL 0x37 0x3 a.val d.val (b01 la) 0 st.val))
  | .clz d a la st => some (enc32 (encL 0x37 0x4 a.val d.val (b01 la) 0 st.val))
  | .brev d a la st => some (enc32 (encL 0x37 0x5 a.val d.val (b01 la) 0 st.val))
  | .fabs d a la st => some (enc32 (encL 0x37 0x8 a.val d.val (b01 la) 0 st.val))
  | .fneg d a la st => some (enc32 (encL 0x37 0x9 a.val d.val (b01 la) 0 st.val))
  | .fclass d a la st => some (enc32 (encL 0x37 0xa a.val d.val (b01 la) 0 st.val))
  | .frndRn d a la st => some (enc32 (encL 0x37 0xc a.val d.val (b01 la) 0 st.val))
  | .frndRz d a la st => some (enc32 (encL 0x37 0xd a.val d.val (b01 la) 0 st.val))
  | .frndRp d a la st => some (enc32 (encL 0x37 0xe a.val d.val (b01 la) 0 st.val))
  | .frndRm d a la st => some (enc32 (encL 0x37 0xf a.val d.val (b01 la) 0 st.val))
  | .frcp d a la st => some (enc32 (encL 0x37 0x10 a.val d.val (b01 la) 0 st.val))
  | .frsq d a la st => some (enc32 (encL 0x37 0x11 a.val d.val (b01 la) 0 st.val))
  | .fsqrt d a la st => some (enc32 (encL 0x37 0x12 a.val d.val (b01 la) 0 st.val))
  | .fexp2 d a la st => some (enc32 (encL 0x37 0x13 a.val d.val (b01 la) 0 st.val))
  | .flog2 d a la st => some (enc32 (encL 0x37 0x14 a.val d.val (b01 la) 0 st.val))
  | .fsin d a la st => some (enc32 (encL 0x37 0x15 a.val d.val (b01 la) 0 st.val))
  | .fcos d a la st => some (enc32 (encL 0x37 0x16 a.val d.val (b01 la) 0 st.val))
  | .isel d k b lb st => some (enc32 (encL 0x38 (mixedNum b) (k.val * 8) d.val 0 (b01 lb) st.val))
  | .fsel d k b lb st => some (enc32 (encL 0x39 (mixedNum b) (k.val * 8) d.val 0 (b01 lb) st.val))
  | .icmpI32 kd cnd a b la lb st => some (enc32 (encLK 0x3a (mixedNum b) a.val kd.val (icndNum cnd) (b01 la) (b01 lb) st.val))
  | .icmpN32 kd cnd a b la lb st => some (enc32 (encLK 0x3b (mixedNum b) a.val kd.val (icndNum cnd) (b01 la) (b01 lb) st.val))
  | .fcmp kd cnd a b la lb st => some (enc32 (encLK 0x3c (mixedNum b) a.val kd.val (fcndNum cnd) (b01 la) (b01 lb) st.val))
  | .vote kd a la st => some (enc32 (encLK 0x3d 0 a.val kd.val 0 (b01 la) 0 st.val))
  | .kand kd ka kb st => some (enc32 (encKM 0 ka.val kb.val kd.val 0 st.val))
  | .kor kd ka kb st => some (enc32 (encKM 0 ka.val kb.val kd.val 1 st.val))
  | .kxor kd ka kb st => some (enc32 (encKM 0 ka.val kb.val kd.val 2 st.val))
  | .knot kd ka st => some (enc32 (encKM 0 ka.val 0 kd.val 3 st.val))
  | .kmov kd ka st => some (enc32 (encKM 0 ka.val 0 kd.val 4 st.val))
  | .kpopc sd ka st => some (enc32 (encKM sd.val ka.val 0 0 5 st.val))
  | .fadd d a b la lb st => some (enc32 (encL 0x40 (mixedNum b) a.val d.val (b01 la) (b01 lb) st.val))
  | .fsub d a b la lb st => some (enc32 (encL 0x41 (mixedNum b) a.val d.val (b01 la) (b01 lb) st.val))
  | .fmul d a b la lb st => some (enc32 (encL 0x42 (mixedNum b) a.val d.val (b01 la) (b01 lb) st.val))
  | .ffma d a b la lb st => some (enc32 (encL 0x43 (mixedNum b) a.val d.val (b01 la) (b01 lb) st.val))
  | .fmin d a b la lb st => some (enc32 (encL 0x44 (mixedNum b) a.val d.val (b01 la) (b01 lb) st.val))
  | .fmax d a b la lb st => some (enc32 (encL 0x45 (mixedNum b) a.val d.val (b01 la) (b01 lb) st.val))
  | .fdiv d a b la lb st => some (enc32 (encL 0x46 (mixedNum b) a.val d.val (b01 la) (b01 lb) st.val))
  | .hadd2 d a b la lb st => some (enc32 (encL 0x48 (mixedNum b) a.val d.val (b01 la) (b01 lb) st.val))
  | .hmul2 d a b la lb st => some (enc32 (encL 0x49 (mixedNum b) a.val d.val (b01 la) (b01 lb) st.val))
  | .hfma2 d a b la lb st => some (enc32 (encL 0x4a (mixedNum b) a.val d.val (b01 la) (b01 lb) st.val))
  | .cvtNarrow fs d a la st => some (enc32 (encLV 0x4B fs.val 0 0 a.val d.val (b01 la) st.val))
  | .cvtWiden fs d a la st => some (enc32 (encLV 0x4B fs.val 1 0 a.val d.val (b01 la) st.val))
  | .cvti mode signed d a la st => some (enc32 (encLV 0x4c 0 (rmodeNum mode) (b01 signed) a.val d.val (b01 la) st.val))
  | .cvtf mode signed d a la st => some (enc32 (encLV 0x4d 0 (rmodeNum mode) (b01 signed) a.val d.val (b01 la) st.val))
  | .pk8 fs e d a la st => some (enc32 (encLV 0x4e fs.val 0 e.val a.val d.val (b01 la) st.val))
  | .upk8 fs e d a la st => some (enc32 (encLV 0x4f fs.val 0 e.val a.val d.val (b01 la) st.val))
  | .pk4 fs e d a la st => some (enc32 (encLV 0x50 fs.val (e.val / 4) (e.val % 4) a.val d.val (b01 la) st.val))
  | .upk4 fs e d a la st => some (enc32 (encLV 0x51 fs.val (e.val / 4) (e.val % 4) a.val d.val (b01 la) st.val))
  | .shfl d a b la lb st => some (enc32 (encL 0x52 (mixedNum b) a.val d.val (b01 la) (b01 lb) st.val))
  | .shflup d a b la lb st => some (enc32 (encL 0x53 (mixedNum b) a.val d.val (b01 la) (b01 lb) st.val))
  | .shfldn d a b la lb st => some (enc32 (encL 0x54 (mixedNum b) a.val d.val (b01 la) (b01 lb) st.val))
  | .shflx d a b la lb st => some (enc32 (encL 0x55 (mixedNum b) a.val d.val (b01 la) (b01 lb) st.val))
  | .bcast d a b la lb st => some (enc32 (encL 0x56 (mixedNum b) a.val d.val (b01 la) (b01 lb) st.val))
  | .redaddN32 d a la st => some (enc32 (encL 0x57 0x0 a.val d.val (b01 la) 0 st.val))
  | .redaddF32 d a la st => some (enc32 (encL 0x57 0x1 a.val d.val (b01 la) 0 st.val))
  | .redminI32 d a la st => some (enc32 (encL 0x57 0x2 a.val d.val (b01 la) 0 st.val))
  | .redminN32 d a la st => some (enc32 (encL 0x57 0x3 a.val d.val (b01 la) 0 st.val))
  | .redminF32 d a la st => some (enc32 (encL 0x57 0x4 a.val d.val (b01 la) 0 st.val))
  | .redmaxI32 d a la st => some (enc32 (encL 0x57 0x5 a.val d.val (b01 la) 0 st.val))
  | .redmaxN32 d a la st => some (enc32 (encL 0x57 0x6 a.val d.val (b01 la) 0 st.val))
  | .redmaxF32 d a la st => some (enc32 (encL 0x57 0x7 a.val d.val (b01 la) 0 st.val))
  | .scanaddN32 d a la st => some (enc32 (encL 0x57 0x8 a.val d.val (b01 la) 0 st.val))
  | .scanaddF32 d a la st => some (enc32 (encL 0x57 0x9 a.val d.val (b01 la) 0 st.val))
  | .scanaddN32Exc d a la st => some (enc32 (encL 0x57 0xa a.val d.val (b01 la) 0 st.val))
  | .scanaddF32Exc d a la st => some (enc32 (encL 0x57 0xb a.val d.val (b01 la) 0 st.val))
  | .matchV d a la st => some (enc32 (encL 0x57 0x10 a.val d.val (b01 la) 0 st.val))
  | .pld d a imm la st => some (enc32 (encL 0x58 imm.toNat a.val d.val (b01 la) 0 st.val))
  | .pst d a imm la ld st => some (enc32 (encL 0x59 imm.toNat a.val d.val (b01 la) (b01 ld) st.val))
  | .pldw x4 d a imm la st => some (enc32 (encL 0x5a (b01 x4 * 64 + imm.toNat) a.val d.val (b01 la) 0 st.val))
  | .pstw x4 d a imm la ld st => some (enc32 (encL 0x5b (b01 x4 * 64 + imm.toNat) a.val d.val (b01 la) (b01 ld) st.val))
  | .patom aop ord d a la st => some (enc32 (encPA (aopNum aop) (ordNum ord) a.val d.val (b01 la) st.val))
  | .bar bar st => some (enc32 (encSN 0 bar.val 0 0 0 st.val))
  | .bara bar st => some (enc32 (encSN 1 bar.val 0 0 0 st.val))
  | .bard bar st => some (enc32 (encSN 2 bar.val 0 0 0 st.val))
  | .barw bar s st => some (enc32 (encSN 3 bar.val s.val 0 0 st.val))
  | .barx bar s st => some (enc32 (encSN 4 bar.val s.val 0 0 st.val))
  | .fset flag st => some (enc32 (encSN 5 flag.val 0 0 0 st.val))
  | .fclr flag st => some (enc32 (encSN 6 flag.val 0 0 0 st.val))
  | .fwait flag st => some (enc32 (encSN 7 flag.val 0 0 0 st.val))
  | .fence ord sc st => some (enc32 (encSN 8 0 0 (scopeNum sc) (fenceNum ord) st.val))
  | .xfence st => some (enc32 (encSN 9 0 0 0 0 st.val))
  | .qld q acq sc a la st => some (enc32 (encQM 0x60 q.val (scopeNum sc) (b01 acq) a.val 0 (b01 la) 0 st.val))
  | .qst q rel sc a d la ld st => some (enc32 (encQM 0x61 q.val (scopeNum sc) (b01 rel) a.val d.val (b01 la) (b01 ld) st.val))
  | .qpf q a la st => some (enc32 (encQM 0x62 q.val 0 0 a.val 0 (b01 la) 0 st.val))
  | .qpop d q st => some (enc32 (encQC q.val 0 d.val 0 st.val))
  | .qwait q cnt st => some (enc32 (encQC q.val cnt.val 0 1 st.val))
  | .qatom aop ord sc q a d st => some (enc32 (encQA (aopNum aop) (scopeNum sc) a.val d.val q.val (ordNum ord) st.val))
  | .cpy ds a sb la st => some (enc32 (encL 0x64 sb.val a.val ds.val (b01 la) 0 st.val))
  | .cpyg ds a sb la st => some (enc32 (encL 0x65 sb.val a.val ds.val (b01 la) 0 st.val))
  | .cpys ds a sb la st => some (enc32 (encL 0x66 sb.val a.val ds.val (b01 la) 0 st.val))
  | .cseal b st => some (enc32 (encCC b.val 0 0 0 st.val))
  | .cbulk sc a b st => some (enc32 (encCC b.val a.val (scopeNum sc) 1 st.val))
  | .cntadd sc a b st => some (enc32 (encCC b.val a.val (scopeNum sc) 2 st.val))
  | .cntwait sc a b st => some (enc32 (encCC b.val a.val (scopeNum sc) 3 st.val))
  | .rput sc a b st => some (enc32 (encCC b.val a.val (scopeNum sc) 4 st.val))
  | .rget a b st => some (enc32 (encCC b.val a.val 0 5 st.val))
  | .wqpop d a st => some (enc32 (encU 0x68 0 a.val d.val st.val))
  | .wqpush d a st => some (enc32 (encU 0x68 1 a.val d.val st.val))
  | .grec d a st => some (enc32 (encU 0x68 2 a.val d.val st.val))
  | .gemit d a st => some (enc32 (encU 0x68 3 a.val d.val st.val))
  | .tcfg t a st => some (enc32 (encMX t.val 0 a.val 0 0 st.val))
  | .tld t a st => some (enc32 (encMX t.val 0 a.val 1 0 st.val))
  | .tst t a st => some (enc32 (encMX t.val 0 a.val 2 0 st.val))
  | .tzero t st => some (enc32 (encMX t.val 0 0 3 0 st.val))
  | .ttrn tx ty st => some (enc32 (encMX tx.val ty.val 0 4 0 st.val))
  | .scld a st => some (enc32 (encMX 0 0 a.val 5 0 st.val))
  | .mma tx ty a st => some (enc32 (encMX tx.val ty.val a.val 6 0 st.val))
  | .mmas tx ty a st => some (enc32 (encMX tx.val ty.val a.val 7 0 st.val))
  | .accz a st => some (enc32 (encMX 0 0 a.val 8 0 st.val))
  | .accld a st => some (enc32 (encMX 0 0 a.val 9 0 st.val))
  | .accst fs a st => some (enc32 (encMX 0 fs.val a.val 10 0 st.val))
  | .mfrd d clr st => some (enc32 (encMX 0 0 d.val 11 (b01 clr) st.val))
  | .fork a odd st => some (enc32 (encMX 0 0 a.val 12 (b01 odd) st.val))
  | .rdv st => some (enc32 (encMX 0 0 0 13 0 st.val))
  | .mend st => some (enc32 (encMX 0 0 0 14 0 st.val))
  | .movCompact d a last => some (enc16 0x0 d a last)
  | .iaddCompact d a last => some (enc16 0x1 d a last)
  | .isubCompact d a last => some (enc16 0x2 d a last)
  | .imulCompact d a last => some (enc16 0x3 d a last)
  | .andCompact d a last => some (enc16 0x4 d a last)
  | .orCompact d a last => some (enc16 0x5 d a last)
  | .xorCompact d a last => some (enc16 0x6 d a last)
  | .shlCompact d a last => some (enc16 0x7 d a last)
  | .shrCompact d a last => some (enc16 0x8 d a last)
  | .sraCompact d a last => some (enc16 0x9 d a last)
  | .faddCompact d a last => some (enc16 0xa d a last)
  | .fsubCompact d a last => some (enc16 0xb d a last)
  | .fmulCompact d a last => some (enc16 0xc d a last)
  | .fminCompact d a last => some (enc16 0xd d a last)
  | .fmaxCompact d a last => some (enc16 0xe d a last)
  | .leaCompact d a last => some (enc16 0xf d a last)
  | .brmWindowExpiry _ _ => none
  | .waitTimeout _ => none
  | .coreReserveLoan _ => none
  | .tlbTranslate _ => none
  | .accessPerform _ => none
  | .responseArrival _ => none
  | .remoteScopePromotion _ => none
  | .tokenWrite _ => none
  | .xlinvCompletion _ => none
  | .thawRetranslate _ => none
  | .copyTransferPage _ => none
  | .copyCompletion _ => none
  | .cxlCompletion _ _ _ => none
  | .idleWake _ _ => none
  | .matrixInstructionComplete _ => none
  | .firingDispatch _ => none
  | .firingCommit _ _ => none
  | .rebindSwap _ => none
  | .unbindCompletion _ => none
  | .handlerBankGrant _ _ => none
  | .groupStopComplete _ _ => none
  | .timerMatch _ => none
  | .retirementComplete _ _ => none
  | .quoteExpiry _ => none
  | .haltTime _ => none
  | .haltEnergy _ => none
  | .teamPlacement => none
  | .teamRelease _ _ => none
  | .forwardProgressSwap _ => none
  | .safePointTimeout _ _ => none
  | .teamSave _ _ => none
  | .frequencyStep _ _ => none
  | .relockComplete _ => none
  | .droopStretch _ => none
  | .capChange _ => none
  | .envelopeChange _ _ => none
  | .breakEvenHold _ => none
  | .powerGate _ => none
  | .coreWake _ => none
  | .inrushGrant _ _ => none
  | .suspendStep => none
  | .portRetrain _ => none
  | .portSequenceConfirm _ _ => none
  | .throttle _ _ => none
  | .throttleStep _ _ => none
  | .emergencySave _ _ => none
  | .emergencySaveCommit _ => none
  | .hardTrip _ _ => none
  | .boot => none
  | .scrubCompletion _ => none
  | .hostBar2Access _ _ _ _ => none
  | .dieLinkRetrain _ => none
  | .peerWrite _ _ _ => none
  | .peerRead _ _ _ => none
  | .peerResponse _ _ _ => none
  | .peerAdd _ _ _ => none
  | .peerRequest _ _ _ => none
  | .peerReject _ _ _ => none
  | .heartbeatWindowEnd _ => none
  | .cmdLoad _ _ => none
  | .cmdUnload _ _ => none
  | .cmdQuote _ _ => none
  | .cmdAccept _ _ => none
  | .cmdDecline _ _ => none
  | .cmdLaunch _ _ => none
  | .cmdBind _ _ => none
  | .cmdUnbind _ _ => none
  | .mbResume _ => none
  | .mbAttest _ => none
  | .mbReload _ => none
  | .mbLogdump _ => none
  | .mbIdcert _ => none
  | .faultres _ _ => none
  | .gstopStop _ _ => none
  | .gstopRun _ _ => none
  | .spretire _ _ => none
  | .fpwinWrite _ _ => none
  | .krlock _ => none
  | .clkratReq _ _ => none
  | .suspctlGo => none
  | .scrubn _ _ => none
  | .lqdoor _ _ => none
  | .wqdoor _ _ => none
  | .notifyApertureWrite _ => none
  | .hbeat _ _ => none
  | .ownerWrite _ _ => none
  | .registerWrite _ _ => none
  | .linkRetrainingEnd _ _ => none
  | .flitRetry _ => none
  | .patrolRead _ _ => none
  | .partitionStart _ _ => none

end Sys2Proof
end

