-- ==== Sys2Proof/Machine/Info.lean ====
section
/-! DEFINITION. What an instruction's encoding says of it before it runs: the registers it reads and writes, the LAST
bits it carries (R126), its fixed latency (R43) and its plain energy (R191, R220, R252, R275), and where control goes
next. The finaliser (R143, R144) and Rennet (R47, R49) read it. -/
namespace Sys2Proof.Machine

/-- The static facts of an instruction. `marks` is each LAST bit it has: its place, its value, and the lane registers
that it marks. `eg` and `el` are the energy in fJ for a group and for each of its lanes, without the issue charge and
without what depends on an address, a descriptor or an engine. -/
structure Info where
  wide : Bool := true
  st : Nat := 0
  vr : List Nat := []
  vw : List Nat := []
  sr : List Nat := []
  sw : List Nat := []
  kr : List Nat := []
  kw : List Nat := []
  marks : List (Nat × Bool × List Nat) := []
  lat : Nat := 0
  eg : Nat := 600
  el : Nat := 0
  deriving DecidableEq, Repr

/-- The registers `n` up from `r`. -/
def upFrom (r n : Nat) : List Nat := (List.range n).map fun i => r + i

/-- The lane registers of a mixed operand of `n` words, and its uniform register. -/
def mixedV (b : Mixed) (n : Nat) : List Nat :=
  match b with
  | .v r => upFrom r.val n
  | .s _ => []
def mixedS (b : Mixed) : List Nat :=
  match b with
  | .v _ => []
  | .s r => [r.val]

/-- The LAST bit of field B, which a uniform operand does not have. -/
def mixedMark (b : Mixed) (n : Nat) (lb : Bool) : List (Nat × Bool × List Nat) :=
  match b with
  | .v r => [(4, lb, upFrom r.val n)]
  | .s _ => []

/-- A lane operation of two sources (format L); `old` when it reads its old destination (R193). -/
def infoL (lat el : Nat) (old : Bool) (d a : Fin 64) (b : Mixed) (la lb : Bool) (st : Fin 8) : Info :=
  { st := st.val, vr := a.val :: mixedV b 1 ++ (if old then [d.val] else []), vw := [d.val], sr := mixedS b
    marks := (5, la, [a.val]) :: mixedMark b 1 lb, lat := lat, eg := 0, el := el }

/-- A lane operation of one source (formats LU and LV). -/
def infoU (lat el : Nat) (old : Bool) (d a : Fin 64) (la : Bool) (st : Fin 8) : Info :=
  { st := st.val, vr := a.val :: (if old then [d.val] else []), vw := [d.val], marks := [(5, la, [a.val])]
    lat := lat, eg := 0, el := el }

/-- A compact operation (R133); all but MOV read their destination. -/
def infoC (lat el : Nat) (d a : Fin 32) (last : Bool) : Info :=
  { wide := false, vr := [a.val, d.val], vw := [d.val], marks := [(15, last, [a.val])], lat := lat, eg := 0, el := el }

/-- A lane comparison into a mask (format LK). -/
def infoK (lat el : Nat) (kd : Fin 7) (a : Fin 64) (b : Mixed) (la lb : Bool) (st : Fin 8) : Info :=
  { st := st.val, vr := a.val :: mixedV b 1, sr := mixedS b, kw := [kd.val], marks := (5, la, [a.val]) :: mixedMark b 1 lb
    lat := lat, eg := 0, el := el }

/-- A mask operation (format KM). -/
def infoM (kd : Fin 7) (ks : List (Fin 8)) (st : Fin 8) : Info :=
  { st := st.val, kr := ks.map Fin.val, kw := [kd.val], lat := 2, eg := 0, el := 600 }

/-- A uniform operation: the registers it reads and the one it writes (format U, UX and W). -/
def infoS (d : Fin 128) (rs : List (Fin 128)) (st : Fin 8) : Info :=
  { st := st.val, sr := rs.map Fin.val, sw := [d.val], lat := 2 }

/-- A lane identity (R182). -/
def infoI (d : Fin 64) (st : Fin 8) : Info := { st := st.val, vw := [d.val], lat := 2, eg := 0, el := 600 }

/-- An instruction of the group that has no result. -/
def infoG (st : Fin 8) : Info := { st := st.val }

/-- One that reads `n` uniform registers from `a` up and writes others. -/
def infoR (a : Fin 128) (n : Nat) (ws : List Nat) (st : Fin 8) : Info := { st := st.val, sr := upFrom a.val n, sw := ws }

/-- A record instruction: the handle, and the eight registers read or written (R250, R251). -/
def infoRec (d a : Fin 128) (writes : Bool) (st : Fin 8) : Info :=
  { st := st.val, sr := a.val :: (if writes then [] else upFrom d.val 8), sw := if writes then upFrom d.val 8 else []
    lat := if writes then 2 else 0 }

/-- Words that a wide pool access moves. -/
def wideWords (x4 : Bool) : Nat := if x4 then 4 else 2

/-- The static facts of an encoded instruction; none for an event. -/
def info (i : Instr) : Option Info :=
  match i with
  | .sadd d a b st | .ssub d a b st | .smul d a b st | .smulh d a b st | .sand d a b st | .sor d a b st | .sxor d a b st
  | .sshl d a b st | .sshr d a b st | .ssra d a b st | .sminI64 d a b st | .smaxI64 d a b st | .scmp d a b st
  | .sminN64 d a b st | .smaxN64 d a b st => some (infoS d [a, b] st)
  | .ssel d a b st => some (infoS d [a, b, d] st)
  | .srdl d a b st => some { infoS d [b] st with vr := [a.val], lat := 4 }
  | .smov d a st | .spopc d a st | .sclz d a st | .setwReg d a st => some (infoS d [a] st)
  | .setwImm d _ st | .getw d st | .grid d _ st | .gid d st | .core d st | .die d st | .cyc d st | .reft d st | .xfrd d st
  | .sli d _ st => some (infoS d [] st)
  | .slih d _ st => some (infoS d [d] st)
  | .tid d st | .hlane d st | .rank d st | .team d _ st => some (infoI d st)
  | .sld d a _ st => some { infoS d [a] st with lat := 6 }
  | .sst d a _ st => some { infoG st with sr := [a.val, d.val] }
  | .crr s _ st => some { infoG st with sw := [s.val], lat := 2 }
  | .crw s _ st => some { infoG st with sr := [s.val] }
  | .xlinv s st => some { infoG st with sr := upFrom s.val 4 }
  | .ctxsv s st => some { infoG st with sr := upFrom s.val 2 }
  | .ctxld s st => some { infoG st with sr := [s.val], sw := [s.val + 1] }
  | .xfclr _ st | .eret st | .idle st | .lenter _ st | .nop st | .rcv st | .exit st | .trap _ st | .brk st | .yield st
  | .bar _ st | .bara _ st | .bard _ st | .fset _ st | .fclr _ st | .fwait _ st | .fence _ _ st | .xfence st
  | .qwait _ _ st | .tzero _ st | .ttrn _ _ st | .rdv st | .mend st => some (infoG st)
  | .brc _ k _ st | .brm _ k _ st | .brb _ k _ st => some { infoG st with kr := [k.val] }
  | .bru _ s _ st => some { infoG st with sr := [s.val] }
  | .call _ st => some { infoG st with vw := [63], lat := 2, el := 600 }
  | .calli a la st => some { infoG st with vr := [a.val], vw := [63], marks := [(5, la, [a.val])], lat := 2, el := 600 }
  | .ret st => some { infoG st with vr := [63] }
  | .iadd d a b la lb st | .isub d a b la lb st | .imul d a b la lb st | .imulhI32 d a b la lb st | .imulhN32 d a b la lb st
  | .lea d a b la lb st | .iminI32 d a b la lb st | .iminN32 d a b la lb st | .imaxI32 d a b la lb st
  | .imaxN32 d a b la lb st | .and d a b la lb st | .or d a b la lb st | .xor d a b la lb st | .shl d a b la lb st
  | .shr d a b la lb st | .sra d a b la lb st | .rot d a b la lb st | .bfeI32 d a b la lb st | .bfeN32 d a b la lb st =>
    some (infoL 2 600 false d a b la lb st)
  | .imad d a b la lb st | .bfi d a b la lb st => some (infoL 2 600 true d a b la lb st)
  | .iadd64 d a b la lb st =>
    some { infoL 2 600 false d a b la lb st with
      vr := upFrom a.val 2 ++ mixedV b 2, vw := upFrom d.val 2, marks := (5, la, upFrom a.val 2) :: mixedMark b 2 lb }
  | .mov d b lb st => some { infoI d st with vr := mixedV b 1, sr := mixedS b, marks := mixedMark b 1 lb }
  | .iabs d a la st | .ineg d a la st | .not d a la st | .popc d a la st | .clz d a la st | .brev d a la st =>
    some (infoU 2 600 false d a la st)
  | .fabs d a la st | .fneg d a la st | .fclass d a la st | .frndRn d a la st | .frndRz d a la st | .frndRp d a la st
  | .frndRm d a la st => some (infoU 4 1400 false d a la st)
  | .frcp d a la st | .frsq d a la st | .fsqrt d a la st | .fexp2 d a la st | .flog2 d a la st | .fsin d a la st
  | .fcos d a la st => some (infoU 8 4500 false d a la st)
  | .isel d k b lb st =>
    some { infoI d st with vr := mixedV b 1 ++ [d.val], sr := mixedS b, kr := [k.val], marks := mixedMark b 1 lb }
  | .fsel d k b lb st =>
    some { infoI d st with
      vr := mixedV b 1 ++ [d.val], sr := mixedS b, kr := [k.val], marks := mixedMark b 1 lb, lat := 4, el := 1400 }
  | .icmpI32 kd _ a b la lb st | .icmpN32 kd _ a b la lb st => some (infoK 2 600 kd a b la lb st)
  | .fcmp kd _ a b la lb st => some (infoK 4 1400 kd a b la lb st)
  | .vote kd a la st =>
    some { st := st.val, vr := [a.val], kw := [kd.val], marks := [(5, la, [a.val])], lat := 4, eg := 0, el := 1000 }
  | .kand kd ka kb st | .kor kd ka kb st | .kxor kd ka kb st => some (infoM kd [ka, kb] st)
  | .knot kd ka st | .kmov kd ka st => some (infoM kd [ka] st)
  | .kpopc sd ka st => some { st := st.val, kr := [ka.val], sw := [sd.val], lat := 2, eg := 0, el := 600 }
  | .fadd d a b la lb st | .fsub d a b la lb st | .fmul d a b la lb st | .fmin d a b la lb st | .fmax d a b la lb st
  | .hadd2 d a b la lb st | .hmul2 d a b la lb st => some (infoL 4 1400 false d a b la lb st)
  | .ffma d a b la lb st | .hfma2 d a b la lb st => some (infoL 4 1400 true d a b la lb st)
  | .fdiv d a b la lb st => some (infoL 8 4500 false d a b la lb st)
  | .cvtNarrow _ d a la st | .cvtWiden _ d a la st | .cvti _ _ d a la st | .cvtf _ _ d a la st | .upk8 _ _ d a la st
  | .upk4 _ _ d a la st => some (infoU 4 800 false d a la st)
  | .pk8 _ _ d a la st | .pk4 _ _ d a la st => some (infoU 4 800 true d a la st)
  | .shfl d a b la lb st | .shflup d a b la lb st | .shfldn d a b la lb st | .shflx d a b la lb st | .bcast d a b la lb st =>
    some (infoL 4 1000 false d a b la lb st)
  | .redaddN32 d a la st | .redaddF32 d a la st | .redminI32 d a la st | .redminN32 d a la st | .redminF32 d a la st
  | .redmaxI32 d a la st | .redmaxN32 d a la st | .redmaxF32 d a la st | .matchV d a la st =>
    some (infoU 4 1000 false d a la st)
  | .scanaddN32 d a la st | .scanaddF32 d a la st | .scanaddN32Exc d a la st | .scanaddF32Exc d a la st =>
    some (infoU 4 1000 true d a la st)
  | .pld d a _ la st => some (infoU 6 0 false d a la st)
  | .pldw x4 d a _ la st => some { infoU 6 0 false d a la st with vw := upFrom d.val (wideWords x4) }
  | .pst d a _ la ld st =>
    some { st := st.val, vr := [a.val, d.val], marks := [(5, la, [a.val]), (4, ld, [d.val])], eg := 0 }
  | .pstw x4 d a _ la ld st =>
    let ds := upFrom d.val (wideWords x4)
    some { st := st.val, vr := a.val :: ds, marks := [(5, la, [a.val]), (4, ld, ds)], eg := 0 }
  | .patom op _ d a la st =>
    some { infoU 6 0 true d a la st with vr := [a.val, d.val] ++ (if op == .cas then [d.val + 1] else []) }
  | .barw _ r st => some { infoG st with sw := [r.val], lat := 2 }
  | .barx _ r st => some { infoG st with sr := [r.val] }
  | .qld _ _ _ a la st | .qpf _ a la st => some { st := st.val, vr := [a.val], marks := [(5, la, [a.val])], eg := 0 }
  | .qst _ _ _ a d la ld st =>
    some { st := st.val, vr := [a.val, d.val], marks := [(5, la, [a.val]), (4, ld, [d.val])], eg := 0 }
  | .qatom op _ _ _ a d st =>
    some { st := st.val, vr := [a.val, d.val] ++ (if op == .cas then [d.val + 1] else []), eg := 0 }
  | .qpop d _ st => some { st := st.val, vw := [d.val], eg := 0 }
  | .cpy ds a sb la st | .cpyg ds a sb la st | .cpys ds a sb la st =>
    some { infoR sb 4 [ds.val] st with vr := [a.val], marks := [(5, la, [a.val])] }
  | .cseal b st => some { infoG st with sw := [b.val] }
  | .cbulk _ a b st | .cntadd _ a b st | .cntwait _ a b st => some { infoG st with sr := [a.val, b.val] }
  | .rput _ a b st | .rget a b st => some (infoR a 1 [b.val] st)
  | .wqpop d a st | .grec d a st => some (infoRec d a true st)
  | .wqpush d a st | .gemit d a st => some (infoRec d a false st)
  | .tcfg _ a st | .tld _ a st | .tst _ a st | .mma _ _ a st | .mmas _ _ a st | .accz a st => some (infoR a 1 [] st)
  | .scld a st | .accld a st => some (infoR a 2 [] st)
  | .accst _ a st => some (infoR a 3 [] st)
  | .mfrd d _ st => some (infoS d [] st)
  | .fork _ _ st => some { infoG st with sr := upFrom 0 128 }
  | .movCompact d a last => some { infoC 2 600 d a last with vr := [a.val] }
  | .iaddCompact d a last | .isubCompact d a last | .imulCompact d a last | .andCompact d a last | .orCompact d a last
  | .xorCompact d a last | .shlCompact d a last | .shrCompact d a last | .sraCompact d a last | .leaCompact d a last =>
    some (infoC 2 600 d a last)
  | .faddCompact d a last | .fsubCompact d a last | .fmulCompact d a last | .fminCompact d a last | .fmaxCompact d a last =>
    some (infoC 4 1400 d a last)
  | _ => none

/-- The queue, if any, that an instruction pushes to or prefetches through, whose base register it reads (R129, R159). -/
def pushQueue (i : Instr) : Option (Fin 8) :=
  match i with
  | .qld q .. | .qst q .. | .qpf q .. | .qatom _ _ _ q .. => some q
  | _ => none

/-- The queue that an instruction names. -/
def namedQueue (i : Instr) : Option (Fin 8) :=
  match i with
  | .qpop _ q _ | .qwait q _ _ => some q
  | _ => pushQueue i

/-- The barrier that an instruction names. -/
def namedBar (i : Instr) : Option (Fin 16) :=
  match i with
  | .bar b _ | .bara b _ | .bard b _ | .barw b _ _ | .barx b _ _ => some b
  | _ => none

/-- The flag that an instruction names. -/
def namedFlag (i : Instr) : Option (Fin 64) :=
  match i with
  | .fset f _ | .fclr f _ | .fwait f _ => some f
  | _ => none

/-- The loop id that an instruction names. -/
def namedLoop (i : Instr) : Option (Fin 64) :=
  match i with
  | .lenter l _ | .brb _ _ l _ => some l
  | _ => none

/-- Whether an instruction is a wait of R40 by what it is; token sites are found in the section. -/
def waitKind (i : Instr) : Bool :=
  match i with
  | .bar .. | .barw .. | .barx .. | .fwait .. | .cntwait .. | .qwait .. | .wqpop .. | .rdv .. | .xfence .. => true
  | _ => false

/-- Whether an instruction is a pool access that a PASS entry may describe (R152). -/
def poolKind (i : Instr) : Bool :=
  match i with
  | .pld .. | .pst .. | .pldw .. | .pstw .. | .patom .. => true
  | _ => false

/-- Whether an XFER entry may describe an instruction (R152). -/
def xferKind (i : Instr) : Bool :=
  match i with
  | .cbulk .. | .rput .. | .rget .. => true
  | _ => false

/-- Whether an instruction is a CALLI. -/
def calliKind (i : Instr) : Bool :=
  match i with
  | .calli .. => true
  | _ => false

/-- The token that an asynchronous operation names (R109). -/
def tokenOf (i : Instr) : Option Nat :=
  match i with
  | .cpy ds .. | .cpyg ds .. | .cpys ds .. => some ds.val
  | .cseal b _ => some b.val
  | .rput _ _ b _ | .rget _ b _ => some b.val
  | _ => none

/-- Where control goes after an instruction. K7 holds in every lane (R53, R130), so a branch on it goes one way: always with `jump`, and
never with `never`. -/
inductive Flow where
  | next
  | stop
  | jump (target : Int)
  | never (target : Int)
  | both (target : Int)
  | loop (target : Int)
  | call (target : Int)
  | calli
  | ret
  deriving DecidableEq, Repr

/-- A branch target as a code offset. -/
def targetOf {w : Nat} (off : Nat) (x : BitVec w) : Int := off + 2 * x.toInt

/-- A branch on a mask. [DEDUCED, log 56] -/
def maskFlow (k : Fin 8) (neg : Bool) (target : Int) : Flow :=
  if k = 7 then (if neg then .never target else .jump target) else .both target

/-- Where control goes from the instruction at a code offset. [DEDUCED, log 56] -/
def flowOf (off : Nat) (i : Instr) : Flow :=
  match i with
  | .brc x k neg _ | .brm x k neg _ => maskFlow k neg (targetOf off x)
  | .bru x _ _ _ => .both (targetOf off x)
  | .brb x _ _ _ => .loop (targetOf off x)
  | .call x _ => .call (targetOf off x)
  | .calli .. => .calli
  | .ret _ => .ret
  | .exit _ | .mend _ => .stop
  | _ => .next

end Sys2Proof.Machine
end

