-- ==== Sys2Proof/Machine/Section.lean ====
section
/-! DEFINITION. A code section as the finaliser and Rennet read it: its instructions, decoded by LEN from offset 0 (R42,
R161), its control flow, and the token sites (R399). -/
namespace Sys2Proof.Machine

/-- An instruction of a section: its offset, its bits, its length, and what it is; none for an illegal encoding. -/
structure Site where
  off : Nat
  bits : Nat
  wide : Bool
  code : Option Instr
  deriving DecidableEq, Repr

/-- The offset after a site. -/
def Site.next (x : Site) : Nat := x.off + (if x.wide then 4 else 2)

/-- The static facts of a site; nothing for an illegal encoding. -/
def Site.info (x : Site) : Info := (x.code.bind Machine.info).getD { eg := 0 }

/-- A site from the bytes that hold it. -/
def siteOf (off : Nat) (bs : List Byte) : Site :=
  ⟨off, leNat bs, bs.length == 4, match decodeBytes bs with
    | .ok (i, _) => some i
    | .error _ => none⟩

/-- The sites of bytes from an offset up, at most `n`. A last parcel with LEN 1 is an illegal encoding (R142). -/
def sitesFrom : Nat → Nat → List Byte → List Site
  | 0, _, _ => []
  | _, _, [] => []
  | n + 1, off, b :: bs =>
    let len := if b.getLsbD 0 && decide (4 ≤ (b :: bs).length) then 4 else 2
    siteOf off ((b :: bs).take len) :: sitesFrom n (off + len) ((b :: bs).drop len)

/-- The sites of a section. -/
def sitesOf (bs : List Byte) : List Site := sitesFrom bs.length 0 bs

/-- The site at an offset. -/
def siteAt (ss : List Site) (off : Nat) : Option Site := ss.find? fun x => x.off == off

/-! ### Control flow -/

/-- Where an instruction is called from: the offsets after the calls of a section. -/
def returnsOf (ss : List Site) : List Nat :=
  ss.filterMap fun x => match x.code.map (flowOf x.off) with
    | some (.call _) => some x.next
    | some .calli => some x.next
    | _ => none

/-- The declared targets of a CALLI site (R39). -/
def targetsAt (k : Kern) (off : Nat) : List Nat := (k.targets.filter fun e => e.1 == off).map Prod.snd

/-- A target as an offset of the section. -/
def offsetIn (t : Int) : List Nat := if t < 0 then [] else [t.toNat]

/-- The offsets that follow a site, over calls and returns: a CALL goes to its target, a CALLI to its declared set, and a RET after any
call of the section. `either` takes every branch both ways, one on K7 too (R399, R400); without it a branch on K7 goes its own way (R144).
[DEDUCED, log 56] -/
def successorsOf (either : Bool) (k : Kern) (ss : List Site) (x : Site) : List Nat :=
  let raw := match x.code with
    | none => []
    | some i => match flowOf x.off i with
      | .next => [x.next]
      | .stop => []
      | .jump t => if either then x.next :: offsetIn t else offsetIn t
      | .never t => if either then x.next :: offsetIn t else [x.next]
      | .both t | .loop t => x.next :: offsetIn t
      | .call t => offsetIn t
      | .calli => targetsAt k x.off
      | .ret => returnsOf ss
  (raw.eraseDups).filter fun a => (siteAt ss a).isSome

/-- The offsets that follow a site on the paths that its lanes may take (R144), and with every branch taken both ways (R399, R400). -/
def successors (k : Kern) (ss : List Site) (x : Site) : List Nat := successorsOf false k ss x
def eitherSuccessors (k : Kern) (ss : List Site) (x : Site) : List Nat := successorsOf true k ss x

/-- The offsets that follow a site when a call is taken as one instruction, which Rennet charges with its target (R47). [DEDUCED, log 67] -/
def flatSuccessors (ss : List Site) (x : Site) : List Nat :=
  let raw := match x.code with
    | none => []
    | some i => match flowOf x.off i with
      | .next | .never _ | .call _ | .calli => [x.next]
      | .stop | .ret => []
      | .jump t => offsetIn t
      | .both t | .loop t => x.next :: offsetIn t
  (raw.eraseDups).filter fun a => (siteAt ss a).isSome

/-- A value repeated until it no longer changes, at most `n` times. -/
def settled {α : Type} [DecidableEq α] (f : α → α) : Nat → α → α
  | 0, a => a
  | n + 1, a => if f a = a then a else settled f n (f a)

/-- A section's graph: each site with the offsets that follow it. -/
abbrev Graphed := List (Site × List Nat)

/-- The offsets reached from others in a graph. -/
def reachFrom (g : Graphed) (starts : List Nat) : List Nat :=
  settled (fun r => g.foldl (fun r e => if r.contains e.1.off then r ++ e.2.filter fun a => !r.contains a else r) r)
    (g.length + 1) starts

/-- A value of each offset; `d` where none is listed. -/
def valueAt {α : Type} (d : α) (m : List (Nat × α)) (a : Nat) : α := ((m.find? fun e => e.1 == a).map Prod.snd).getD d

/-- A value of an offset replaced. -/
def putValue {α : Type} (m : List (Nat × α)) (a : Nat) (v : α) : List (Nat × α) := (a, v) :: m.filter fun e => e.1 != a

/-! ### Registers -/

/-- The set of register numbers. -/
def regSet (w : Nat) (l : List Nat) : BitVec w := l.foldl (fun s r => s ||| (1#w <<< r)) 0

/-- The base register that a queue access reads, from its queue's declaration (R129, R159). -/
def baseReads (k : Kern) (i : Instr) : List Nat :=
  match pushQueue i with
  | none => []
  | some q =>
    let w := (k.queues.get q).toNat
    if field w 0 7 = 0 then [] else [field w 9 7]

/-- The uniform registers that a site reads. -/
def Site.sreads (k : Kern) (x : Site) : List Nat := x.info.sr ++ x.code.elim [] (baseReads k)

/-- The scoreboard's names of what a site reads and writes (`Shape`). -/
def Site.reads (k : Kern) (x : Site) : List Nat :=
  x.info.vr ++ (x.sreads k).map (64 + ·) ++ x.info.kr.map (192 + ·)
def Site.writes (x : Site) : List Nat := x.info.vw ++ x.info.sw.map (64 + ·) ++ x.info.kw.map (192 + ·)

/-! ### Token sites (R399) -/

/-- The tokens pending after a site, of those pending before it: a read or a write of the register ends the path, and an
asynchronous operation begins one. -/
def tokenStep (k : Kern) (x : Site) (pend : BitVec 128) : BitVec 128 :=
  (pend &&& ~~~(regSet 128 (x.sreads k ++ x.info.sw))) ||| regSet 128 ((x.code.bind tokenOf).toList)

/-- The tokens that may be pending before each site that the entry or a stream's entry reaches. -/
def tokensBefore (k : Kern) (g : Graphed) : List (Nat × BitVec 128) :=
  let live := reachFrom g (k.entry.toNat :: k.strms.map Prod.fst)
  let walked := g.filter fun e => live.contains e.1.off
  settled (fun m => walked.foldl (fun m e =>
      let out := tokenStep k e.1 (valueAt 0 m e.1.off)
      e.2.foldl (fun m a => let old := valueAt 0 m a; if out ||| old = old then m else putValue m a (out ||| old)) m) m)
    (129 * g.length + 1) []

/-- The wait sites of a section (R40): its waits and its token sites. -/
def waitSites (k : Kern) (ss : List Site) : List Nat :=
  let g := ss.map fun x => (x, eitherSuccessors k ss x)
  let before := tokensBefore k g
  (ss.filter fun x => x.code.any waitKind
    || (valueAt 0 before x.off &&& regSet 128 (x.sreads k ++ x.info.sw)) != 0).map Site.off

end Sys2Proof.Machine
end

