-- ==== Sys2Proof/Machine/Finalise.lean ====
section
/-! DEFINITION. The finaliser (R42, R143, R144, R399, R400): the checks it makes on a code section, and the STALL and LAST
bits it fills in a portable one. -/
namespace Sys2Proof.Machine

/-! ### LAST (R126, R144) -/

/-- The lane registers that some path reads before it writes them, before each site. -/
def liveBefore (g : Graphed) : List (Nat × BitVec 64) :=
  let after (m : List (Nat × BitVec 64)) (succ : List Nat) : BitVec 64 := succ.foldl (fun s a => s ||| valueAt 0 m a) 0
  settled (fun m => g.reverse.foldl (fun m e =>
      let inn := (after m e.2 &&& ~~~(regSet 64 e.1.info.vw)) ||| regSet 64 e.1.info.vr
      if valueAt 0 m e.1.off = inn then m else putValue m e.1.off inn) m)
    (65 * g.length + 1) []

/-- The LAST bits that the finaliser sets at a site, as a mask of its word: those whose registers the instruction does not
write and no path reads again before it writes them. [DEDUCED, log 57] -/
def lastBits (live : List (Nat × BitVec 64)) (e : Site × List Nat) : Nat :=
  let keep := regSet 64 e.1.info.vw ||| e.2.foldl (fun s a => s ||| valueAt 0 live a) 0
  (e.1.info.marks.map fun m => if regSet 64 m.2.2 &&& keep = 0 then 2 ^ m.1 else 0).sum

/-! ### STALL (R46, R144) -/

/-- STALL by offset. -/
abbrev Stalls := List (Nat × Nat)

/-- STALL raised by `need` in all over a path, the nearest site first, none above 7; compact sites carry none. [DEDUCED, log 57] -/
def raiseStalls : Nat → List Site → Stalls → Stalls
  | _, [], st => st
  | need, x :: xs, st =>
    let old := valueAt 0 st x.off
    let add := if x.wide then min (7 - old) need else 0
    raiseStalls (need - add) xs (if add = 0 then st else putValue st x.off (old + add))

/-- The readers of a result met along every path while its latency runs. `path` is the producer and the sites after it, the
nearest first. -/
def coverPaths (k : Kern) (g : Graphed) (r lat : Nat) : Nat → List (Site × List Nat) → Stalls → Stalls
  | 0, _, st => st
  | _, [], st => st
  | n + 1, e :: path, st =>
    e.2.foldl (fun st a =>
      let cost := ((e :: path).map fun y => 1 + valueAt 0 st y.1.off).sum
      if lat ≤ cost then st
      else match g.find? fun y => y.1.off == a with
        | none => st
        | some y =>
          let st := if (y.1.reads k).contains r then raiseStalls (lat - cost) ((e :: path).map Prod.fst) st else st
          if y.1.writes.contains r then st else coverPaths k g r lat n (y :: e :: path) st) st

/-- STALL for every producer of a section, in ascending offset. [DEDUCED, log 57] -/
def fillStalls (k : Kern) (g : Graphed) : Stalls :=
  g.foldl (fun st e => if e.1.info.lat = 0 then st
    else e.1.writes.foldl (fun st r => coverPaths k g r e.1.info.lat 8 [e] st) st) []

/-! ### The peak register count (R400) -/

/-- Whether a write of a register at one of the sites `from_` leads to an address of `x` or higher without a marked read of
it below `x`. -/
def heldAt (g : Graphed) (frees : List Nat) (x : Nat) (from_ : List Nat) : Bool :=
  let blocked := frees.filter fun a => decide (a < x)
  let cut := g.map fun e => (e.1, e.2.filter fun a => !blocked.contains a)
  (reachFrom cut from_).any fun a => decide (x ≤ a)

/-- The number of lane registers that may be mapped at an address (R400). `marks` is the LAST bits by offset. -/
def heldCount (g : Graphed) (marks : List (Nat × Nat)) (x : Nat) : Nat :=
  ((List.range 64).filter fun r =>
    let ws := (g.filter fun e => e.1.info.vw.contains r).map fun e => e.1.off
    let frees := (g.filter fun e => e.1.info.marks.any fun m => m.2.2.contains r
      && field (valueAt 0 marks e.1.off) m.1 1 == 1).map fun e => e.1.off
    heldAt g frees x ws).length

/-- The lowest address at which more registers may be mapped than a ceiling. -/
def overCeiling (k : Kern) (g : Graphed) (marks : List (Nat × Nat)) : Option Nat :=
  let live := reachFrom g [k.entry.toNat]
  let walked := g.filter fun e => live.contains e.1.off
  (g.find? fun e => decide (k.ceil < heldCount walked marks e.1.off)).map fun e => e.1.off

/-! ### The checks of R42 -/

/-- Whether a site breaks a declaration of its kernel. -/
def undeclared (k : Kern) (waits : List Nat) (x : Site) : Bool :=
  match x.code with
  | none => false
  | some i =>
    (namedQueue i).any (fun q => field (k.queues.get q).toNat 0 7 == 0)
      || (namedBar i).any (fun b => decide (k.nbar ≤ b.val)) || (namedFlag i).any (fun f => decide (k.nflag ≤ f.val))
      || (namedLoop i).any (fun l => !k.loops.any fun e => e.1 == l.val)
      || (waits.contains x.off && !k.waits.any fun e => e.1 == x.off)
      || (calliKind i && !k.targets.any fun e => e.1 == x.off)

/-- Why the finaliser rejects a section: an encoding, or a STALL or LAST bit that is not 0 (R143); or a limit or a
declaration (R36, R42). Each with the code offset. -/
inductive Reject where
  | encoding (off : Nat)
  | limit (off : Nat)
  deriving DecidableEq, Repr

/-- Whether a site of a portable section is rejected by R143. -/
def notPortable (x : Site) : Bool := x.code.isNone || x.info.st != 0 || x.info.marks.any fun m => m.2.1

/-- A site as the finaliser completes it. -/
def Site.filled (x : Site) (last stall : Nat) : List Byte :=
  if x.wide then leBytes 4 (x.bits ||| (stall * 2) ||| last) else leBytes 2 (x.bits ||| last)

/-- The lower of two offsets. -/
def lower : Option Nat → Option Nat → Option Nat
  | some a, some b => some (min a b)
  | some a, none => some a
  | none, b => b

/-- A section's bytes as the finaliser leaves them: completed if portable, unchanged if native. -/
def finalise (k : Kern) (bs : List Byte) : Except Reject (List Byte) :=
  let ss := sitesOf bs
  let waits := waitSites k ss
  let decl := (ss.find? fun x => undeclared k waits x).map Site.off
  if !k.portable then match decl with
    | some a => .error (.limit a)
    | none => .ok bs
  else match ss.find? notPortable with
    | some x => .error (.encoding x.off)
    | none =>
      let g := ss.map fun x => (x, successors k ss x)
      let live := liveBefore g
      let marks := g.map fun e => (e.1.off, lastBits live e)
      let stalls := fillStalls k g
      match lower decl (overCeiling k (ss.map fun x => (x, eitherSuccessors k ss x)) marks) with
      | some a => .error (.limit a)
      | none => .ok (ss.flatMap fun x => x.filled (valueAt 0 marks x.off) (valueAt 0 stalls x.off))

end Sys2Proof.Machine
end

