-- ==== Sys2Proof/Machine/Sha512.lean ====
section
/-! DEFINITION. SHA-512 (FIPS 180-4), the digest of the measurement slots, of finalised code and of quotations (R144, R324,
R382). The manual names the function and does not restate it. -/
namespace Sys2Proof.Machine

/-- The constants of the rounds: the fractions of the cube roots of the first 80 primes. [PRESUMED, log 25] -/
def shaK : List DWord :=
  [0x428a2f98d728ae22, 0x7137449123ef65cd, 0xb5c0fbcfec4d3b2f, 0xe9b5dba58189dbbc, 0x3956c25bf348b538]
    ++ [0x59f111f1b605d019, 0x923f82a4af194f9b, 0xab1c5ed5da6d8118, 0xd807aa98a3030242, 0x12835b0145706fbe]
    ++ [0x243185be4ee4b28c, 0x550c7dc3d5ffb4e2, 0x72be5d74f27b896f, 0x80deb1fe3b1696b1, 0x9bdc06a725c71235]
    ++ [0xc19bf174cf692694, 0xe49b69c19ef14ad2, 0xefbe4786384f25e3, 0x0fc19dc68b8cd5b5, 0x240ca1cc77ac9c65]
    ++ [0x2de92c6f592b0275, 0x4a7484aa6ea6e483, 0x5cb0a9dcbd41fbd4, 0x76f988da831153b5, 0x983e5152ee66dfab]
    ++ [0xa831c66d2db43210, 0xb00327c898fb213f, 0xbf597fc7beef0ee4, 0xc6e00bf33da88fc2, 0xd5a79147930aa725]
    ++ [0x06ca6351e003826f, 0x142929670a0e6e70, 0x27b70a8546d22ffc, 0x2e1b21385c26c926, 0x4d2c6dfc5ac42aed]
    ++ [0x53380d139d95b3df, 0x650a73548baf63de, 0x766a0abb3c77b2a8, 0x81c2c92e47edaee6, 0x92722c851482353b]
    ++ [0xa2bfe8a14cf10364, 0xa81a664bbc423001, 0xc24b8b70d0f89791, 0xc76c51a30654be30, 0xd192e819d6ef5218]
    ++ [0xd69906245565a910, 0xf40e35855771202a, 0x106aa07032bbd1b8, 0x19a4c116b8d2d0c8, 0x1e376c085141ab53]
    ++ [0x2748774cdf8eeb99, 0x34b0bcb5e19b48a8, 0x391c0cb3c5c95a63, 0x4ed8aa4ae3418acb, 0x5b9cca4f7763e373]
    ++ [0x682e6ff3d6b2b8a3, 0x748f82ee5defb2fc, 0x78a5636f43172f60, 0x84c87814a1f0ab72, 0x8cc702081a6439ec]
    ++ [0x90befffa23631e28, 0xa4506cebde82bde9, 0xbef9a3f7b2c67915, 0xc67178f2e372532b, 0xca273eceea26619c]
    ++ [0xd186b8c721c0c207, 0xeada7dd6cde0eb1e, 0xf57d4f7fee6ed178, 0x06f067aa72176fba, 0x0a637dc5a2c898a6]
    ++ [0x113f9804bef90dae, 0x1b710b35131c471b, 0x28db77f523047d84, 0x32caab7b40c72493, 0x3c9ebe0a15c9bebc]
    ++ [0x431d67c49c100d4c, 0x4cc5d4becb3e42b6, 0x597f299cfc657e2a, 0x5fcb6fab3ad6faec, 0x6c44198c4a475817]

/-- The initial hash value: the fractions of the square roots of the first eight primes. -/
def shaInit : List DWord :=
  [0x6a09e667f3bcc908, 0xbb67ae8584caa73b, 0x3c6ef372fe94f82b, 0xa54ff53a5f1d36f1]
    ++ [0x510e527fade682d1, 0x9b05688c2b3e6c1f, 0x1f83d9abfb41bd6b, 0x5be0cd19137e2179]

/-- The doubleword that eight bytes hold, the first most significant. -/
def beDword (bs : List Byte) : DWord := bs.foldl (fun (a : DWord) b => (a <<< 8) ||| b.setWidth 64) 0

/-- The eight bytes of a doubleword, the most significant first. -/
def beBytes (w : DWord) : List Byte := (List.range 8).map fun i => (w >>> (56 - 8 * i)).setWidth 8

/-- The message padded to whole blocks of 128 bytes: a one bit, zeros, and the length in bits. [PRESUMED, log 25] -/
def shaPad (m : List Byte) : List Byte :=
  let n := m.length
  m ++ [0x80] ++ List.replicate ((239 - n % 128) % 128) 0 ++ beBytes (BitVec.ofNat 64 (8 * n / 2 ^ 64)) ++ beBytes (BitVec.ofNat 64 (8 * n))

/-- The message schedule, extended by `n` words; the latest word is first. -/
def shaExtend : Nat → List DWord → List DWord
  | 0, w => w
  | n + 1, w =>
    let x := w.getD 14 0
    let y := w.getD 1 0
    let s0 := x.rotateRight 1 ^^^ x.rotateRight 8 ^^^ (x >>> 7)
    let s1 := y.rotateRight 19 ^^^ y.rotateRight 61 ^^^ (y >>> 6)
    shaExtend n ((s1 + w.getD 6 0 + s0 + w.getD 15 0) :: w)

/-- One round over the eight working words. [PRESUMED, log 25] -/
def shaRound (v : List DWord) (k w : DWord) : List DWord :=
  match v with
  | [a, b, c, d, e, f, g, h] =>
    let t1 := h + (e.rotateRight 14 ^^^ e.rotateRight 18 ^^^ e.rotateRight 41) + ((e &&& f) ^^^ (~~~e &&& g)) + k + w
    let t2 := (a.rotateRight 28 ^^^ a.rotateRight 34 ^^^ a.rotateRight 39) + ((a &&& b) ^^^ (a &&& c) ^^^ (b &&& c))
    [t1 + t2, a, b, c, d + t1, e, f, g]
  | _ => v

/-- The hash value after one block. -/
def shaBlock (h : List DWord) (block : List Byte) : List DWord :=
  let w0 := ((List.range 16).map fun i => beDword ((block.drop (8 * i)).take 8)).reverse
  let w := (shaExtend 64 w0).reverse
  let v := (shaK.zip w).foldl (fun v x => shaRound v x.1 x.2) h
  (h.zip v).map fun x => x.1 + x.2

/-- The hash value after `n` blocks. -/
def shaBlocks : Nat → List DWord → List Byte → List DWord
  | 0, h, _ => h
  | n + 1, h, m => shaBlocks n (shaBlock h (m.take 128)) (m.drop 128)

/-- SHA-512 of a message: 64 bytes. [PRESUMED, log 25] -/
def sha512 (m : List Byte) : List Byte :=
  let p := shaPad m
  (shaBlocks (p.length / 128) shaInit p).flatMap beBytes

/-- The first eight bytes of a SHA-512 as a doubleword, the first byte least significant (R123). -/
def sha512Low (m : List Byte) : DWord :=
  ((sha512 m).take 8).reverse.foldl (fun (a : DWord) b => (a <<< 8) ||| b.setWidth 64) 0

end Sys2Proof.Machine
end

