-- ==== Sys2Proof/Machine/Bof.lean ====
section
/-! DEFINITION. The BOF file (R156 to R163): its sections, its tables, and the structure that the loader checks. -/
namespace Sys2Proof.Machine

/-- A little-endian field of `n` bytes of a file. -/
def fnum (f : List Byte) (a n : Nat) : Nat := leNat ((f.drop a).take n)

/-- A section table entry (R156). -/
structure Sect where
  idx : Nat
  type : Nat
  flags : Nat
  kidx : Nat
  off : Nat
  size : Nat
  va : Nat
  entsz : Nat
  count : Nat
  zero : Bool
  deriving DecidableEq, Repr

/-- Section entry `i` of a table. -/
def sectAt (f : List Byte) (table i : Nat) : Sect :=
  let a := table + 32 * i
  ⟨i, fnum f a 2, fnum f (a + 2) 2, fnum f (a + 4) 2, fnum f (a + 8) 4, fnum f (a + 12) 4, fnum f (a + 16) 8, fnum f (a + 24) 2,
    fnum f (a + 28) 4, fnum f (a + 6) 2 == 0 && fnum f (a + 26) 2 == 0⟩

/-- The body of a section. -/
def Sect.body (x : Sect) (f : List Byte) : List Byte := (f.drop x.off).take x.size

/-- The file offsets of a table's entries. -/
def Sect.entries (x : Sect) : List Nat := (List.range x.count).map fun i => x.off + x.entsz * i

/-- The entry size of a section type, and whether it is per kernel (R157). -/
def typeInfo (t : Nat) : Option (Nat × Bool) :=
  match t with
  | 1 | 2 | 15 => some (0, false)
  | 3 => some (128, false)
  | 4 | 5 | 6 | 8 | 10 => some (8, true)
  | 7 | 16 => some (16, true)
  | 9 => some (32, true)
  | 11 | 12 => some (8, false)
  | 13 => some (16, false)
  | 14 => some (72, false)
  | _ => none

/-- A check of section `i`. -/
def must (i : Nat) (ok : Bool) : Except Nat Unit := if ok then .ok () else .error i

/-- The first of a list of checks that fails. -/
def mustAll : List (Nat × Bool) → Except Nat Unit
  | [] => .ok ()
  | (i, ok) :: rest => if ok then mustAll rest else .error i

/-- Whether a list holds no value twice. -/
def noRepeat (l : List Nat) : Bool := l.eraseDups.length == l.length

/-! ### Header and section table (R156, R157) -/

/-- Whether the header is right. -/
def headerOk (f : List Byte) : Bool :=
  decide (32 ≤ f.length) && fnum f 0 4 == 0x01464F42 && fnum f 4 2 == 1 && fnum f 6 2 == 0 && decide (1 ≤ fnum f 8 2)
    && fnum f 10 2 == 0 && fnum f 12 4 % 8 == 0 && fnum f 18 14 == 0
    && decide (fnum f 12 4 + 32 * fnum f 8 2 ≤ f.length) && decide (fnum f 16 2 < fnum f 8 2)

/-- The sections of a file whose header is right. -/
def sectionsOf (f : List Byte) : List Sect := (List.range (fnum f 8 2)).map (sectAt f (fnum f 12 4))

/-- Whether two spans of bytes share one. -/
def overlaps (a n b m : Nat) : Bool := decide (0 < n) && decide (0 < m) && decide (a < b + m) && decide (b < a + n)

/-- Whether a section entry keeps R156 and R157 by itself; `nk` is the number of kernels. -/
def Sect.entryOk (x : Sect) (f : List Byte) (nk : Nat) : Bool :=
  match typeInfo x.type with
  | none => false
  | some (ent, per) =>
    x.zero && (if x.type = 1 then decide (x.flags ≤ 1) else x.flags == 0)
      && (if per then decide (x.kidx < nk) else x.kidx == 0xFFFF)
      && x.off % 8 == 0 && decide (x.off + x.size ≤ f.length) && (x.type == 2 || x.va == 0)
      && x.entsz == ent && (if ent = 0 then x.count == 0 else x.size == ent * x.count) && (x.type != 1 || x.size % 2 == 0)

/-- Whether a section is clear of the section table and of the earlier sections; it may lie over the header. [DESIGN CHOICE, log 112] -/
def Sect.clear (x : Sect) (f : List Byte) (xs : List Sect) : Bool :=
  !overlaps x.off x.size (fnum f 12 4) (32 * xs.length)
    && !xs.any fun y => decide (y.idx < x.idx) && overlaps x.off x.size y.off y.size

/-- The sections of a type. -/
def ofType (xs : List Sect) (t : Nat) : List Sect := xs.filter fun x => x.type == t

/-- The section of a type and kernel. -/
def ofKernel (xs : List Sect) (t k : Nat) : Option Sect := xs.find? fun x => x.type == t && x.kidx == k

/-! ### Names (R163) -/

/-- Whether bytes are UTF-8. `n` continuation bytes are due, the next between `lo` and `hi`. -/
def utf8Go : Nat → Nat → Nat → List Byte → Bool
  | 0, _, _, [] => true
  | _ + 1, _, _, [] => false
  | n + 1, lo, hi, b :: bs => decide (lo ≤ b.toNat) && decide (b.toNat ≤ hi) && utf8Go n 0x80 0xBF bs
  | 0, _, _, b :: bs =>
    let x := b.toNat
    if x < 0x80 then utf8Go 0 0 0 bs
    else if 0xC2 ≤ x ∧ x ≤ 0xDF then utf8Go 1 0x80 0xBF bs
    else if 0xE0 ≤ x ∧ x ≤ 0xEF then utf8Go 2 (if x = 0xE0 then 0xA0 else 0x80) (if x = 0xED then 0x9F else 0xBF) bs
    else if 0xF0 ≤ x ∧ x ≤ 0xF4 then utf8Go 3 (if x = 0xF0 then 0x90 else 0x80) (if x = 0xF4 then 0x8F else 0xBF) bs
    else false

/-- Whether the body of the STR section is right. -/
def namesOk (str : List Byte) : Bool := str.head? == some 0 && str.getLast? == some 0 && utf8Go 0 0 0 str

/-- Whether an offset is that of a name's first byte, and not 0; the name may be empty. [DESIGN CHOICE, log 112] -/
def nameAt (str : List Byte) (a : Nat) : Bool := decide (1 ≤ a) && decide (a < str.length) && str[a - 1]? == some 0

/-! ### Kernels (R158 to R161) -/

/-- Whether a partition word keeps R63 for at most `most` granules (96 in a file, and for bound work; 95 for open). -/
def partOk (w most : Nat) : Bool :=
  let reg := field w 0 7
  let scr := field w 8 7
  let acc := field w 16 7
  field w 7 1 == 0 && field w 15 1 == 0 && field w 23 9 == 0 && decide (1 ≤ reg) && decide (acc ≤ 64)
    && decide (reg + scr + acc ≤ most)

/-- Whether a queue word keeps R159. -/
def queueWordOk (w : Nat) : Bool :=
  field w 16 16 == 0 && decide (field w 0 7 ≤ 64) && (field w 0 7 != 0 || w == 0)

/-- The fields of a KERN entry at `a` that stand by themselves. -/
def kernOk (f : List Byte) (xs : List Sect) (str : List Byte) (a : Nat) : Bool :=
  let code := xs[fnum f (a + 4) 2]?
  let floor := fnum f (a + 0x0D) 1
  let ceil := fnum f (a + 0x0E) 1
  let width := fnum f (a + 0x0F) 1
  let nbar := fnum f (a + 0x14) 1
  nameAt str (fnum f a 4) && code.any (fun x => x.type == 1 && decide (fnum f (a + 8) 4 < x.size)) && fnum f (a + 6) 2 == 0
    && fnum f (a + 8) 4 % 2 == 0 && decide (1 ≤ floor) && decide (floor ≤ ceil) && decide (ceil ≤ 64)
    && (width == 16 || width == 32 || width == 64) && partOk (fnum f (a + 0x10) 4) 96
    && decide (nbar ≤ 16) && decide (fnum f (a + 0x15) 1 ≤ 64) && fnum f (a + 0x17) 9 == 0
    && (List.range 16).all (fun b => let n := fnum f (a + 0x20 + 2 * b) 2; decide (n ≤ 4096) && (decide (b < nbar) || n == 0))
    && (List.range 8).all (fun n => field (fnum f (a + 0x16) 1) n 1 == 1 || fnum f (a + 0x40 + 4 * n) 4 == 0)
    && (List.range 8).all (fun q => queueWordOk (fnum f (a + 0x60 + 4 * q) 4))

/-- The pairs of 32-bit fields of a table of 8-byte entries. -/
def pairsOf (f : List Byte) (x : Option Sect) : List (Nat × Nat) :=
  x.elim [] fun x => x.entries.map fun a => (fnum f a 4, fnum f (a + 4) 4)

/-- Kernel number `k` of a file loaded at `base`, with digest 0 until it is known. -/
def kernelOf (f : List Byte) (xs : List Sect) (base k a : Nat) : Kern :=
  let code := (xs[fnum f (a + 4) 2]?).getD (sectAt f 0 0)
  { base := BitVec.ofNat 64 (base + code.off)
    len := code.size
    portable := code.flags % 2 == 1
    entry := BitVec.ofNat 32 (fnum f (a + 8) 4)
    depth := fnum f (a + 0x0C) 1
    floor := fnum f (a + 0x0D) 1
    ceil := fnum f (a + 0x0E) 1
    width := fnum f (a + 0x0F) 1
    part := BitVec.ofNat 32 (fnum f (a + 0x10) 4)
    nbar := fnum f (a + 0x14) 1
    nflag := fnum f (a + 0x15) 1
    fmtm := BitVec.ofNat 8 (fnum f (a + 0x16) 1)
    bcnt := (List.range 16).map fun b => fnum f (a + 0x20 + 2 * b) 2
    fmts := (List.range 8).map fun n => BitVec.ofNat 32 (fnum f (a + 0x40 + 4 * n) 4)
    queues := Tab.ofFn fun q => BitVec.ofNat 32 (fnum f (a + 0x60 + 4 * q.val) 4)
    loops := (pairsOf f (ofKernel xs 4 k)).map fun e => (e.1 % 64, e.2)
    waits := pairsOf f (ofKernel xs 5 k)
    targets := pairsOf f (ofKernel xs 6 k)
    passes := (pairsOf f (ofKernel xs 8 k)).map fun e => (e.1, e.2 % 128)
    safes := (ofKernel xs 9 k).elim [] fun x => x.entries.map fun e =>
      (fnum f e 4, BitVec.ofNat 64 (fnum f (e + 8) 8), BitVec.ofNat 128 (fnum f (e + 16) 16))
    strms := (pairsOf f (ofKernel xs 10 k)).map fun e => (e.1, e.2 % 2 == 1)
    xfers := (ofKernel xs 16 k).elim [] fun x => x.entries.map fun e => (fnum f e 4, fnum f (e + 8) 8)
    pins := (ofKernel xs 7 k).elim [] fun x => x.entries.map fun e => (fnum f e 8, fnum f (e + 8) 8)
    digest := 0 }

/-- Whether the site that each entry names holds an instruction of a kind. -/
def sitesHold (ss : List Site) (kind : Instr → Bool) (l : List Nat) : Bool :=
  l.all fun a => (siteAt ss a).any fun x => x.code.any kind

/-- Whether each offset is an instruction boundary (R161). -/
def boundaries (ss : List Site) (l : List Nat) : Bool := l.all fun a => (siteAt ss a).isSome

/-- The checks of a kernel's tables (R161), each with the section that would be reported. [DEDUCED, log 58] -/
def kernTables (f : List Byte) (xs : List Sect) (kern : Sect) (k : Nat) (n : Kern) (ss : List Site) : List (Nat × Bool) :=
  let at_ (t : Nat) := (ofKernel xs t k).elim kern.idx Sect.idx
  let raw (t : Nat) := pairsOf f (ofKernel xs t k)
  let wide (t : Nat) := (ofKernel xs t k).elim [] Sect.entries
  let waits := waitSites n ss
  [(kern.idx, boundaries ss [n.entry.toNat]),
    (at_ 4, (raw 4).all (fun e => decide (e.1 < 64) && decide (1 ≤ e.2)) && noRepeat (n.loops.map Prod.fst)),
    (at_ 5, n.waits.all (fun e => waits.contains e.1 && decide (1 ≤ e.2)) && noRepeat (n.waits.map Prod.fst)),
    (at_ 6, sitesHold ss calliKind (n.targets.map Prod.fst) && boundaries ss (n.targets.map Prod.snd)
      && n.targets.eraseDups.length == n.targets.length
      && n.targets.all fun e => decide ((targetsAt n e.1).length ≤ 64)),
    (at_ 8, sitesHold ss poolKind (n.passes.map Prod.fst) && noRepeat (n.passes.map Prod.fst)
      && (raw 8).all fun e => decide (1 ≤ e.2) && decide (e.2 ≤ 64)),
    (at_ 9, boundaries ss (n.safes.map Prod.fst) && noRepeat (n.safes.map Prod.fst)
      && n.safes.all (fun e => decide (popcount e.2.1 ≤ 16)) && (wide 9).all fun a => fnum f (a + 4) 4 == 0),
    (at_ 10, boundaries ss (n.strms.map Prod.fst) && (raw 10).all fun e => decide (e.2 ≤ 1)),
    (at_ 16, sitesHold ss xferKind (n.xfers.map Prod.fst) && noRepeat (n.xfers.map Prod.fst)
      && n.xfers.all (fun e => decide (1 ≤ e.2)) && (wide 16).all fun a => fnum f (a + 4) 4 == 0)]

/-! ### Graphs (R155, R162) -/

/-- The entries of every section of a type, each with its section. -/
def allEntries (xs : List Sect) (t : Nat) : List (Nat × Nat) := (ofType xs t).flatMap fun x => x.entries.map fun a => (x.idx, a)

/-- Graph number `g` of a file. -/
def graphOfFile (f : List Byte) (xs : List Sect) (g : Nat) : GraphDecl :=
  { stages := ((allEntries xs 12).filter fun e => fnum f e.2 2 == g).map fun e => (fnum f (e.2 + 2) 2, fnum f (e.2 + 4) 2)
    ports := ((allEntries xs 13).filter fun e => fnum f e.2 2 == g).map fun e =>
      ⟨fnum f (e.2 + 2) 2, fnum f (e.2 + 4) 2, fnum f (e.2 + 6) 2 == 1, fnum f (e.2 + 8) 4⟩ }

/-- The checks of the graph sections. [DEDUCED, log 58] -/
def graphChecks (f : List Byte) (xs : List Sect) (str : List Byte) (nk : Nat) : List (Nat × Bool) :=
  let graphs := allEntries xs 11
  let decl (g : Nat) := graphOfFile f xs g
  graphs.map (fun e => (e.1, nameAt str (fnum f e.2 4) && fnum f (e.2 + 4) 4 == 0))
    ++ (allEntries xs 12).map (fun e =>
      let g := fnum f e.2 2
      (e.1, decide (g < graphs.length) && decide (fnum f (e.2 + 4) 2 < nk) && fnum f (e.2 + 6) 2 == 0
        && ((decl g).stages.filter fun s => s.1 == fnum f (e.2 + 2) 2).length == 1))
    ++ (allEntries xs 13).map (fun e =>
      let g := fnum f e.2 2
      let rate := fnum f (e.2 + 8) 4
      let edge := fnum f (e.2 + 4) 2
      let of (out : Bool) := ((decl g).ports.filter fun p => p.edge == edge && p.out == out).length
      (e.1, decide (g < graphs.length) && (decl g).stages.any (fun s => s.1 == fnum f (e.2 + 2) 2)
        && decide (fnum f (e.2 + 6) 2 ≤ 1) && decide (1 ≤ rate) && decide (rate ≤ 65535) && fnum f (e.2 + 12) 4 == 0
        && of true == 1 && of false == 1))

/-! ### The whole structure -/

/-- A file that the loader takes: its sections, its kernels with their CODE sections, and its graphs. -/
structure Bof where
  sects : List Sect
  kerns : List (Kern × Sect)
  graphs : List GraphDecl
  deriving DecidableEq, Repr

/-- The structure of a file at `base` (R156 to R163), or the section that breaks it. The header counts as section 0. [DEDUCED, log 58] -/
def bofOf (f : List Byte) (base : Nat) : Except Nat Bof := do
  must 0 (headerOk f)
  let xs := sectionsOf f
  let strIdx := fnum f 16 2
  let nk := ((ofType xs 3).map Sect.count).sum
  mustAll (xs.map fun x => (x.idx, x.entryOk f nk && x.clear f xs))
  must strIdx ((ofType xs 15).map Sect.idx == [strIdx])
  must 0 ((ofType xs 3).length == 1 && (ofType xs 14).length == 1)
  mustAll (xs.map fun x => (x.idx, !(typeInfo x.type).any (fun t => t.2)
    || (xs.filter fun y => y.type == x.type && y.kidx == x.kidx).length == 1))
  let str := ((ofType xs 15).head?.map fun x => x.body f).getD []
  must strIdx (namesOk str)
  let kern := ((ofType xs 3).head?).getD (sectAt f 0 0)
  mustAll (kern.entries.map fun a => (kern.idx, kernOk f xs str a))
  let codes := kern.entries.map fun a => fnum f (a + 4) 2
  must kern.idx (noRepeat codes)
  mustAll ((ofType xs 1).map fun x => (x.idx, codes.contains x.idx))
  let kerns := (List.range kern.count).map fun k =>
    let a := kern.off + 128 * k
    (kernelOf f xs base k a, (xs[fnum f (a + 4) 2]?).getD kern)
  mustAll ((List.range kern.count).flatMap fun k => match kerns[k]? with
    | some (n, code) => kernTables f xs kern k n (sitesOf (code.body f))
    | none => [])
  mustAll (graphChecks f xs str nk)
  let dgst := allEntries xs 14
  mustAll (dgst.map fun e => (e.1, (ofType xs 1).any (fun x => x.idx == fnum f e.2 2) && fnum f (e.2 + 2) 6 == 0
    && (dgst.filter fun y => fnum f y.2 2 == fnum f e.2 2).length == 1))
  mustAll ((ofType xs 1).map fun x => (((ofType xs 14).head?.map Sect.idx).getD 0, dgst.any fun e => fnum f e.2 2 == x.idx))
  return ⟨xs, kerns, (List.range (allEntries xs 11).length).map (graphOfFile f xs)⟩

/-- The CODE sections whose bytes differ from their digests (R164), the first. -/
def wrongDigest (f : List Byte) (b : Bof) : Option Nat :=
  ((ofType b.sects 1).find? fun x => (allEntries b.sects 14).any fun e =>
    fnum f e.2 2 == x.idx && (sha512 (x.body f) != (f.drop (e.2 + 8)).take 64)).map Sect.idx

end Sys2Proof.Machine
end

