-- ==== Sys2Proof/Machine/Control.lean ====
section
/-! DEFINITION. Branches, loops, calls and group control (R173 to R180). -/
namespace Sys2Proof.Machine

/-- An instruction's own word, as ILLOP and PRIV records carry it (R303). -/
def wordOf (i : Instr) : DWord := (encode i).elim 0 fun c => BitVec.ofNat 64 c.bits

/-- A control instruction's shape: no result. -/
def ctl (st : Nat) (uses : List Nat) : Shape := ⟨true, st, [], uses, [], .other⟩

/-- Each lane of ACT goes to the target or on; a lane that takes a target odd or outside the section faults with ILLOP
(R173). -/
def State.branch (s : State) (x : Ctx) (sh : Shape) (g : Group) (target : Word) (take : Fin 64 → Bool) (word : DWord) : State :=
  let fs := if badTarget (s.codeLen x.c x.gid x.g) target then
      (x.act.list.filter take).map fun p => (⟨p, 0x05, 0, word, 0⟩ : LaneFault)
    else []
  s.finish x sh g (fun p => if take p then target else x.pc + 4) fs

/-- BRC: a conditional branch on a mask (R173). -/
def execBrc (off : BitVec 16) (k : Fin 8) (neg : Bool) (st : Fin 8) (s : State) : Host.Outcome State Fault Refusal :=
  let sh := ctl st.val [keyK k.val]
  s.issue sh fun x s =>
    s.branch x sh x.g (branchTarget x.pc off) (fun p => (x.g.mask k).has p != neg) (wordOf (.brc off k neg st))

/-- BRU: a branch of every lane of ACT on a uniform register (R174), or of a stream. -/
def execBru (off : BitVec 13) (r : Fin 64) (neg : Bool) (st : Fin 8) (s : State) : Host.Outcome State Fault Refusal :=
  let sh : Shape := ⟨true, st.val, [lowS r], [keyS (lowS r)], [], .other⟩
  if s.byStream then s.issueStream sh fun y s =>
    let target := branchTarget y.st.pc off
    if (y.st.s.get (lowS r) != 0) != neg then
      if badTarget y.grid.kern.len target then s.streamFault y 0x05 .other 0 (wordOf (.bru off r neg st)) 0
      else s.finishStream y sh y.st target
    else s.finishStream y sh y.st (y.st.pc + 4)
  else s.issue sh fun x s =>
    s.branch x sh x.g (branchTarget x.pc off) (fun _ => (x.g.s.get (lowS r) != 0) != neg) (wordOf (.bru off r neg st))

/-- Whether a group takes part in a regroup (R30): every lane that has not exited stands in ACT, its queues are empty and
its asynchronous operations have written their tokens. A group in handler mode, or that GSTOP has stopped, takes part too, by its numeric
site. [DESIGN CHOICE, log 110] -/
def State.mayRegroup (s : State) (x : Ctx) : Bool :=
  ((List.finRange 64).all fun p => x.g.lst.get p == .exited || x.g.lst.get p == .vacant || x.act.has p)
    && (List.finRange 8).all (fun q => (x.g.q.get q).isEmpty)
    && !(s.reqs.any fun r => r.uid == x.g.uid && r.core == x.c && r.entry.isSome)
    && x.g.tok == 0 && !(s.tokens.any fun t => t.uid == x.g.uid && t.core == x.c)

/-- BRM: a branch at which groups wait to be regrouped (R30 to R33, R175). -/
def execBrm (off : BitVec 16) (k : Fin 8) (neg : Bool) (st : Fin 8) (s : State) : Host.Outcome State Fault Refusal :=
  let sh := ctl st.val [keyK k.val]
  s.issue sh fun x s =>
    let target := branchTarget x.pc off
    let take (p : Fin 64) : Bool := (x.g.mask k).has p != neg
    if x.g.brm.isSome then s.hold x
    else if !s.mayRegroup x || (badTarget (s.codeLen x.c x.gid x.g) target && x.act.list.any take) then
      s.branch x sh x.g target take (wordOf (.brm off k neg st))
    else
      let s := s.modGroup x.c x.gid fun g =>
        { g with brm := some ⟨x.pc, target, k, neg, 0⟩, polled := true, stall := 1 + sh.st, busy := nextBusy sh g.busy }
      let s := s.modCore x.c fun k => { k with idleCount := -1 }
      let s := s.regroupDue x.c x.g.team false
      (s.teamGroups x.c x.g.team).foldl (fun s i => s.settle x.c i.1) s

/-- BRB: a trip of a counted loop (R37, R176); a stream branches while its count is below the bound (R270). -/
def execBrb (off : BitVec 12) (k : Fin 8) (lid : Fin 64) (st : Fin 8) (s : State) : Host.Outcome State Fault Refusal :=
  let sh := ctl st.val [keyK k.val]
  let word := wordOf (.brb off k lid st)
  if s.byStream then s.issueStream sh fun y s =>
    match y.grid.kern.loops.find? fun e => e.1 == lid.val with
    | none => s.streamFault y 0x05 .other 0 word 0
    | some (_, bound) =>
      if k.val ≠ 7 then s.streamFault y 0x05 .other 0 word 0
      else
        let n := (y.st.loops.get lid).toNat + 1
        let target := branchTarget y.st.pc off
        let stm := { y.st with loops := y.st.loops.set lid (BitVec.ofNat 32 n) }
        if n < bound then
          if badTarget y.grid.kern.len target then s.streamFault y 0x05 .other 0 word 0
          else s.finishStream y sh stm target
        else s.finishStream y sh stm (y.st.pc + 4)
  else s.issue sh fun x s =>
    match s.loopBound x.c x.gid x.g x.grid lid with
    | none => s.faultAll x sh 0x05 0 word 0
    | some bound =>
      let n := (x.g.loops.get lid).toNat + 1
      if bound < n then s.faultAll x sh 0x01 0 0 (BitVec.ofNat 64 lid.val)
      else s.branch x sh { x.g with loops := x.g.loops.set lid (BitVec.ofNat 32 n) } (branchTarget x.pc off)
        (fun p => (x.g.mask k).has p) word

/-- LENTER: a loop counter set to 0 (R176). -/
def execLenter (lid : Fin 64) (st : Fin 8) (s : State) : Host.Outcome State Fault Refusal :=
  let sh := ctl st.val []
  let word := wordOf (.lenter lid st)
  if s.byStream then s.issueStream sh fun y s =>
    if (y.grid.kern.loops.find? fun e => e.1 == lid.val).isNone then s.streamFault y 0x05 .other 0 word 0
    else s.finishStream y sh { y.st with loops := y.st.loops.set lid 0 } (y.st.pc + 4)
  else s.issue sh fun x s =>
    if (s.loopBound x.c x.gid x.g x.grid lid).isNone then s.faultAll x sh 0x05 0 word 0
    else s.finish x sh { x.g with loops := x.g.loops.set lid 0 } (fun _ => x.pc + 4) []

/-- The link register V63 (R177). -/
def link : Fin 64 := 63

/-- The calls of the lanes that pass their checks (R177, R178): the return address in V63, one level deeper, at the
target. -/
def State.callLanes (s : State) (x : Ctx) (sh : Shape) (g : Group) (target : Fin 64 → Word) (fs : List LaneFault) : State :=
  let m := x.act &&& ~~~faultLanes fs
  if m = 0 then s.finish x sh g target fs
  else s.withSlices x sh [link] fun s =>
    let g := g.writeV link m fun _ => x.pc + 4
    s.finish x sh { g with depth := Tab.ofFn fun p => if m.has p then g.depth.get p + 1 else g.depth.get p } target fs

/-- Whether a call would pass the declared depth (R38); in handler mode it always does (R301). -/
def Ctx.tooDeep (x : Ctx) (p : Fin 64) : Bool := x.g.hmode || decide (x.grid.kern.depth ≤ (x.g.depth.get p).toNat)

/-- The DEPTH fault of a lane (R303). -/
def Ctx.depthFault (x : Ctx) (p : Fin 64) : LaneFault :=
  ⟨p, 0x02, 0, BitVec.ofNat 64 (x.g.depth.get p).toNat, BitVec.ofNat 64 (if x.g.hmode then 0 else x.grid.kern.depth)⟩

/-- CALL: a subroutine call (R177). -/
def execCall (off : BitVec 21) (st : Fin 8) (s : State) : Host.Outcome State Fault Refusal :=
  let sh : Shape := ⟨true, st.val, [], [], [(keyV link, 2)], .other⟩
  s.issue sh fun x s =>
    let target := branchTarget x.pc off
    let bad := badTarget (s.codeLen x.c x.gid x.g) target
    s.callLanes x sh x.g (fun _ => target) (x.act.list.filterMap fun p =>
      if x.tooDeep p then some (x.depthFault p)
      else if bad then some ⟨p, 0x05, 0, wordOf (.call off st), 0⟩
      else none)

/-- CALLI: an indirect call of each lane, its target checked against the site's set (R39, R178). -/
def execCalli (a : Fin 64) (la : Bool) (st : Fin 8) (s : State) : Host.Outcome State Fault Refusal :=
  let sh : Shape := ⟨true, st.val, [], [keyV a], [(keyV link, 2)], .other⟩
  s.issue sh fun x s =>
    let target (p : Fin 64) : Word := x.g.readV a p
    let declared (p : Fin 64) : Bool := x.g.hmode || x.grid.kern.targets.any fun e => e.1 == x.pc.toNat && e.2 == (target p).toNat
    s.callLanes x sh (x.g.lastIf a la x.pc) target (x.act.list.filterMap fun p =>
      if !declared p then some ⟨p, 0x01, 0, 1, (target p).setWidth 64⟩
      else if x.tooDeep p then some (x.depthFault p)
      else if badTarget (s.codeLen x.c x.gid x.g) (target p) then some ⟨p, 0x05, 0, wordOf (.calli a la st), 0⟩
      else none)

/-- RET: a return to V63, or the end of a thread at depth 0 (R179). -/
def execRet (st : Fin 8) (s : State) : Host.Outcome State Fault Refusal :=
  let sh := ctl st.val [keyV link]
  s.issue sh fun x s =>
    let top := Lanes.ofFn fun p => x.act.has p && x.g.depth.get p == 0
    let target (p : Fin 64) : Word := x.g.readV link p
    let fs := x.act.list.filterMap fun p =>
      if !top.has p && badTarget (s.codeLen x.c x.gid x.g) (target p) then
        some (⟨p, 0x05, 0, wordOf (.ret st), 0⟩ : LaneFault) else none
    let back := x.act &&& ~~~top &&& ~~~faultLanes fs
    let g := x.g.exitLanes top
    s.finish x sh { g with depth := Tab.ofFn fun p => if back.has p then g.depth.get p - 1 else g.depth.get p }
      (fun p => if top.has p then x.pc else target p) fs

/-- NOP: the lanes of ACT go on (R180). -/
def execNop (st : Fin 8) (s : State) : Host.Outcome State Fault Refusal :=
  let sh := ctl st.val []
  if s.byStream then s.issueStream sh fun y s => s.finishStream y sh y.st (y.st.pc + 4)
  else s.plain sh fun x _ => x.g

/-- RCV: the group switches out while a lane of it is parked (R28). -/
def execRcv (st : Fin 8) (s : State) : Host.Outcome State Fault Refusal :=
  let sh := ctl st.val []
  s.issue sh fun x s =>
    if x.g.inState .parked != 0 then s.switchOut x else s.finish x sh x.g (fun _ => x.pc + 4) []

/-- EXIT: the lanes of ACT exit (R35). -/
def execExit (st : Fin 8) (s : State) : Host.Outcome State Fault Refusal :=
  let sh := ctl st.val []
  s.issue sh fun x s => s.finish x sh (x.g.exitLanes x.act) (fun _ => x.pc) []

/-- The lanes of ACT go on and are delivered as a trap or a breakpoint (R180, R297). [DEDUCED, log 82] -/
def State.trapLanes (s : State) (x : Ctx) (sh : Shape) (kind : DelKind) (code : Byte) : State :=
  s.finishWith x sh x.g (fun _ => x.pc + 4) 0 [⟨kind, 0, x.act, x.pc, true, .other, code, 0, 0, 0, false⟩]

/-- TRAP: delivery to the trap path with a trap code (R180). -/
def execTrap (code : BitVec 8) (st : Fin 8) (s : State) : Host.Outcome State Fault Refusal :=
  let sh := ctl st.val []
  s.issue sh fun x s => s.trapLanes x sh .trap code

/-- BRK: delivery as a breakpoint when CORECTL.DBG is set, else a NOP (R180). -/
def execBrk (st : Fin 8) (s : State) : Host.Outcome State Fault Refusal :=
  let sh := ctl st.val []
  s.issue sh fun x s =>
    if (s.core x.c).corectl.getLsbD 1 then s.trapLanes x sh .brk 0 else s.finish x sh x.g (fun _ => x.pc + 4) []

/-- YIELD: the partition's pointers move past the group (R180, R339). -/
def execYield (st : Fin 8) (s : State) : Host.Outcome State Fault Refusal :=
  let sh := ctl st.val []
  s.issue sh fun x s =>
    let next := s.ringNext x.c x.g.part x.g.age
    let s := s.modCore x.c fun k => { k with ring := k.ring.modify x.g.part fun r => { r with vec := next, non := next } }
    s.finish x sh x.g (fun _ => x.pc + 4) []

end Sys2Proof.Machine
end

