-- ==== Sys2Proof/Machine/Sync.lean ====
section
/-! DEFINITION. Fences, barriers and team flags of groups and streams (R104, R234 to R240, R271), the waits they make
(R40), the bound of a wait, and the window of a BRM (R31). -/
namespace Sys2Proof.Machine

/-! ### Waits -/

/-- Groups of a team that may have been re-formed settle. -/
def State.settleTeam (s : State) (c : Fin 128) (t : Fin 16) : State :=
  (s.teamGroups c t).foldl (fun s i => s.settle c i.1) s

/-- The groups of a team that wait at a BRM are regrouped because a wait begins (R31). -/
def State.beganWait (s : State) (c : Fin 128) (t : Fin 16) : State :=
  if (s.brmSites c t).isEmpty then s else (s.regroupDue c t true).settleTeam c t

/-- Whether the group begins a wait at its instruction: it is not in one there already, but for a token (R31, R40). -/
def Ctx.beginsWait (x : Ctx) : Bool :=
  x.g.wait.all fun w => w.site != x.pc || (match w.on with
    | .token _ => true
    | _ => false)

/-- A wait of R40 not satisfied; as it begins, groups that wait at a BRM are regrouped if it is of a kind that R31
names. [DESIGN CHOICE, log 5] -/
def State.startWait (s : State) (x : Ctx) (on : WaitOn) : State :=
  let fresh := x.beginsWait
  let s := s.waitOn x on
  if fresh then s.beganWait x.c x.g.team else s

/-- The end of an instruction whose lanes of ACT stay where they are, some of them waiting: the deliveries it raises, and
its wait kept. It has issued, and its group issues no other in this cycle (R339). [DESIGN CHOICE, log 5] -/
def State.stay (s : State) (x : Ctx) (sh : Shape) (g : Group) (ds : List Delivery) : State :=
  let s := s.setGroup x.c x.gid (some { g with busy := nextBusy sh g.busy, stall := 1, polled := true, held := none })
  let s := s.modCore x.c fun k => { k with idleCount := -1 }
  (s.deliver x.c x.gid ds).settle x.c x.gid

/-- The wait state of a group that begins or goes on waiting at an address (R40). -/
def Ctx.waitState (x : Ctx) (on : WaitOn) : Option Wait :=
  match x.g.wait with
  | some w => if w.site = x.pc then some { w with on := on } else some ⟨x.pc, 0, on⟩
  | none => some ⟨x.pc, 0, on⟩

/-! ### Fences -/

/-- Whether a lane of ACT has a read that has not returned (R234). -/
def State.readsOut (s : State) (x : Ctx) : Bool := s.reqs.any fun r => r.kind != .store && !r.spent && x.made r

/-- The promotion tags that reads of the group met and that a fence at a scope must promote: of every core at die scope or wider, of
the other core of the pair at team scope (R102, R104). -/
def Ctx.promotes (x : Ctx) (sc : Scope) (t : Fin 128 × Nat) : Bool := scopeWide sc || (sc == .team && t.1 == partner x.c)

/-- Whether a core whose tag an earlier read met has yet to complete the tagging release (R104). -/
def State.metWaits (s : State) (x : Ctx) (sc : Scope) : Bool :=
  x.g.metTags.any fun t => x.promotes sc t && s.tagWaits ⟨0, t.1, t.2⟩ sc

/-- The group after a fence by the lanes of ACT (R104): the tags that it promoted are met, and every later write of these threads is as
a release at its scope. -/
def Ctx.fenced (x : Ctx) (ord : FenceOrd) (sc : Scope) : Group :=
  { x.g with
    metTags := if ord == .rel then x.g.metTags else x.g.metTags.filter fun t => !x.promotes sc t
    fence := if ord == .acq || sc == .thr then x.g.fence
      else Tab.ofFn fun p => if x.act.has p then some sc else x.g.fence.get p }

/-- What follows once a fence of an ordering and a scope is met (R104, R234): earlier reads have returned and the tags that they met
are promoted for .acq, earlier reads and writes have performed at the scope for .rel. -/
def State.fenceMet (s : State) (x : Ctx) (ord : FenceOrd) (sc : Scope) (k : State → State) : State :=
  if ord != .rel && (s.readsOut x || s.metWaits x sc) then s.hold x
  else if ord == .acq then k s
  else s.released x sc k

/-- FENCE: earlier writes complete at the scope, earlier reads returned (R104, R234). -/
def execFence (ord : FenceOrd) (sc : Scope) (st : Fin 8) (s : State) : Host.Outcome State Fault Refusal :=
  let sh := ctl st.val []
  s.issue sh fun x s => s.fenceMet x ord sc fun s => s.finish x sh (x.fenced ord sc) (fun _ => x.pc + 4) []

/-- The XLINVs that threads of ACT issued and that have not completed (R115). [DEDUCED, log 42] -/
def State.xlinvsOf (s : State) (x : Ctx) : List Nat :=
  (s.xlinvs.filter fun v => v.team == x.t.admitted
    && x.act.list.any fun p => v.tids.contains (x.g.tid.get p)).map Xlinv.id

/-- Whether a migration step that privileged threads of ACT commanded, a copy, has not ended (R115, R116). -/
def State.migrating (s : State) (x : Ctx) : Bool :=
  (x.g.priv || x.g.hmode) && s.copies.any fun k => k.phase != .done && k.core == x.c && k.team == x.t.admitted
    && x.act.list.any fun p => k.tids.contains (x.g.tid.get p)

/-- XFENCE: a fence at system scope that also waits for the migration copies and the XLINVs of its threads (R115, R235). The wait timer
starts when only the XLINVs hold it (R40). -/
def execXfence (st : Fin 8) (s : State) : Host.Outcome State Fault Refusal :=
  let sh := ctl st.val []
  s.issue sh fun x s =>
    if s.migrating x then s.hold x
    else s.fenceMet x .ar .sys fun s =>
      if (s.xlinvsOf x).isEmpty then s.finish x sh (x.fenced .ar .sys) (fun _ => x.pc + 4) []
      else s.waitOn x (.xlinv (s.xlinvsOf x))

/-! ### Barriers -/

/-- The arrival of one thread (R237, R238): none for an over-arrival. -/
def Barrier.arriveOne (b : Barrier) (drop : Bool) (tid : BitVec 12) : Option Barrier :=
  if b.arrivedSet.getLsbD tid.toNat || b.droppedSet.getLsbD tid.toNat || decide (b.expect.toNat ≤ b.arrived.toNat) then none
  else
    let bit : BitVec 4096 := 1#4096 <<< tid.toNat
    some { b with
      arrived := b.arrived + 1
      pendDrop := if drop then b.pendDrop + 1 else b.pendDrop
      arrivedSet := if drop then b.arrivedSet else b.arrivedSet ||| bit
      droppedSet := if drop then b.droppedSet ||| bit else b.droppedSet }

/-- The arrivals of lanes in ascending order: the barrier after them, and the lanes that over-arrive. -/
def Barrier.arriveLanes (b : Barrier) (drop : Bool) (tid : Fin 64 → BitVec 12) : List (Fin 64) → Barrier × List (Fin 64)
  | [] => (b, [])
  | p :: ps =>
    match b.arriveOne drop (tid p) with
    | some b => b.arriveLanes drop tid ps
    | none =>
      let (b, excess) := b.arriveLanes drop tid ps
      (b, p :: excess)

/-- Whether the current phase is complete (R236). -/
def Barrier.full (b : Barrier) : Bool := b.expect != 0 && b.arrived == b.expect

/-- The completion of a phase (R236). -/
def Barrier.complete (b : Barrier) : Barrier :=
  { b with
    phase := b.phase + 1
    expect := b.expect - b.pendDrop
    arrived := 0
    pendDrop := 0
    arrivedSet := 0 }

/-- The waits at barriers in every instruction but the one at an address. -/
def Group.otherWaits (g : Group) (pc : Word) : List BarWait := g.barWaits.filter fun w => w.site != pc

/-- The lanes of a group that wait at a barrier leave it (R237): the instruction issues then, and its STALL runs (R125). -/
def Group.leaveBarrier (g : Group) (w : BarWait) : Group :=
  let m := Lanes.ofFn fun p => w.lanes.has p && g.lst.get p == .running && g.lpc.get p == w.site && !g.hlanes.has p
  { g.setLpc m fun _ => w.site + 4 with
    barWaits := g.otherWaits w.site
    polled := false
    stall := max g.stall (1 + w.st)
    wait := match g.wait with
      | some v => if v.site = w.site then none else g.wait
      | none => none }

/-- The wait in a bank's snapshot that a phase has ended. -/
def Bank.endWait (b : Bank) (site : Word) : Bank :=
  { b with snap := { b.snap with wait := match b.snap.wait with
    | some v => if v.site = site then none else b.snap.wait
    | none => none } }

/-- An FWAIT of a group issues as its wait ends (R240): the count of R341 restarts, and the partition's non-vector pointer stands behind the
group (R339). -/
def State.issuedLate (s : State) (c : Fin 128) (p : Fin 4) (age : Nat × Nat) : State :=
  let next := s.ringNext c p age
  s.modCore c fun k => { k with idleCount := -1, ring := k.ring.modify p fun r => { r with non := next, nonUsed := true } }

/-- The waiters of a barrier of a team released on one core. -/
def State.releaseOn (s : State) (c : Fin 128) (t : Fin 16) (b : Fin 16) : State :=
  let waiting := (s.teamGroups c t).flatMap fun (i, g) => (g.barWaits.filter fun w => w.bar == b).map fun w => (i, g, w)
  let s := waiting.foldl (fun s (i, g, w) =>
    let s := s.modGroup c i fun x => x.leaveBarrier w
    match s.bankOf c i g with
    | some k => s.modCore c fun x => { x with banks := x.banks.set g.part (some (k.endWait w.site)) }
    | none => s) s
  let s := waiting.foldl (fun s (i, _, _) => s.settle c i) s
  let s := if waiting.isEmpty then s else s.modCore c fun k => { k with idleCount := -1 }
  [false, true].foldl (fun s copy => match (s.core c).stream copy with
    | some st =>
      if st.team = t then
        let st := if st.bars.get b == .arrived then { st with bars := st.bars.set b .notArrived } else st
        s.setStream c copy (some (if st.barWait = some b then
          { st with barWait := none, wait := none, polled := false, stall := 1 + st.barSt, pc := st.pc + 4 } else st))
      else s
    | none => s) s

/-- A barrier written back, and its phase completed if it is full: every waiter is released in the same step. -/
def State.putBarrier (s : State) (home : Fin 128) (slot : Fin 16) (i : Fin 16) (b : Barrier) : State :=
  let s := s.modTeam home slot fun t => { t with bars := t.bars.set i (if b.full then b.complete else b) }
  if b.full then
    let s := s.releaseOn home slot i
    match s.team home slot with
    | some t => if t.paired then s.releaseOn (partner home) t.mate i else s
    | none => s
  else s

/-- The team's barrier. -/
def State.barrier (s : State) (home : Fin 128) (slot i : Fin 16) : Barrier :=
  ((s.team home slot).map fun t => t.bars.get i).getD ⟨0, 0, 0, 0, 0, 0⟩

/-- Whether the issuing group's code declares a barrier (R236). -/
def Ctx.hasBarrier (x : Ctx) (i : Fin 16) : Bool := !x.g.hmode && decide (i.val < x.grid.kern.nbar)

/-- The BARFLOW fault of a lane (R238, R303). -/
def barflow (i : Fin 16) (phase : Word) (p : Fin 64) : LaneFault :=
  ⟨p, 0x0C, 0, BitVec.ofNat 64 i.val, phase.setWidth 64⟩

/-- The over-arrival of a stream (R271, R273). -/
def State.streamOver (s : State) (y : SCtx) (i : Fin 16) (phase : Word) : State :=
  s.streamFault y 0x0C .other 0 (BitVec.ofNat 64 i.val) (phase.setWidth 64)

/-- An arrival of a stream (R271): one arrival tied to no thread, and a wait for the phase unless `wait` is false. -/
def State.streamArrive (s : State) (y : SCtx) (sh : Shape) (i : Fin 16) (n : Nat) (own drop wait : Bool) (word : DWord) : State :=
  if y.grid.kern.nbar ≤ i.val then s.streamFault y 0x05 .other 0 word 0
  else if y.st.barWait = some i then s.waitStream y (.phase i)
  else s.releasedStream y .team fun s =>
    let b := s.barrier y.home y.slot i
    if (own && y.st.bars.get i != .notArrived) || decide (b.expect.toNat < b.arrived.toNat + n) || (n != 0 && b.expect == 0) then
      s.streamOver y i b.phase
    else
      let b := { b with
        arrived := b.arrived + BitVec.ofNat 13 n
        pendDrop := if drop then b.pendDrop + 1 else b.pendDrop }
      let bars := if own then y.st.bars.set i (if drop then .dropped else .arrived) else y.st.bars
      let s := if wait then s.setStream y.c y.copy (some { y.st with
          bars := bars, barWait := some i, barSt := sh.st, polled := true, held := none, wait := some ⟨y.st.pc, 0, .phase i⟩ })
        else s.finishStream y sh { y.st with bars := bars } (y.st.pc + 4)
      s.putBarrier y.home y.slot i b

/-- The arrivals of ACT's lanes at a barrier without a wait (R237). -/
def State.groupArrive (s : State) (x : Ctx) (sh : Shape) (i : Fin 16) (drop : Bool) (word : DWord) : State :=
  if !x.hasBarrier i then s.faultAll x sh 0x05 0 word 0
  else s.released x .team fun s =>
    let b := s.barrier x.home x.slot i
    let (b', excess) := b.arriveLanes drop x.g.tid.get x.act.list
    let s := s.putBarrier x.home x.slot i b'
    s.finish x sh ((s.group x.c x.gid).getD x.g) (fun _ => x.pc + 4) (excess.map (barflow i b.phase))

/-- A phase that the issuing lanes complete: every waiter is released, and the issuing group, as the release leaves it, waits at this
instruction no longer (R237). -/
def State.completePhase (s : State) (x : Ctx) (i : Fin 16) (b : Barrier) : State × Group :=
  let s := s.setGroup x.c x.gid (some { x.g with barWaits := x.g.otherWaits x.pc })
  let s := s.putBarrier x.home x.slot i b
  (s, (s.group x.c x.gid).getD { x.g with barWaits := x.g.otherWaits x.pc })

/-- Lanes that have arrived and wait for their phase (R237). As the wait begins, groups that wait at a BRM are regrouped (R31). -/
def State.stayWaiting (s : State) (x : Ctx) (sh : Shape) (w : BarWait) (ds : List Delivery) : State :=
  let fresh := x.beginsWait
  let s := s.stay x sh { x.g with barWaits := w :: x.g.otherWaits x.pc, wait := x.waitState (.phase w.bar) } ds
  if fresh then s.beganWait x.c x.g.team else s

/-- BAR: each lane arrives and waits for the phase (R237). -/
def execBar (bar : Fin 16) (st : Fin 8) (s : State) : Host.Outcome State Fault Refusal :=
  let sh := ctl st.val []
  let word := wordOf (.bar bar st)
  if s.byStream then s.issueStream sh fun y s => s.streamArrive y sh bar 1 true false true word
  else s.issue sh fun x s =>
    if !x.hasBarrier bar then s.faultAll x sh 0x05 0 word 0
    else
      let old := x.g.waitersAt x.pc
      let new := x.act &&& ~~~old
      if new = 0 then s.startWait x (.phase bar)
      else s.released x .team fun s =>
        let b := s.barrier x.home x.slot bar
        let (b', excess) := b.arriveLanes false x.g.tid.get new.list
        let bad := Lanes.ofFn fun p => excess.contains p
        let waiters := old ||| (new &&& ~~~bad)
        let ds := deliveriesOf x.pc true .other (excess.map (barflow bar b.phase))
        if waiters = 0 then s.finish x sh x.g (fun _ => x.pc) (excess.map (barflow bar b.phase))
        else if b'.full then
          let (s, g) := s.completePhase x bar b'
          s.finishWith x sh g (fun _ => x.pc + 4) bad ds
        else
          let s := s.putBarrier x.home x.slot bar b'
          s.stayWaiting x sh ⟨bar, x.pc, waiters, st.val⟩ ds

/-- BARA: each lane arrives and goes on (R237). -/
def execBara (bar : Fin 16) (st : Fin 8) (s : State) : Host.Outcome State Fault Refusal :=
  let sh := ctl st.val []
  let word := wordOf (.bara bar st)
  if s.byStream then s.issueStream sh fun y s => s.streamArrive y sh bar 1 true false false word
  else s.issue sh fun x s => s.groupArrive x sh bar false word

/-- BARD: each lane arrives, drops from later phases and goes on (R237). -/
def execBard (bar : Fin 16) (st : Fin 8) (s : State) : Host.Outcome State Fault Refusal :=
  let sh := ctl st.val []
  let word := wordOf (.bard bar st)
  if s.byStream then s.issueStream sh fun y s => s.streamArrive y sh bar 1 true true false word
  else s.issue sh fun x s => s.groupArrive x sh bar true word

/-- BARW: a wait until no thread of ACT has arrived in the current phase, then PHASE (R237). -/
def execBarw (bar : Fin 16) (r : Fin 64) (st : Fin 8) (s : State) : Host.Outcome State Fault Refusal :=
  let sh : Shape := ⟨true, st.val, [lowS r], [], [(keyS (lowS r), 2)], .other⟩
  let word := wordOf (.barw bar r st)
  if s.byStream then s.issueStream sh fun y s =>
    if y.grid.kern.nbar ≤ bar.val then s.streamFault y 0x05 .other 0 word 0
    else if y.st.bars.get bar == .arrived then s.waitStream y (.noArrival bar [])
    else
      let b := s.barrier y.home y.slot bar
      s.finishStream y sh { y.st with s := y.st.s.set (lowS r) (b.phase.setWidth 64) } (y.st.pc + 4)
  else s.issue sh fun x s =>
    if !x.hasBarrier bar then s.faultAll x sh 0x05 0 word 0
    else
      let b := s.barrier x.home x.slot bar
      let tids := x.act.list.map fun p => x.g.tid.get p
      if tids.any fun t => b.arrivedSet.getLsbD t.toNat then s.startWait x (.noArrival bar tids)
      else s.finish x sh (x.g.writeS (lowS r) (b.phase.setWidth 64)) (fun _ => x.pc + 4) []

/-- BARX: a counted number of arrivals tied to no thread, and a wait for their phase (R237, R238). -/
def execBarx (bar : Fin 16) (r : Fin 64) (st : Fin 8) (s : State) : Host.Outcome State Fault Refusal :=
  let sh : Shape := ⟨true, st.val, [lowS r], [keyS (lowS r)], [], .other⟩
  let word := wordOf (.barx bar r st)
  if s.byStream then s.issueStream sh fun y s =>
    s.streamArrive y sh bar (field (y.st.s.get (lowS r)).toNat 0 13) false false true word
  else s.issue sh fun x s =>
    if !x.hasBarrier bar then s.faultAll x sh 0x05 0 word 0
    else
      let old := x.g.waitersAt x.pc
      let new := x.act &&& ~~~old
      let n := field (x.g.s.get (lowS r)).toNat 0 13
      if new = 0 then s.startWait x (.phase bar)
      else s.released x .team fun s =>
        let b := s.barrier x.home x.slot bar
        if b.expect.toNat < b.arrived.toNat + n ∨ (n ≠ 0 ∧ b.expect = 0) then
          let fs := new.list.map (barflow bar b.phase)
          if old = 0 then s.finish x sh x.g (fun _ => x.pc) fs
          else s.stay x sh x.g (deliveriesOf x.pc true .other fs)
        else
          let b' := { b with arrived := b.arrived + BitVec.ofNat 13 n }
          if b'.full then
            let (s, g) := s.completePhase x bar b'
            s.finish x sh g (fun _ => x.pc + 4) []
          else
            let s := s.putBarrier x.home x.slot bar b'
            s.stayWaiting x sh ⟨bar, x.pc, x.act, st.val⟩ []

/-! ### Team flags (R240) -/

/-- The lanes of a group that waits in an FWAIT leave it: the instruction issues then, and its STALL runs (R125, R240). -/
def Group.leaveFlag (g : Group) (site : Word) (st : Nat) : Group :=
  { g.setLpc (g.actAt site) (fun _ => site + 4) with
    wait := none, polled := false, stall := max g.stall (1 + st), busy := nextBusy (ctl st []) g.busy }

/-- The waiters of a flag on one core that see it set: their waits end. -/
def State.flagSeen (s : State) (c : Fin 128) (t : Fin 16) (f : Fin 64) : State :=
  let waits (w : Wait) : Option Nat := match w.on with
    | .flag g st => if g = f then some st else none
    | _ => none
  let s := (s.teamGroups c t).foldl (fun s (i, g) => match g.wait.bind fun w => (waits w).map fun st => (w.site, st) with
    | some (site, st) => if g.hmode then s else ((s.modGroup c i fun g => g.leaveFlag site st).issuedLate c g.part g.age).settle c i
    | none => s) s
  [false, true].foldl (fun s copy => match (s.core c).stream copy with
    | some y =>
      match y.wait.bind waits with
      | some st =>
        if y.team = t then
          s.setStream c copy (some { y with wait := none, polled := false, pc := y.pc + 4, stall := 1 + st })
        else s
      | none => s
    | none => s) s

/-- A flag of a team set or cleared; those that wait for it set see it. -/
def State.putFlag (s : State) (home : Fin 128) (slot : Fin 16) (f : Fin 64) (v : Bool) : State :=
  let bit : BitVec 64 := 1#64 <<< f.val
  let s := s.modTeam home slot fun t => { t with flags := if v then t.flags ||| bit else t.flags &&& ~~~bit }
  if v then
    let s := s.flagSeen home slot f
    match s.team home slot with
    | some t => if t.paired then s.flagSeen (partner home) t.mate f else s
    | none => s
  else s

/-- Whether a team's flag is 1. -/
def State.flag (s : State) (home : Fin 128) (slot : Fin 16) (f : Fin 64) : Bool :=
  ((s.team home slot).map fun t => t.flags.getLsbD f.val).getD false

/-- Whether the issuing group's code declares a flag (R236). -/
def Ctx.hasFlag (x : Ctx) (f : Fin 64) : Bool := !x.g.hmode && decide (f.val < x.grid.kern.nflag)

/-- A write of a team flag, a release at team scope. -/
def State.writeFlag (s : State) (sh : Shape) (f : Fin 64) (v : Bool) (word : DWord) : Host.Outcome State Fault Refusal :=
  if s.byStream then s.issueStream sh fun y s =>
    if y.grid.kern.nflag ≤ f.val then s.streamFault y 0x05 .other 0 word 0
    else s.releasedStream y .team fun s =>
      (s.finishStream y sh y.st (y.st.pc + 4)).putFlag y.home y.slot f v
  else s.issue sh fun x s =>
    if !x.hasFlag f then s.faultAll x sh 0x05 0 word 0
    else s.released x .team fun s =>
      let s := s.putFlag x.home x.slot f v
      s.finish x sh ((s.group x.c x.gid).getD x.g) (fun _ => x.pc + 4) []

/-- FSET: the flag becomes 1 (R240). -/
def execFset (flag : Fin 64) (st : Fin 8) (s : State) : Host.Outcome State Fault Refusal :=
  s.writeFlag (ctl st.val []) flag true (wordOf (.fset flag st))

/-- FCLR: the flag becomes 0 (R240). -/
def execFclr (flag : Fin 64) (st : Fin 8) (s : State) : Host.Outcome State Fault Refusal :=
  s.writeFlag (ctl st.val []) flag false (wordOf (.fclr flag st))

/-- FWAIT: a wait until the flag is 1 (R240). -/
def execFwait (flag : Fin 64) (st : Fin 8) (s : State) : Host.Outcome State Fault Refusal :=
  let sh := ctl st.val []
  let word := wordOf (.fwait flag st)
  if s.byStream then s.issueStream sh fun y s =>
    if y.grid.kern.nflag ≤ flag.val then s.streamFault y 0x05 .other 0 word 0
    else if s.flag y.home y.slot flag then s.finishStream y sh y.st (y.st.pc + 4)
    else s.waitStream y (.flag flag st.val)
  else s.issue sh fun x s =>
    if !x.hasFlag flag then s.faultAll x sh 0x05 0 word 0
    else if s.flag x.home x.slot flag then s.finish x sh x.g (fun _ => x.pc + 4) []
    else s.startWait x (.flag flag st.val)

/-! ### The bound of a wait, and the window of a BRM -/

/-- Whether the streams of a team run on neither core (R272). -/
def State.streamsIdle (s : State) (c : Fin 128) (t : Fin 16) (team : Team) : Bool :=
  let idle (c : Fin 128) (t : Fin 16) : Bool := [false, true].all fun copy =>
    match (s.core c).stream copy with
    | some st => st.team != t
    | none => true
  idle c t && (!team.paired || idle (partner c) team.mate)

/-- Where a die's work-queue entry stands (R352). -/
def State.workEntry (s : State) (d : Fin 4) (i : Nat) : Nat := field (s.die d).wqtab.toNat 16 32 * 65536 + 64 * i

/-- Whether the condition of a wait holds now (R40): a wait satisfied in the cycle its bound expires is satisfied. -/
def State.satisfied (s : State) (c : Fin 128) (home : Fin 128) (slot : Fin 16) (t : Team) (tslot : Fin 16) (space : Word)
    (q : Fin 8 → List QEntry) (tok : BitVec 128) (streamBar : Fin 16 → Bool) : WaitOn → Bool
  | .phase _ => false
  | .noArrival b ts =>
    !(streamBar b) && !(ts.any fun t => (s.barrier home slot b).arrivedSet.getLsbD t.toNat)
  | .flag f _ => s.flag home slot f
  | .counter va target => match (s.translate c space va .load .core).1 with
    | .ok pa _ => decide (target.toNat ≤ s.pnum pa 8)
    | _ => false
  | .queue n cnt => decide (((q n).filter fun e => (e.lanes &&& ~~~e.filled) != 0).length ≤ cnt)
  | .token rs => !(rs.any fun r => tok.getLsbD r.val)
  | .work h =>
    let e := s.workEntry (dieOf c) (field h.toNat 0 16)
    decide (s.pnum (e + 8) 4 ≠ s.pnum (e + 12) 4)
  | .streams => s.streamsIdle c tslot t
  | .xlinv ids => !(s.xlinvs.any fun v => ids.contains v.id)

/-- Whether a core is up, so that it serves a deadline that has expired: one that is gated wakes first (R369). -/
def State.awake (s : State) (c : Fin 128) : Bool := (s.core c).power == .active

/-- WAIT_TIMEOUT: a declared bound has elapsed with the wait unsatisfied; every lane in ACT faults with WAITOUT (R40). -/
def execWaitTimeout (who : Agent) (s : State) : Host.Outcome State Fault Refusal :=
  match who with
  | .group c gid =>
    match s.ctxOf c gid with
    | none => .next s
    | some x =>
      match x.g.wait with
      | none => .next s
      | some w =>
        match s.waitBound c gid x.g x.grid w.site with
        | none => .next s
        | some bound =>
          if w.site = x.pc ∧ (bound : Int) ≤ w.elapsed ∧ s.awake c = true
              ∧ s.satisfied c x.home x.slot x.t x.g.team (s.spaceOf c x.g) x.g.q.get x.g.tok (fun _ => false) w.on = false then
            let sh : Shape := { ctl 0 [] with wide := s.siteWide c gid x.g w.site }
            .next (s.finish x sh { x.g with barWaits := x.g.otherWaits x.pc } (fun p => x.g.lpc.get p)
              (x.all 0x03 0 (BitVec.ofNat 64 w.elapsed.toNat) (BitVec.ofNat 64 bound)))
          else .next s
  | .stream c copy =>
    match ({ s with cur := some (.stream c copy) }).sctx with
    | none => .next s
    | some y =>
      match y.st.wait with
      | none => .next s
      | some w =>
        match (y.grid.kern.waits.find? fun e => e.1 == w.site.toNat).map Prod.snd with
        | none => .next s
        | some bound =>
          if (bound : Int) ≤ w.elapsed ∧ s.awake c = true ∧ s.satisfied c y.home y.slot y.t y.st.team y.grid.space (fun _ => []) y.st.tok
              (fun b => y.st.bars.get b == .arrived) w.on = false then
            .next (s.streamFault y 0x03 .other 0 (BitVec.ofNat 64 w.elapsed.toNat) (BitVec.ofNat 64 bound) (s.streamBits y % 2 == 1))
          else .next s

/-- BRM_WINDOW_EXPIRY: 256 core cycles have passed since the first group of a team began to wait at a BRM; the groups
waiting there are regrouped (R31). -/
def execBrmWindowExpiry (core : Fin 128) (slot : Fin 16) (s : State) : Host.Outcome State Fault Refusal :=
  let due := (((s.teamGroups core slot).filterMap fun x => x.2.brm).filter fun b => decide (256 ≤ b.elapsed)).map BrmWait.site
  .next (if due.isEmpty || !s.awake core then s else ((due.eraseDups).foldl (fun s a => s.regroupAt core slot a) s).settleTeam core slot)

end Sys2Proof.Machine
end

