-- ==== Sys2Proof/Machine/Copy.lean ====
section
/-! DEFINITION. Copies, counters and peer transfers as instructions start them (R109 to R111, R241 to R249). -/
namespace Sys2Proof.Machine

/-- Whether a copy waits for a completion from outside the package. -/
def Copy.isAway (k : Copy) : Bool :=
  match k.phase with
  | .atPeer _ => true
  | _ => false

/-! ### Who issues: a group or a stream -/

/-- The issuer of a copy or counter instruction, a group or a stream, as its checks see it. `makers` is the threads of ACT with their
positions. -/
structure Caller where
  c : Fin 128
  uid : Nat
  gid : Fin 128
  tid : BitVec 12
  makers : List (BitVec 12 × Fin 64)
  pos : Fin 64
  slot : Fin 16
  t : Team
  home : Fin 128
  hslot : Fin 16
  grid : Grid
  space : Word
  site : Word
  stream : Bool
  native : Bool
  deriving DecidableEq, Repr

/-- A group as the caller of an instruction that executes once per issue. -/
def State.callerOf (s : State) (x : Ctx) : Caller :=
  ⟨x.c, x.g.uid, x.gid, x.g.tid.get x.act.first, x.act.list.map fun p => (x.g.tid.get p, p), x.act.first, x.g.team, x.t, x.home, x.slot, x.grid, s.spaceOf x.c x.g, x.pc, false,
    x.g.hmode⟩

/-- A stream as a caller. -/
def SCtx.caller (y : SCtx) : Caller :=
  ⟨y.c, y.st.uid, 0, 0, [], 0, y.st.team, y.t, y.home, y.slot, y.grid, y.grid.space, y.st.pc, true, false⟩

/-- The BYTES of the site's XFER entry, if it has one (R152); handler sections have no entries. -/
def Caller.xfer (k : Caller) : Option Nat :=
  if k.native then none else (k.grid.kern.xfers.find? fun e => e.1 == k.site.toNat).map Prod.snd

/-- A fault that every lane of ACT, or the stream, reports: the code with its details. -/
structure Failed where
  code : Byte
  va : DWord
  d0 : DWord
  d1 : DWord
  deriving DecidableEq, Repr

/-- The outcome of an instruction's checks: the lowest code of those that hold (R9). -/
def firstFailed (fs : List (Bool × Failed)) : Option Failed := (fs.find? fun f => f.1).map Prod.snd

/-! ### Per-thread copies (R241 to R243) -/

/-- A copy block as S[b] to S[b+3] hold it (R241). -/
structure CopyBlock where
  src : DWord
  dst : DWord
  w2 : Nat
  w3 : Nat
  deriving DecidableEq, Repr

/-- The copy block at a register. -/
def Group.copyBlock (g : Group) (sb : Fin 128) : CopyBlock :=
  ⟨g.s.get sb, g.s.get (nextS sb 1), (g.s.get (nextS sb 2)).toNat, (g.s.get (nextS sb 3)).toNat⟩

/-- Fields of a copy block. -/
def CopyBlock.bytes (b : CopyBlock) : Nat := field b.w2 0 13
def CopyBlock.srcp (b : CopyBlock) : Bool := field b.w2 13 1 == 1
def CopyBlock.dstp (b : CopyBlock) : Bool := field b.w2 14 1 == 1
def CopyBlock.stride (b : CopyBlock) : DWord := BitVec.ofNat 64 (field b.w3 0 32)

/-- Whether a copy block breaks the first check of R242. -/
def CopyBlock.bad (b : CopyBlock) : Bool := field b.w2 15 49 != 0 || field b.w3 32 32 != 0 || decide (4096 < b.bytes)

/-- The fault of one lane's copy (R242), PERM ahead of ALIGN (R9). -/
def copyFault (grid : Grid) (b : CopyBlock) (src dst : DWord) (p : Fin 64) : Option LaneFault :=
  let past (pool : Bool) (a : DWord) : Bool := pool && decide (grid.scratchBytes < a.toNat + b.bytes)
  if past b.srcp src then some ⟨p, 0x08, src, plainDetail 0x08, 0⟩
  else if past b.dstp dst then some ⟨p, 0x08, dst, plainDetail 0x08, 0⟩
  else if src.toNat % 4 ≠ 0 ∨ b.bytes % 4 ≠ 0 then some ⟨p, 0x0A, src, 0, 0⟩
  else if dst.toNat % 4 ≠ 0 then some ⟨p, 0x0A, dst, 0, 0⟩
  else none

/-- CPY, CPYG and CPYS: a copy for each lane, its addresses by form (R242, R243). [DESIGN CHOICE, log 9] -/
def State.laneCopies (s : State) (sh : Shape) (ds a : Fin 64) (sb : Fin 128) (la : Bool) (word : DWord)
    (srcOf dstOf : CopyBlock → DWord → Nat → DWord) : Host.Outcome State Fault Refusal :=
  s.issue sh fun x s =>
    let b := x.g.copyBlock sb
    if s.acquiring x then s.hold x
    else if b.bad then s.faultAll x sh 0x05 0 word 0
    else
      let idx (p : Fin 64) : DWord := (x.g.readV a p).signExtend 64
      let src (p : Fin 64) : DWord := srcOf b (idx p) (x.g.tid.get p).toNat
      let dst (p : Fin 64) : DWord := dstOf b (idx p) (x.g.tid.get p).toNat
      let fs := x.act.list.filterMap fun p => copyFault x.grid b (src p) (dst p) p
      let good := x.act.list.filter fun p => (copyFault x.grid b (src p) (dst p) p).isNone
      let (tok, s) := s.newId
      let copies := good.map fun p =>
        (⟨s.nextId + p.val, x.c, x.g.uid, x.gid, x.t.admitted, x.g.tid.get p, [x.g.tid.get p], p, x.g.team, s.spaceOf x.c x.g, x.pc,
          .lane (src p) (dst p) b.bytes b.srcp b.dstp, 0, 0, 0, tok, none, if b.bytes = 0 then .done else .moving, [], none, none⟩ : Copy)
      let s : State := { s with copies := s.copies ++ copies, nextId := s.nextId + 64 }
      let g := x.g.lastIf a la x.pc
      if good.isEmpty then s.finish x sh g (fun _ => x.pc + 4) fs
      else if b.bytes = 0 then s.finish x sh (g.writeS (lowS ds) 0) (fun _ => x.pc + 4) fs
      else
        let s : State := { s with tokens := s.tokens ++ [⟨tok, x.c, x.g.uid, x.gid, false, lowS ds, false⟩] }
        s.finish x sh { g with tok := g.tok ||| (1#128 <<< ds.val) } (fun _ => x.pc + 4) fs

/-- The shape of a copy instruction. -/
def copyShape (st : Nat) (ds a : Fin 64) (sb : Fin 128) : Shape :=
  let rs := (List.range 4).map fun i => nextS sb i
  ⟨true, st, lowS ds :: rs, keyV a :: rs.map keyS, [], .other⟩

/-- CPY: both addresses offset by the index (R242). -/
def execCpy (ds a : Fin 64) (sb : Fin 128) (la : Bool) (st : Fin 8) (s : State) : Host.Outcome State Fault Refusal :=
  s.laneCopies (copyShape st.val ds a sb) ds a sb la (wordOf (.cpy ds a sb la st))
    (fun b i _ => b.src + i) (fun b i _ => b.dst + i)

/-- CPYG: a gather into a thread-strided destination (R242). -/
def execCpyg (ds a : Fin 64) (sb : Fin 128) (la : Bool) (st : Fin 8) (s : State) : Host.Outcome State Fault Refusal :=
  s.laneCopies (copyShape st.val ds a sb) ds a sb la (wordOf (.cpyg ds a sb la st))
    (fun b i _ => b.src + i) (fun b _ t => b.dst + BitVec.ofNat 64 t * b.stride)

/-- CPYS: a scatter from a thread-strided source (R242). -/
def execCpys (ds a : Fin 64) (sb : Fin 128) (la : Bool) (st : Fin 8) (s : State) : Host.Outcome State Fault Refusal :=
  s.laneCopies (copyShape st.val ds a sb) ds a sb la (wordOf (.cpys ds a sb la st))
    (fun b _ t => b.src + BitVec.ofNat 64 t * b.stride) (fun b i _ => b.dst + i)

/-- Whether a copy is in the open set of one of these threads (R110). -/
def Copy.openFor (k : Copy) (x : Ctx) (ps : List (Fin 64)) : Bool :=
  (match k.job with
    | .lane _ _ _ _ _ => true
    | _ => false) && k.core == x.c && k.slot == x.g.team && k.batchTok.isNone && ps.any fun p => x.g.tid.get p == k.tid

/-- CSEAL: each thread's open set becomes its next batch, whose token is S[b] (R110, R244). -/
def execCseal (b : Fin 128) (st : Fin 8) (s : State) : Host.Outcome State Fault Refusal :=
  let sh : Shape := ⟨true, st.val, [b], [], [], .other⟩
  s.issue sh fun x s =>
    let full (p : Fin 64) : Bool := x.g.batch.get p == 0xFFFFFFFF
    let fs := (x.act.list.filter full).map fun p => (⟨p, 0x01, 0, 4, 0⟩ : LaneFault)
    let good := x.act.list.filter fun p => !full p
    let (tok, s) := s.newId
    let any := s.copies.any fun k => k.openFor x good
    let s : State := { s with copies := s.copies.map fun k => if k.openFor x good then { k with batchTok := some tok } else k }
    let g := { x.g with batch := Tab.ofFn fun p => if good.contains p then x.g.batch.get p + 1 else x.g.batch.get p }
    if good.isEmpty then s.finish x sh g (fun _ => x.pc + 4) fs
    else if any then
      let s : State := { s with tokens := s.tokens ++ [⟨tok, x.c, x.g.uid, x.gid, false, b, true⟩] }
      s.finish x sh { g with tok := g.tok ||| (1#128 <<< b.val) } (fun _ => x.pc + 4) fs
    else s.finish x sh (g.writeS b 0) (fun _ => x.pc + 4) fs

/-! ### Descriptors in scratch -/

/-- A doubleword of scratch. -/
def State.scratchWord (s : State) (k : Caller) (o : Nat) : DWord := BitVec.ofNat 64 (s.scratchNum k.c k.t o 8)

/-- A descriptor's place: PERM when it does not lie wholly in scratch, ALIGN when it is misplaced (R246, R249), ECCU when
it holds an uncorrectable error. -/
def State.descriptor (s : State) (k : Caller) (addr : DWord) (n : Nat) : Option Failed × State :=
  if k.grid.scratchBytes < addr.toNat + n then (some ⟨0x08, addr, plainDetail 0x08, 0⟩, s)
  else if addr.toNat % n ≠ 0 then (some ⟨0x0A, addr, 0, 0⟩, s)
  else
    let l := s.scratchLoc k.c k.t addr.toNat
    match s.consume (dieOf l.1) 0 l.1 l.2 n (some (k.gid.val, k.grid.space)) with
    | (true, s) => (some ⟨0x11, addr, 0, 0⟩, s)
    | (false, s) => (none, s)

/-! ### Bulk copies (R245, R246) -/

/-- The bulk descriptor at a scratch offset, with its reserved bits. -/
def State.bulkAt (s : State) (k : Caller) (o : Nat) : BulkDesc × Bool :=
  let w (i : Nat) : Nat := (s.scratchWord k (o + i)).toNat
  let f := w 0x38
  (⟨s.scratchWord k o, s.scratchWord k (o + 8), field (w 0x10) 0 32, field (w 0x10) 32 32, field (w 0x18) 0 32, field (w 0x18) 32 32,
    s.scratchWord k (o + 0x20), s.scratchWord k (o + 0x28), s.scratchWord k (o + 0x30), 2 ^ field f 0 2, field f 2 1 == 1,
    field f 3 1 == 1, field f 4 6 + 1⟩, field f 10 54 != 0)

/-- The cause and detail of a bulk transfer's BOUND (R303). -/
def bulkBound (k : Nat) : Failed := ⟨0x01, 0, 5, BitVec.ofNat 64 k⟩

/-- The checks of an opening CBULK (R246), lowest code first (R9). [DEDUCED, log 40] -/
def bulkChecks (k : Caller) (d : BulkDesc) (reserved : Bool) (slice : Nat) (nopen : Nat) (word : DWord) : Option Failed :=
  let excess := match k.xfer with
    | some b => decide (b < d.rows * d.rowb)
    | none => false
  let misaligned := d.src.toNat % d.esz != 0 || d.dst.toNat % d.esz != 0 || d.sstr % d.esz != 0 || d.dstr % d.esz != 0
    || d.rowb % d.esz != 0 || d.cnt.toNat % 8 != 0 || d.stat.toNat % 8 != 0
  firstFailed [(decide (4 ≤ nopen) || decide (d.nsl ≤ slice) || excess, bulkBound slice), (reserved, ⟨0x05, 0, word, 0⟩),
    (misaligned, ⟨0x0A, 0, 0, 0⟩)]

/-- A copy that a caller starts. -/
def Caller.copy (k : Caller) (id : Nat) (job : CopyJob) (token : Nat) (phase : CopyPhase) : Copy :=
  ⟨id, k.c, k.uid, k.gid, k.t.admitted, k.tid, k.makers.map Prod.fst, k.pos, k.slot, k.space, k.site, job, 0, 0, 0, token, none, phase, [], none, none⟩

/-- An open transfer with a slice arrived: kept open, or closed and its copy started (R246). -/
def State.bulkArrive (s : State) (k : Caller) (b : BulkOpen) (slice : Nat) : State :=
  let b := { b with arrived := b.arrived ||| (1#64 <<< slice) }
  let rest (t : Team) : List BulkOpen := t.bulks.filter fun o => o.desc != b.desc
  if popcount b.arrived = b.body.nsl then
    let s := s.modTeam k.home k.hslot fun t => { t with bulks := rest t }
    let (id, s) := s.newId
    let phase : CopyPhase := if b.body.rows = 0 ∨ b.body.rowb = 0 then .status else .moving
    { s with copies := s.copies ++ [k.copy id (.bulk b.body b.scope) 0 phase] }
  else s.modTeam k.home k.hslot fun t => { t with bulks := rest t ++ [b] }

/-- CBULK's effect for a caller (R246): its fault, or the state with the slice arrived. -/
def State.bulk (s : State) (k : Caller) (sc : Scope) (addr : DWord) (slice : Nat) (word : DWord) : Except Failed State :=
  let bulks := ((s.team k.home k.hslot).map Team.bulks).getD []
  match bulks.find? fun b => b.desc == addr.toNat with
  | some b => if b.body.nsl ≤ slice then .error (bulkBound slice) else .ok (s.bulkArrive k b slice)
  | none =>
    match s.descriptor k addr 64 with
    | (some f, _) => .error (if f.code != 0x11 && decide (4 ≤ bulks.length) then bulkBound slice else f)
    | (none, s) =>
      let (d, reserved) := s.bulkAt k addr.toNat
      match bulkChecks k d reserved slice bulks.length word with
      | some f => .error f
      | none => .ok (s.bulkArrive k ⟨addr.toNat, sc, d, 0⟩ slice)

/-- The end of an instruction that executes once per issue: its fault for every lane of ACT, or its effect. [DEDUCED, log 93] -/
def State.oncePerIssue (s : State) (x : Ctx) (sh : Shape) (g : Group) (r : Except Failed State) : State :=
  match r with
  | .error f => s.faultAll x sh f.code f.va f.d0 f.d1
  | .ok s => s.finish x sh g (fun _ => x.pc + 4) []

/-- The same for a stream. -/
def State.onceInStream (s : State) (y : SCtx) (sh : Shape) (st : Stream) (r : Except Failed State) : State :=
  match r with
  | .error f => s.streamFault y f.code sh.acc f.va f.d0 f.d1
  | .ok s => s.finishStream y sh st (y.st.pc + 4)

/-- Whether a stream may issue the copy stream's instructions (R269). -/
def SCtx.mayCopy (y : SCtx) : Bool := y.copy

/-- CBULK: a slice of a bulk transfer (R246). -/
def execCbulk (sc : Scope) (a b : Fin 128) (st : Fin 8) (s : State) : Host.Outcome State Fault Refusal :=
  let sh : Shape := ⟨true, st.val, [a, b], [keyS a, keyS b], [], .other⟩
  let word := wordOf (.cbulk sc a b st)
  if s.byStream then s.issueStream sh fun y s =>
    if !y.mayCopy then s.streamFault y 0x05 .other 0 word 0
    else s.onceInStream y sh y.st (s.bulk y.caller sc (y.st.s.get a) (field (y.st.s.get b).toNat 0 6) word)
  else s.issue sh fun x s =>
    if s.acquiring x then s.hold x
    else s.oncePerIssue x sh x.g (s.bulk (s.callerOf x) sc (x.g.s.get a) (field (x.g.s.get b).toNat 0 6) word)

/-! ### Counters (R111, R247) -/

/-- The request of a counter instruction. -/
def Caller.counterReq (k : Caller) (id : Nat) (kind : AccKind) (va : DWord) (sc : Scope) (data : DWord) (pa xl : Nat) (ph : ReqPhase)
    (now : DWord) : Req :=
  { id := id, push := id, kind := kind, aop := .exch, add64 := true, core := k.c, uid := k.uid, gid := k.gid, team := k.t.admitted
    pos := k.pos, tid := k.tid, tids := k.makers.map Prod.fst, space := k.space, va := va, pa := pa, xl := xl, entry := none, scope := sc
    acq := kind == .load, rel := kind == .store, tagScope := if kind == .store then some sc else none, data := data, data2 := 0
    promoted := false, phase := ph, since := now }

/-- A replay entry of stores made once per issue: a caller's counter add, or the pieces of a record (R106). -/
def State.replayOne (s : State) (k : Caller) (sc : Scope) (lanes : List ReplayLane) (va : DWord) (h : Hit) : State :=
  let (id, s) := s.newId
  let add (s : State) (recId : Nat) (page : PageId) : State := s.modCore k.c fun q =>
    q.queueReplay ⟨id, recId, k.uid, k.t.admitted, k.gid, page, k.site, none, sc, true, some sc, k.makers, k.stream, lanes⟩
  match h with
  | .onRecord r => add s r (((s.core k.c).pageOf r).getD (unitPage k.space va.toNat))
  | .onPage page code level frame =>
    let (recId, s) := s.replayRecord k.c k.uid k.gid page (replayAccess (lanes.any ReplayLane.isAdd)) code k.site va
      (if k.stream then 0 else Lanes.one k.pos) k.tid (k.tid.toNat % 64) level frame
    add s recId page
  | _ => s

/-- CNTADD: a saturating add to a counter, a release at its scope (R247). -/
def execCntadd (sc : Scope) (a b : Fin 128) (st : Fin 8) (s : State) : Host.Outcome State Fault Refusal :=
  let sh : Shape := ⟨true, st.val, [a, b], [keyS a, keyS b], [], .atomic⟩
  if s.byStream then s.issueStream sh fun y s =>
    if !y.mayCopy then s.streamFault y 0x05 .other 0 (wordOf (.cntadd sc a b st)) 0
    else
      let mark := y.st.held.getD s.nextId
      if sc != .thr && (s.core y.c).replayBefore mark then
        s.setStream y.c y.copy (some { y.st with polled := true, held := some mark })
      else
        let va := y.st.s.get a
        let k := y.caller
        let (h, s) := s.laneHit y.c k.uid k.space .atomic 8 0 va
        let (id, s) := s.newId
        let send (pa xl : Nat) (ph : ReqPhase) : State :=
          ({ s with reqs := s.reqs ++ [k.counterReq id .store va sc (y.st.s.get b) pa xl ph s.reft] }).finishStream y sh y.st (y.st.pc + 4)
        match h with
        | .bad f => s.streamFault y f.code .atomic f.va f.d0 f.d1
        | .sent pa u => send pa u .sent
        | .frozen pa => send pa 0 .frozen
        | h => if (s.core y.c).recordsWait h.page.toList.length || decide (64 ≤ (s.core y.c).replay.length) then s.holdStream y
          else (s.replayOne k sc [⟨k.tid, k.pos, va, y.st.s.get b, 8, true⟩] va h).finishStream y sh y.st (y.st.pc + 4)
  else s.issue sh fun x s => s.afterReplays x sc fun s =>
    let va := x.g.s.get a
    let k := s.callerOf x
    let (h, s) := s.laneHit x.c x.g.uid k.space .atomic 8 k.pos va
    let (id, s) := s.newId
    let send (pa xl : Nat) (ph : ReqPhase) : State :=
      ({ s with reqs := s.reqs ++ [k.counterReq id .store va sc (x.g.s.get b) pa xl ph s.reft] }).finish x sh x.g (fun _ => x.pc + 4) []
    match h with
    | .bad f => s.faultAll x sh f.code f.va f.d0 f.d1
    | .sent pa u => send pa u .sent
    | .frozen pa => send pa 0 .frozen
    | h =>
      if (s.core x.c).recordsWait h.page.toList.length || decide (64 ≤ (s.core x.c).replay.length) then s.hold x
      else (s.replayAll x (fun _ => va) (fun _ => x.g.s.get b) 8 true none sc true [(k.pos, h)]).finish x sh x.g (fun _ => x.pc + 4) []

/-- The read of a counter that a wait has sent from a site, if one is out. -/
def State.counterRead (s : State) (k : Caller) (va : DWord) : Option Req :=
  s.reqs.find? fun r => r.core == k.c && r.uid == k.uid && r.entry.isNone && r.kind == .load && r.va == va
    && r.data == k.site.setWidth 64

/-- What a counter wait comes to: satisfied, unsatisfied, an error in the counter, or a fault or park of its read. -/
inductive CountWait where
  | met (s : State)
  | wait (s : State)
  | ecc (s : State)
  | hit (h : Hit) (s : State)

/-- One look at a counter (R247): the read is sent, and its value is compared once it has performed; an unmet target sends
the next read. -/
def State.lookCounter (s : State) (k : Caller) (sc : Scope) (va target : DWord) : CountWait :=
  match s.counterRead k va with
  | some r =>
    match r.phase with
    | .done v ue =>
      let s := s.dropReq r.id
      if ue then .ecc s else if target.toNat ≤ v.toNat then .met s else .wait s
    | _ => .wait s
  | none =>
    let (h, s) := s.laneHit k.c k.uid k.space .load 8 k.pos va
    let (id, s) := s.newId
    match h with
    | .sent pa u => .wait { s with reqs := s.reqs ++ [k.counterReq id .load va sc (k.site.setWidth 64) pa u .sent s.reft] }
    | .frozen pa => .wait { s with reqs := s.reqs ++ [k.counterReq id .load va sc (k.site.setWidth 64) pa 0 .frozen s.reft] }
    | h => .hit h s

/-- CNTWAIT: a wait until a counter reaches a target, an acquire at its scope (R247). -/
def execCntwait (sc : Scope) (a b : Fin 128) (st : Fin 8) (s : State) : Host.Outcome State Fault Refusal :=
  let sh : Shape := ⟨true, st.val, [a, b], [keyS a, keyS b], [], .load⟩
  if s.byStream then s.issueStream sh fun y s =>
    let va := y.st.s.get a
    let target := y.st.s.get b
    if !y.mayCopy then s.streamFault y 0x05 .other 0 (wordOf (.cntwait sc a b st)) 0
    else match s.lookCounter y.caller sc va target with
      | .met s => s.finishStream y sh y.st (y.st.pc + 4)
      | .wait s => s.waitStream y (.counter va target)
      | .ecc s => s.streamFault y 0x11 .load va 0 0
      | .hit (.bad f) s => s.streamFault y f.code .load f.va f.d0 f.d1
      | .hit (.onPage _ code level frame) s => s.streamFault y code .load va (xlateDetail level true) (BitVec.ofNat 64 frame)
      | .hit _ s => s.streamFault y 0x07 .load va 0 0
  else s.issue sh fun x s =>
    let va := x.g.s.get a
    let target := x.g.s.get b
    match s.lookCounter (s.callerOf x) sc va target with
    | .met s => s.finish x sh x.g (fun _ => x.pc + 4) []
    | .wait s => s.startWait x (.counter va target)
    | .ecc s => s.faultAll x sh 0x11 va 0 0
    | .hit (.bad f) s => s.faultAll x sh f.code f.va f.d0 f.d1
    | .hit h s =>
      if (s.core x.c).recordsWait h.page.toList.length then s.hold x
      else
        let s := s.parkLanes x .load (fun _ => va) (x.act.list.map fun p => (p, h))
        s.finishWith x sh (x.g.setLst x.act .parked) (fun _ => x.pc) x.act []

/-! ### Peer put and get (R248, R249) -/

/-- A peer descriptor with its reserved bits. -/
structure PeerDesc where
  loc : DWord
  remote : DWord
  len : Nat
  locp : Bool
  rcnt : DWord
  reserved : Bool
  deriving DecidableEq, Repr

/-- The peer descriptor at a scratch offset (R248). -/
def State.peerAt (s : State) (k : Caller) (o : Nat) : PeerDesc :=
  let w := (s.scratchWord k (o + 0x10)).toNat
  ⟨s.scratchWord k o, s.scratchWord k (o + 8), field w 0 24, field w 24 1 == 1, s.scratchWord k (o + 0x18), field w 25 39 != 0⟩

/-- The walk of an address that translates to no peer aperture frame (R249): its last level and the frame it found. -/
def State.peerMiss (s : State) (k : Caller) (va : DWord) (acc : AccKind) : Option (Nat × Nat) :=
  match s.translate k.c k.space va acc .engine (some (k.gid.val, k.space)) with
  | (.ok pa u, s) =>
    if field pa 46 2 = 2 then none
    else some (((s.die (homeDie va)).tlb.find? fun t => t.uid == u).elim (Config.unwalkedLevel.val, 0) fun t =>
      (t.level, field t.leaf.toNat 16 32 * 65536))
  | (.frozen _, _) => none
  | (.fault _ _ level _ frame, _) => if field frame 46 2 = 2 then none else some (level, frame)

/-- The checks of a peer transfer, lowest code first (R9, R249). -/
def State.peerChecks (s : State) (k : Caller) (d : PeerDesc) (put : Bool) (word : DWord) : Option Failed :=
  let excess := match k.xfer with
    | some b => decide (b < d.len)
    | none => false
  let miss := ((s.peerMiss k d.remote (if put then .store else .load)).map fun w => (d.remote, w)).or
    (if d.rcnt != 0 then (s.peerMiss k d.rcnt .atomic).map fun w => (d.rcnt, w) else none)
  let away : Failed := miss.elim ⟨0x07, 0, 0, 0⟩ fun m => ⟨0x07, m.1, xlateDetail m.2.1 false, BitVec.ofNat 64 m.2.2⟩
  let misaligned := d.loc.toNat % 4 != 0 || d.remote.toNat % 4 != 0 || d.len % 4 != 0 || d.rcnt.toNat % 8 != 0
  firstFailed [(excess, ⟨0x01, 0, 5, 0⟩), (d.reserved, ⟨0x05, 0, word, 0⟩), (miss.isSome, away), (misaligned, ⟨0x0A, d.loc, 0, 0⟩)]

/-- A peer transfer started for a caller: its copy, and the token it will write. -/
def State.peer (s : State) (k : Caller) (put : Bool) (sc : Scope) (addr : DWord) (tok : Fin 128) (word : DWord) : Except Failed State :=
  match s.descriptor k addr 32 with
  | (some f, _) => .error f
  | (none, s) =>
    let d := s.peerAt k addr.toNat
    match s.peerChecks k d put word with
    | some f => .error f
    | none =>
      let (id, s) := s.newId
      let (t, s) := s.newId
      let job : CopyJob := if put then .rput d.loc d.locp d.remote d.len d.rcnt sc else .rget d.loc d.locp d.remote d.len
      .ok { s with
        copies := s.copies ++ [k.copy id job t .moving]
        tokens := s.tokens ++ [⟨t, k.c, k.uid, k.gid, k.stream, tok, false⟩] }

/-- A peer transfer of a group or a stream. -/
def State.peerOp (s : State) (sh : Shape) (put : Bool) (sc : Scope) (a b : Fin 128) (word : DWord) : Host.Outcome State Fault Refusal :=
  if s.byStream then s.issueStream sh fun y s =>
    if !y.mayCopy then s.streamFault y 0x05 .other 0 word 0
    else s.onceInStream y sh { y.st with tok := y.st.tok ||| (1#128 <<< b.val) } (s.peer y.caller put sc (y.st.s.get a) b word)
  else s.issue sh fun x s =>
    if s.acquiring x then s.hold x
    else s.oncePerIssue x sh { x.g with tok := x.g.tok ||| (1#128 <<< b.val) } (s.peer (s.callerOf x) put sc (x.g.s.get a) b word)

/-- RPUT: a copy to a peer, and an add to a counter there (R249). -/
def execRput (sc : Scope) (a b : Fin 128) (st : Fin 8) (s : State) : Host.Outcome State Fault Refusal :=
  s.peerOp ⟨true, st.val, [a, b], [keyS a], [], .other⟩ true sc a b (wordOf (.rput sc a b st))

/-- RGET: a copy from a peer (R249). -/
def execRget (a b : Fin 128) (st : Fin 8) (s : State) : Host.Outcome State Fault Refusal :=
  s.peerOp ⟨true, st.val, [a, b], [keyS a], [], .other⟩ false .thr a b (wordOf (.rget a b st))

end Sys2Proof.Machine
end

