-- ==== Sys2Proof/Machine/Float.lean ====
section
/-! DEFINITION. Number formats, rounding and arithmetic (R77 to R91, R206 to R211): values as exact dyadic numbers, one
rounding into any format, and the exact operations, transcendental ones included. -/
namespace Sys2Proof.Machine

/-- The flag bits of XFLAGS and MFLAGS (R92). -/
abbrev Flags := BitVec 6
def flagIV : Flags := 1
def flagDZ : Flags := 2
def flagOF : Flags := 4
def flagUF : Flags := 8
def flagNX : Flags := 16
def flagSA : Flags := 32

/-! ### Formats -/

/-- A number format: IEEE or P3109, its width, its precision counting the implicit bit, its bias, whether it has a sign
and whether it has infinities (R77, R79 to R81). -/
structure Fmt where
  ieee : Bool
  width : Nat
  p : Nat
  bias : Nat
  signed : Bool
  ext : Bool
  deriving DecidableEq, Repr

def binary32 : Fmt := ⟨true, 32, 24, 127, true, true⟩
def binary16 : Fmt := ⟨true, 16, 11, 15, true, true⟩
def bfloat16 : Fmt := ⟨true, 16, 8, 127, true, true⟩

/-- A P3109 format (R80, R81): the bias is half the exponent field's range. -/
def p3109 (k p : Nat) (signed ext : Bool) : Fmt :=
  let w := if signed then k - p else k - p + 1
  ⟨false, k, p, 2 ^ (w - 1), signed, ext⟩

/-- A value: a NaN, quiet or signalling, an infinity, or a dyadic number m × 2^e with its sign. -/
inductive FVal where
  | nan (signalling : Bool)
  | inf (neg : Bool)
  | fin (neg : Bool) (m : Nat) (e : Int)
  deriving DecidableEq, Repr

/-- The value of exponent field E and trailing field T (R80). -/
def Fmt.number (f : Fmt) (neg : Bool) (E T : Nat) : FVal :=
  let lo : Int := 1 - (f.bias : Int) - ((f.p : Int) - 1)
  if E = 0 then .fin neg T lo else .fin neg (2 ^ (f.p - 1) + T) (lo + ((E : Int) - 1))

/-- The value of a code. -/
def Fmt.decode (f : Fmt) (c : Nat) : FVal :=
  let c := c % 2 ^ f.width
  let T := c % 2 ^ (f.p - 1)
  if f.ieee then
    let E := c / 2 ^ (f.p - 1) % 2 ^ (f.width - f.p)
    let neg := decide (2 ^ (f.width - 1) ≤ c)
    if E = 2 ^ (f.width - f.p) - 1 then (if T = 0 then .inf neg else .nan (decide (T < 2 ^ (f.p - 2))))
    else f.number neg E T
  else if f.signed then
    let neg := decide (2 ^ (f.width - 1) ≤ c)
    let low := c % 2 ^ (f.width - 1)
    if c = 0 then .fin false 0 0
    else if c = 2 ^ (f.width - 1) then .nan false
    else if f.ext ∧ low = 2 ^ (f.width - 1) - 1 then .inf neg
    else f.number neg (low / 2 ^ (f.p - 1)) T
  else
    if c = 0 then .fin false 0 0
    else if c = 2 ^ f.width - 1 then .nan false
    else if f.ext ∧ c = 2 ^ f.width - 2 then .inf false
    else f.number false (c / 2 ^ (f.p - 1)) T

/-- The code of the largest finite value, and of the canonical NaN and infinity (R77, R80, R81, R85). -/
def Fmt.maxCode (f : Fmt) : Nat :=
  if f.ieee then (2 ^ (f.width - f.p) - 1) * 2 ^ (f.p - 1) - 1
  else if f.signed then 2 ^ (f.width - 1) - (if f.ext then 2 else 1)
  else 2 ^ f.width - (if f.ext then 3 else 2)
def Fmt.nanCode (f : Fmt) : Nat :=
  if f.ieee then (2 ^ (f.width - f.p) - 1) * 2 ^ (f.p - 1) + 2 ^ (f.p - 2)
  else if f.signed then 2 ^ (f.width - 1) else 2 ^ f.width - 1
def Fmt.infCode (f : Fmt) : Nat :=
  if f.ieee then (2 ^ (f.width - f.p) - 1) * 2 ^ (f.p - 1)
  else if f.signed then 2 ^ (f.width - 1) - 1 else 2 ^ f.width - 2

/-- A code with its sign. -/
def Fmt.sign (f : Fmt) (neg : Bool) (c : Nat) : Nat := if neg && f.signed then c + 2 ^ (f.width - 1) else c

/-! ### Rounding (R85) -/

/-- Whether a magnitude m × 2^e with the remainder `rem` of `2^k` steps is rounded up. [DESIGN CHOICE, log 105] -/
def roundsUp (mode : RMode) (neg : Bool) (q rem k : Nat) : Bool :=
  match mode with
  | .rn => decide (2 ^ k < 2 * rem) || (decide (2 * rem = 2 ^ k) && decide (q % 2 = 1))
  | .rz => false
  | .rp => !neg && decide (rem ≠ 0)
  | .rm => neg && decide (rem ≠ 0)

/-- A magnitude rounded to a multiple of 2^q: the multiple, and whether it differs. -/
def roundTo (mode : RMode) (neg : Bool) (m : Nat) (e q : Int) : Nat × Bool :=
  if q ≤ e then (m * 2 ^ (e - q).toNat, false)
  else
    let k := (q - e).toNat
    let quo := m / 2 ^ k
    let rem := m % 2 ^ k
    (if roundsUp mode neg quo rem k then quo + 1 else quo, decide (rem ≠ 0))

/-- Whether m × 2^e is above m' × 2^e'. -/
def dyadicGt (m : Nat) (e : Int) (m' : Nat) (e' : Int) : Bool :=
  if e' ≤ e then decide (m' < m * 2 ^ (e - e').toNat) else decide (m' * 2 ^ (e' - e).toNat < m)

/-- The magnitude of a finite code. -/
def Fmt.magnitude (f : Fmt) (c : Nat) : Nat × Int :=
  match f.decode c with
  | .fin _ m e => (m, e)
  | _ => (0, 0)

/-- The code of y × 2^q, a value of the format. -/
def Fmt.codeOf (f : Fmt) (y : Nat) (q : Int) : Nat :=
  let lo : Int := 1 - (f.bias : Int) - ((f.p : Int) - 1)
  let half := 2 ^ (f.p - 1)
  if y < half then y else if y = 2 * half then ((q + 1 - lo).toNat + 1) * half else ((q - lo).toNat + 1) * half + (y - half)

/-- `Round(x, fmt, mode)` with the overflow mode: the code and the flags raised (R85). `sat` is ovf = saturate. -/
def Fmt.round (f : Fmt) (mode : RMode) (sat : Bool) (x : FVal) : Nat × Flags :=
  match x with
  | .nan sig => (f.nanCode, if sig then flagIV else 0)
  | .inf neg =>
    if neg && !f.signed then (f.nanCode, flagIV)
    else if f.ieee || f.ext then (f.sign neg f.infCode, 0)
    else if sat then (f.sign neg f.maxCode, flagSA)
    else (f.nanCode, flagIV)
  | .fin neg m e =>
    if m = 0 then (if f.ieee then f.sign neg 0 else 0, 0)
    else
      let lo : Int := 1 - (f.bias : Int) - ((f.p : Int) - 1)
      let top : Int := (Nat.log2 m : Int) + e
      let q := max (top - ((f.p : Int) - 1)) lo
      let (y, inexact) := roundTo mode neg m e q
      let (mm, me) := f.magnitude f.maxCode
      if y = 0 then (if f.ieee then f.sign neg 0 else 0, flagUF ||| flagNX)
      else if neg && !f.signed then (f.nanCode, flagIV)
      else if dyadicGt y q mm me then
        if sat then (f.sign neg f.maxCode, flagOF ||| flagNX ||| flagSA)
        else if mode == .rn || (mode == .rp && !neg) || (mode == .rm && neg) then
          (if f.ieee || f.ext then f.sign neg f.infCode else f.nanCode, flagOF ||| flagNX)
        else (f.sign neg f.maxCode, flagOF ||| flagNX)
      else
        let tiny := decide (top < 1 - (f.bias : Int))
        (f.sign neg (f.codeOf y q), if inexact then (if tiny then flagNX ||| flagUF else flagNX) else 0)

/-! ### Exact operations -/

/-- An exact result with the flags that the operation itself raises. -/
abbrev Exact := FVal × Flags

/-- Whether a value is a signalling NaN, or any NaN. -/
def FVal.isSig : FVal → Bool
  | .nan true => true
  | _ => false
def FVal.isNan : FVal → Bool
  | .nan _ => true
  | _ => false

/-- A sign applied to a natural. -/
def signed (neg : Bool) (m : Nat) : Int := if neg then -(m : Int) else m

/-- The exact sum (R206): an exact zero of opposite signs is +0. -/
def addV (a b : FVal) : Exact :=
  match a, b with
  | .nan s, .nan t => (.nan (s || t), 0)
  | .nan s, _ => (.nan s, 0)
  | _, .nan t => (.nan t, 0)
  | .inf x, .inf y => if x = y then (.inf x, 0) else (.nan false, flagIV)
  | .inf x, _ => (.inf x, 0)
  | _, .inf y => (.inf y, 0)
  | .fin x m e, .fin y n g =>
    let lo := min e g
    let r := signed x (m * 2 ^ (e - lo).toNat) + signed y (n * 2 ^ (g - lo).toNat)
    if r = 0 then (.fin (m = 0 && n = 0 && x && y) 0 0, 0) else (.fin (decide (r < 0)) r.natAbs lo, 0)

/-- The value with its sign inverted. -/
def negV : FVal → FVal
  | .nan s => .nan s
  | .inf x => .inf !x
  | .fin x m e => .fin (!x) m e

/-- The exact product (R206). -/
def mulV (a b : FVal) : Exact :=
  match a, b with
  | .nan s, .nan t => (.nan (s || t), 0)
  | .nan s, _ => (.nan s, 0)
  | _, .nan t => (.nan t, 0)
  | .inf x, .inf y => (.inf (x != y), 0)
  | .inf x, .fin y n _ => if n = 0 then (.nan false, flagIV) else (.inf (x != y), 0)
  | .fin x m _, .inf y => if m = 0 then (.nan false, flagIV) else (.inf (x != y), 0)
  | .fin x m e, .fin y n g => (.fin (x != y) (m * n) (e + g), 0)

/-- The exact a × b + c (R206): ∞ × 0 raises IV whatever c is. [DEDUCED, log 29] -/
def fmaV (a b c : FVal) : Exact :=
  match mulV a b with
  | (.nan s, fl) => (.nan (s || c.isSig), fl)
  | (p, _) => addV p c

/-- An inexact magnitude carried as one exact enough to round: a last 1 stands for what follows. -/
def sticky (neg : Bool) (m : Nat) (e : Int) (more : Bool) : FVal :=
  if more then .fin neg (2 * m + 1) (e - 1) else .fin neg m e

/-- The quotient (R206). -/
def divV (a b : FVal) : Exact :=
  match a, b with
  | .nan s, .nan t => (.nan (s || t), 0)
  | .nan s, _ => (.nan s, 0)
  | _, .nan t => (.nan t, 0)
  | .inf _, .inf _ => (.nan false, flagIV)
  | .inf x, .fin y _ _ => (.inf (x != y), 0)
  | .fin x _ _, .inf y => (.fin (x != y) 0 0, 0)
  | .fin x m e, .fin y n g =>
    if n = 0 then (if m = 0 then (.nan false, flagIV) else (.inf (x != y), flagDZ))
    else
      let k := 64 + Nat.log2 n
      (sticky (x != y) (m * 2 ^ k / n) (e - g - k) (decide (m * 2 ^ k % n ≠ 0)), 0)

/-- The integer square root, from bit `i` down. -/
def isqrtFrom (n : Nat) : Nat → Nat → Nat
  | 0, r => r
  | i + 1, r => let t := r + 2 ^ i; isqrtFrom n i (if t * t ≤ n then t else r)

/-- The integer square root. -/
def isqrt (n : Nat) : Nat := isqrtFrom n (Nat.log2 n / 2 + 1) 0

/-- A magnitude with an even exponent. -/
def evenExp (m : Nat) (e : Int) : Nat × Int := if e % 2 = 0 then (m, e) else (2 * m, e - 1)

/-- The square root (R206). -/
def sqrtV (a : FVal) : Exact :=
  match a with
  | .nan s => (.nan s, 0)
  | .inf neg => if neg then (.nan false, flagIV) else (.inf false, 0)
  | .fin neg m e =>
    if m = 0 then (.fin neg 0 0, 0)
    else if neg then (.nan false, flagIV)
    else
      let (m, e) := evenExp m e
      let n := m * 2 ^ 64
      let r := isqrt n
      (sticky false r (e / 2 - 32) (decide (r * r ≠ n)), 0)

/-- The reciprocal square root (R206). -/
def rsqV (a : FVal) : Exact :=
  match a with
  | .nan s => (.nan s, 0)
  | .inf neg => if neg then (.nan false, flagIV) else (.fin false 0 0, 0)
  | .fin neg m e =>
    if m = 0 then (.inf neg, flagDZ)
    else if neg then (.nan false, flagIV)
    else
      let (m, e) := evenExp m e
      let r := isqrt (2 ^ 160 / m)
      (sticky false r (-(e / 2) - 80) (decide (r * r * m ≠ 2 ^ 160)), 0)

/-! ### Transcendental functions (R206)

Each is computed in fixed point with far more fraction bits than the closest approach of any binary32 argument's result
to a rounding boundary, and carried with a last 1, since no result below is exact where one is computed. -/

/-- Fraction bits of the fixed-point evaluation. [UNVERIFIED, log 24] -/
def fixBits : Nat := 448

/-- 1.0 in fixed point. -/
def fixOne : Nat := 2 ^ fixBits

/-- Σ z^(2k+1) / (2k+1) with alternating signs if `alt`: the inverse hyperbolic or circular tangent of z = num / den, `n`
terms. `pow` is z^(2k+1) in fixed point, and the two sums are of the positive and the negative terms. -/
def atanTerms (num den : Nat) (alt : Bool) : Nat → Nat → Nat → Nat → Nat → Nat
  | 0, _, _, plus, minus => plus - minus
  | n + 1, k, pow, plus, minus =>
    let t := pow / (2 * k + 1)
    let next := pow * num / den * num / den
    if alt && k % 2 = 1 then atanTerms num den alt n (k + 1) next plus (minus + t)
    else atanTerms num den alt n (k + 1) next (plus + t) minus

/-- The inverse hyperbolic tangent of num / den, at most 1/3. -/
def atanhFix (num den : Nat) : Nat := atanTerms num den false 160 0 (fixOne * num / den) 0 0

/-- ln 2 in fixed point. -/
def ln2Fix : Nat := 2 * atanhFix 1 3

/-- π / 2 in fixed point, by Machin's formula. -/
def halfPiFix : Nat :=
  8 * atanTerms 1 5 true 110 0 (fixOne / 5) 0 0 - 2 * atanTerms 1 239 true 40 0 (fixOne / 239) 0 0

/-- Σ of the terms of e^x from x^k / k! on. -/
def expTerms (x : Nat) : Nat → Nat → Nat → Nat → Nat
  | 0, _, _, acc => acc
  | n + 1, k, t, acc => expTerms x n (k + 1) (t * x / fixOne / (k + 1)) (acc + t)

/-- Terms of sine (first term x) or cosine (first term 1) in alternating sums. -/
def sinTerms (x : Nat) : Nat → Nat → Nat → Nat → Nat → Nat
  | 0, _, _, plus, minus => plus - minus
  | n + 1, k, t, plus, minus =>
    let next := t * x / fixOne * x / fixOne / ((k + 1) * (k + 2))
    sinTerms x n (k + 2) next (if k / 2 % 2 = 0 then plus + t else plus) (if k / 2 % 2 = 0 then minus else minus + t)

/-- Sine and cosine of a fixed-point argument from 0 to π / 2. -/
def sinFix (x : Nat) : Nat := sinTerms x 60 1 x 0 0
def cosFix (x : Nat) : Nat := sinTerms x 60 0 fixOne 0 0

/-- A fixed-point magnitude as an exact enough value. -/
def fixVal (neg : Bool) (t : Nat) : FVal := .fin neg (2 * t + 1) (-(fixBits : Int) - 1)

/-- 2^a (R206). [UNVERIFIED, log 24] -/
def exp2V (a : FVal) : Exact :=
  match a with
  | .nan s => (.nan s, 0)
  | .inf neg => if neg then (.fin false 0 0, 0) else (.inf false, 0)
  | .fin neg m e =>
    if m = 0 then (.fin false 1 0, 0)
    else if dyadicGt m e 300 0 then (if neg then .fin false 1 (-300) else .fin false 1 300, 0)
    else
      let x := signed neg (if 0 ≤ e then m * 2 ^ (e.toNat + fixBits) else m * 2 ^ fixBits / 2 ^ (-e).toNat)
      let n := x / (fixOne : Int)
      let f := (x % (fixOne : Int)).toNat
      if f = 0 then (.fin false 1 n, 0)
      else
        let t := expTerms (f * ln2Fix / fixOne) 110 0 fixOne 0
        (.fin false (2 * t + 1) (n - fixBits - 1), 0)

/-- log2 a (R206). [UNVERIFIED, log 24] -/
def log2V (a : FVal) : Exact :=
  match a with
  | .nan s => (.nan s, 0)
  | .inf neg => if neg then (.nan false, flagIV) else (.inf false, 0)
  | .fin neg m e =>
    if m = 0 then (.inf true, flagDZ)
    else if neg then (.nan false, flagIV)
    else
      let l := Nat.log2 m
      let n := (l : Int) + e
      if m = 2 ^ l then (.fin (decide (n < 0)) n.natAbs 0, 0)
      else
        let frac := 2 * atanhFix (m - 2 ^ l) (m + 2 ^ l) * fixOne / ln2Fix
        let t := n * (fixOne : Int) + frac
        (fixVal (decide (t < 0)) t.natAbs, 0)

/-- The quadrant of a magnitude and its remainder (R206: the argument is reduced exactly). -/
def reduceArg (m : Nat) (e : Int) : Nat × Nat :=
  let x := if 0 ≤ e then m * 2 ^ (e.toNat + fixBits) else m * 2 ^ fixBits / 2 ^ (-e).toNat
  (x / halfPiFix % 4, x % halfPiFix)

/-- sin a (R206). [UNVERIFIED, log 24] -/
def sinV (a : FVal) : Exact :=
  match a with
  | .nan s => (.nan s, 0)
  | .inf _ => (.nan false, flagIV)
  | .fin neg m e =>
    if m = 0 then (.fin neg 0 0, 0)
    else
      let (q, r) := reduceArg m e
      (fixVal (neg != decide (2 ≤ q)) (if q % 2 = 0 then sinFix r else cosFix r), 0)

/-- cos a (R206). [UNVERIFIED, log 24] -/
def cosV (a : FVal) : Exact :=
  match a with
  | .nan s => (.nan s, 0)
  | .inf _ => (.nan false, flagIV)
  | .fin _ m e =>
    if m = 0 then (.fin false 1 0, 0)
    else
      let (q, r) := reduceArg m e
      (fixVal (decide (q = 1 ∨ q = 2)) (if q % 2 = 0 then cosFix r else sinFix r), 0)

/-! ### Arithmetic on codes -/

/-- An exact result rounded once to an IEEE format to nearest even, with overflow to infinity (R78, R206). -/
def Fmt.finishOp (f : Fmt) (x : Exact) : Nat × Flags :=
  let (c, fl) := f.round .rn false x.1
  (c, x.2 ||| fl)

/-- A two-operand operation on codes. -/
def Fmt.op2 (f : Fmt) (op : FVal → FVal → Exact) (a b : Nat) : Nat × Flags := f.finishOp (op (f.decode a) (f.decode b))

/-- The result of a binary32 operation as a word. -/
def word32 (r : Nat × Flags) : Word × Flags := (BitVec.ofNat 32 r.1, r.2)

/-- binary32 arithmetic with flags (R206). -/
def f32Op1 (op : FVal → Exact) (a : Word) : Word × Flags := word32 (binary32.finishOp (op (binary32.decode a.toNat)))
def f32Op2 (op : FVal → FVal → Exact) (a b : Word) : Word × Flags := word32 (binary32.op2 op a.toNat b.toNat)
def f32Fma (a b c : Word) : Word × Flags :=
  word32 (binary32.finishOp (fmaV (binary32.decode a.toNat) (binary32.decode b.toNat) (binary32.decode c.toNat)))
def f32AddF (a b : Word) : Word × Flags := f32Op2 addV a b
def f32SubF (a b : Word) : Word × Flags := f32Op2 (fun x y => addV x (negV y)) a b

/-- binary32 addition to nearest even (R225). -/
def f32Add (a b : Word) : Word := (f32AddF a b).1

/-- The canonical NaN of binary32. -/
def nan32 : Word := 0x7FC00000

/-- Whether a is below b in value, with −0 below +0; neither is a NaN. -/
def f32Below (a b : Word) : Bool :=
  let key (x : Word) : Int := if x.getLsbD 31 then -(x.toNat % 2 ^ 31 : Nat) - 1 else (x.toNat : Int)
  decide (key a < key b)

/-- FMIN and FMAX (R207). -/
def f32Pick (least : Bool) (a b : Word) : Word × Flags :=
  let x := binary32.decode a.toNat
  let y := binary32.decode b.toNat
  if x.isSig || y.isSig then (nan32, flagIV)
  else if x.isNan && y.isNan then (nan32, 0)
  else if x.isNan then (b, 0)
  else if y.isNan then (a, 0)
  else (if f32Below b a = least then b else a, 0)

/-- How two binary32 values compare: unordered, or the order of their values, −0 equal to +0. -/
def f32Compare (a b : Word) : Option Ordering :=
  let x := binary32.decode a.toNat
  let y := binary32.decode b.toNat
  if x.isNan || y.isNan then none
  else if a.toNat % 2 ^ 31 = 0 ∧ b.toNat % 2 ^ 31 = 0 then some .eq
  else if a = b then some .eq
  else if f32Below a b then some .lt
  else some .gt

/-- FCMP (R203): the truth of a condition, and IV. -/
def f32Test (cnd : FCnd) (a b : Word) : Bool × Flags :=
  let sig := (binary32.decode a.toNat).isSig || (binary32.decode b.toNat).isSig
  let r := f32Compare a b
  let ordered := cnd == .lt || cnd == .le || cnd == .gt || cnd == .ge
  let fl : Flags := if sig || (ordered && r.isNone) then flagIV else 0
  (match cnd with
    | .eq => r == some .eq
    | .ne => r != some .eq
    | .lt => r == some .lt
    | .le => r == some .lt || r == some .eq
    | .gt => r == some .gt
    | .ge => r == some .gt || r == some .eq
    | .un => r.isNone
    | .or => r.isSome, fl)

/-- FCLASS (R208). -/
def f32Class (a : Word) : Word :=
  match binary32.decode a.toNat with
  | .nan sig => if sig then 0x100 else 0x200
  | .inf neg => if neg then 0x001 else 0x080
  | .fin neg m _ =>
    if m = 0 then (if neg then 0x008 else 0x010)
    else if m < 2 ^ 23 then (if neg then 0x004 else 0x020)
    else (if neg then 0x002 else 0x040)

/-- FRND (R208): rounded to an integral value; never NX. -/
def f32Integral (mode : RMode) (a : Word) : Word × Flags :=
  match binary32.decode a.toNat with
  | .nan sig => (nan32, if sig then flagIV else 0)
  | .inf _ => (a, 0)
  | .fin neg m e =>
    if m = 0 ∨ 0 ≤ e then (a, 0)
    else
      let (y, inexact) := roundTo mode neg m e 0
      if inexact then (BitVec.ofNat 32 (binary32.round .rn false (.fin neg y 0)).1, 0) else (a, 0)

/-- CVTI (R87): binary32 to a 32-bit integer in a mode. -/
def f32ToInt (mode : RMode) (isSigned : Bool) (a : Word) : Word × Flags :=
  let lo : Int := if isSigned then -(2 ^ 31) else 0
  let hi : Int := if isSigned then 2 ^ 31 - 1 else 2 ^ 32 - 1
  match binary32.decode a.toNat with
  | .nan _ => (0, flagIV)
  | .inf neg => (BitVec.ofInt 32 (if neg then lo else hi), flagIV ||| flagSA)
  | .fin neg m e =>
    let (y, inexact) := roundTo mode neg m e 0
    let r := signed neg y
    if r < lo then (BitVec.ofInt 32 lo, flagIV ||| flagSA)
    else if hi < r then (BitVec.ofInt 32 hi, flagIV ||| flagSA)
    else (BitVec.ofInt 32 r, if inexact then flagNX else 0)

/-- CVTF (R87): a 32-bit integer to binary32 in a mode. -/
def f32OfInt (mode : RMode) (isSigned : Bool) (a : Word) : Word × Flags :=
  let r : Int := if isSigned then a.toInt else a.toNat
  let (c, fl) := binary32.round mode false (.fin (decide (r < 0)) r.natAbs 0)
  (BitVec.ofNat 32 c, fl &&& flagNX)

/-! ### Format slots (R82 to R84) -/

/-- The format of a slot's descriptor; none for an unused slot. -/
def slotFmt (d : Word) : Option Fmt :=
  match field d.toNat 0 4 with
  | 1 => some binary32
  | 2 => some binary16
  | 3 => some bfloat16
  | 4 => some (p3109 (field d.toNat 4 4) (field d.toNat 8 3) (d.getLsbD 11) (d.getLsbD 12))
  | _ => none

/-- A slot's rounding mode, and whether it saturates. -/
def slotMode (d : Word) : RMode :=
  match field d.toNat 13 2 with
  | 0 => .rn
  | 1 => .rz
  | 2 => .rp
  | _ => .rm
def slotSat (d : Word) : Bool := !d.getLsbD 15

/-- KIND, K, BLK and SCK of a slot. -/
def slotKind (d : Word) : Nat := field d.toNat 0 4
def slotK (d : Word) : Nat := field d.toNat 4 4
def slotBlk (d : Word) : Nat := field d.toNat 16 2
def slotSck (d : Word) : Nat := field d.toNat 18 2

/-- What is wrong with a launch record's descriptor (R83). -/
def slotBad (d : Word) : Bool :=
  let kind := slotKind d
  let k := slotK d
  let p := field d.toNat 8 3
  let p3109Bad := !((k == 8 && decide (1 ≤ p) && decide (p ≤ 7)) || (k == 4 && decide (1 ≤ p) && decide (p ≤ 3)))
  let ieeeBad := k != 0 || p != 0 || d.getLsbD 11 || d.getLsbD 12
  if kind = 0 then decide (d ≠ 0)
  else field d.toNat 20 12 != 0 || decide (4 < kind) || slotSck d == 3 || (if kind = 4 then p3109Bad else ieeeBad)
    || (slotSck d == 1 && slotBlk d == 0)

/-- binary32 rounded into a slot (R85, R210). -/
def narrow (d : Word) (f : Fmt) (a : Word) : Nat × Flags := f.round (slotMode d) (slotSat d) (binary32.decode a.toNat)

/-- A code of a slot widened to binary32 (R86): exact, with IV for a signalling IEEE NaN only. -/
def widen (f : Fmt) (c : Nat) : Word × Flags := word32 (binary32.finishOp (f.decode c, 0))

end Sys2Proof.Machine
end

