-- ==== Sys2Proof/Machine/Events.lean ====
section
/-! DEFINITION. What happens to accesses after they issue: they perform, meet promotion tags and frozen pages, and their
data arrives (R74, R95 to R102, R116, R122, R313, R401); and how copies and peer transfers move, stop, complete and write
their tokens (R109, R120, R121, R243 to R249). -/
namespace Sys2Proof.Machine

/-! ### Frames outside the vaults -/

/-- The operation number that a request to such a frame carries. -/
def Req.frameOp (r : Req) : Nat :=
  match r.kind with
  | .load | .other => 0
  | .store => if r.add64 then 2 else 1
  | .atomic => 3 + aopNum r.aop

/-- The data that it carries. -/
def Req.frameData (r : Req) : List Byte :=
  match r.kind with
  | .load | .other => []
  | .store => leBytes r.size r.data.toNat
  | .atomic => leBytes 4 r.data.toNat ++ leBytes 4 r.data2.toNat

/-- Whether an earlier access of the thread to the same 64-byte line of such a frame has not completed (R122). -/
def State.lineBusy (s : State) (r : Req) : Bool :=
  (s.before r).any fun e => e.sameThread r && e.open_ && e.outside && e.pa / 64 == r.pa / 64

/-- A counter's add at a physical address, a release at a scope made by a core (R111): at once in a vault, and as a request elsewhere. The
answer says whether the counter held an uncorrectable error, and then nothing is added (R390). [DESIGN CHOICE, log 12] -/
def State.counterAdd (s : State) (core : Fin 128) (sc : Scope) (id pa n : Nat) (ctx : Option (Nat × Word)) : Bool × State :=
  if field pa 46 2 = 0 then
    let (v, ue, s) := s.readWord (vaultDie pa) pa 8 ctx
    let bs := leBytes 8 (satAdd v.toNat n)
    (ue, if ue then s else (s.wrote pa bs (s.stored pa bs)).tagWrite (some sc) pa core id)
  else (false, s.sendFrame id pa 2 (leBytes 8 n))

/-! ### The buffers on the way -/

/-- The errors that an access meets in one buffer on its way, a link's FIFO or a port's (R390, R392): which slot it takes is open, so the
device picks whether it takes the one for which an injection is armed, or one that holds an error. `span` is the buffer's stride in
ADDR, and the answer says whether an uncorrectable error was met. [DESIGN CHOICE, log 12] -/
def State.passBuffer (s : State) (arr : Fin 8) (span unit : Nat) (dies : List (Fin 4)) (ctx : Option (Nat × Word)) : Bool × State :=
  let inUnit (a : Nat) : Bool := a / span == unit && !(arr == 6 && a % span == 255)
  let armed := dies.find? fun d =>
    let r := (s.die d).errinj.toNat
    field r 8 1 == 1 && field r 0 8 == arr.val && inUnit (s.die d).errinja.toNat
  let s := match armed with
    | some d =>
      let (hit, s) := s.pick 2
      if hit = 1 then s.inject d arr 0 (s.die d).errinja.toNat 1 else s
    | none => s
  let ms := s.marks.filter fun m => m.arr == arr && inUnit m.addr
  if ms.isEmpty then (false, s)
  else
    let (i, s) := s.pick (ms.length + 1)
    match ms[i - 1]? with
    | some m =>
      if i = 0 then (false, s)
      else
        let (ue, s) := s.consume (dies.headD 0) arr 0 m.addr 1 ctx
        (ue, { s with marks := s.marks.filter fun x => !(x.arr == arr && x.addr == m.addr) })
    | none => (false, s)

/-- The errors that traffic between a core and a frame meets on its way (R390): in the FIFOs of the links that it crosses, or in the
buffer of its peer port. -/
def State.transit (s : State) (c : Fin 128) (pa : Nat) (ctx : Option (Nat × Word)) : Bool × State :=
  if inVault pa then
    (s.route (dieOf c) (vaultDie pa)).foldl (fun (acc : Bool × State) k =>
      let (ue, s) := acc.2.passBuffer 6 256 k.val [(linkDies k).1, (linkDies k).2] ctx
      (acc.1 || ue, s)) (false, s)
  else if field pa 46 2 = 2 then s.passBuffer 7 4096 (field pa 42 4) [Fin.ofNat 4 (field pa 42 4 / 4)] ctx
  else (false, s)

/-! ### Accesses -/

/-- A fault of an access that its completer or its peer refused, or that is held and cannot be serviced (R313, R395, R401): its
lane, with those of its fellows, or the stream that made it, meets the code given. -/
def State.refuseAccess (s : State) (r : Req) (fellows : List Req) (code : Byte) (d : DWord × DWord) : State :=
  match [false, true].find? fun copy => match (s.core r.core).stream copy with
    | some st => st.uid == r.uid
    | none => false with
  | some copy =>
    let s := s.dropReq r.id
    match ({ s with cur := some (.stream r.core copy) }).sctx with
    | some y => s.streamFault y code r.access r.va d.1 d.2
    | none => s
  | none => s.refuseHeld r.core fellows code d

/-- ACCESS_PERFORM: an access performs at its point of coherence (R95 to R102), or leaves for its CXL or peer frame. One
that may not perform yet, or that meets a promotion tag, waits; one that an uncorrectable error meets on its way faults (R390).
[DESIGN CHOICE, log 27] -/
def execAccessPerform (id : Nat) (s : State) : Host.Outcome State Fault Refusal :=
  .next (match s.reqs.find? fun r => r.id == id with
  | none => s
  | some r =>
    let waits := if r.outside then s.lineBusy r || !s.pathOpen r.pa else (s.tagMet r).isSome
    if !s.mayPerform r || s.linkHeld r.core r.pa || waits then s
    else match s.transit r.core r.pa (some (r.gid.val, r.space)) with
      | (true, s) => s.refuseAccess r [r] 0x11 (0, 0)
      | (false, s) =>
        if r.outside then (s.sendFrame id r.pa r.frameOp r.frameData).modReq id fun x => { x with phase := .away }
        else s.perform f32Add r)

/-- REMOTE_SCOPE_PROMOTION: an acquire held at a promotion tag of another core reads once that core's earlier writes up to
the tagging release are complete at its scope (R102). -/
def execRemoteScopePromotion (id : Nat) (s : State) : Host.Outcome State Fault Refusal :=
  .next (match s.reqs.find? fun r => r.id == id with
  | none => s
  | some r =>
    match s.tagMet r with
    | none => s
    | some t => if s.tagWaits t r.scope then s else s.modReq id fun x => { x with promoted := true })

/-- Whether an older entry of the same queue still awaits data: an entry's data arrives in push order (R74). -/
def State.olderData (s : State) (r : Req) : Bool :=
  match r.entry with
  | none => false
  | some (q, e) => s.reqs.any fun x => x.core == r.core && x.uid == r.uid && x.kind != .store
      && (match x.entry with
        | some (q', e') => q' == q && decide (e' < e)
        | none => false)

/-- Whether the group or stream that made a request waits somewhere. -/
def State.waitsStill (s : State) (r : Req) : Bool :=
  ((s.findGroup r.core r.uid).bind (s.group r.core)).any (fun g => g.wait.isSome)
    || [false, true].any fun copy => ((s.core r.core).stream copy).any fun st => st.uid == r.uid && st.wait.isSome

/-- Whether the group that made a once-per-issue read still stands at its instruction. -/
def State.standsAt (s : State) (r : Req) : Bool :=
  ((s.findGroup r.core r.uid).bind (s.group r.core)).any fun g => g.issueAddr == some (r.data.setWidth 32)

/-- Whether the group or stream that made a request is still there. -/
def State.issuerStands (s : State) (r : Req) : Bool :=
  (s.findGroup r.core r.uid).isSome || [false, true].any fun copy => ((s.core r.core).stream copy).any fun st => st.uid == r.uid

/-- RESPONSE_ARRIVAL: the data of an access arrives, fills its slot and frees its outstanding request (R74). -/
def execResponseArrival (id : Nat) (s : State) : Host.Outcome State Fault Refusal :=
  .next (match s.reqs.find? fun r => r.id == id with
  | none => s
  | some r =>
    match r.phase, r.entry with
    | .done v ue, some (q, e) =>
      if s.olderData r || s.linkHeld r.core r.pa then s
      else
        let (bad, s) := s.transit r.core r.pa (some (r.gid.val, r.space))
        (s.modEntryOf r.core r.uid q e fun x => x.fill r.pos (v.setWidth 32) (ue || bad)).dropReq id
    | .done _ ue, none =>
      if r.kind == .store && ue then s.refuseAccess r [r] 0x11 (0, 0)
      else
      let wanted := if r.kind == .other then s.issuerStands r else r.kind != .atomic && (s.waitsStill r || s.standsAt r)
      if wanted then s else s.dropReq id
    | _, _ => s)

/-- TLB_TRANSLATE: a translation that a prefetch asked for is made at the home die (R232, R310). -/
def execTlbTranslate (id : Nat) (s : State) : Host.Outcome State Fault Refusal :=
  .next (match allDies.findSome? fun d => ((s.die d).xlreqs.find? fun x => x.id == id).map fun x => (d, x) with
  | none => s
  | some (d, x) =>
    match s.translate x.core x.space x.va .load .core with
    | (.frozen _, s) => s
    | (_, s) => s.modDie d fun y => { y with xlreqs := y.xlreqs.filter fun z => z.id != id })

/-- The address of the instruction that made a request: its queue entry's, or 0 where none is left. -/
def State.reqSite (s : State) (r : Req) : Word :=
  match r.entry, (s.findGroup r.core r.uid).bind (s.group r.core) with
  | some (q, e), some g => ((g.q.get q).find? fun y => y.uid == e).elim 0 QEntry.site
  | _, _ => 0

/-- The positions of requests. -/
def reqLanes (rs : List Req) : Lanes := Lanes.ofFn fun p => rs.any fun x => x.pos == p

/-- The threads of a request, each with the position in which it stands in the group that made it. -/
def State.makersOf (s : State) (r : Req) : List (BitVec 12 × Fin 64) :=
  let g := (s.findGroup r.core r.uid).bind (s.group r.core)
  r.tids.map fun t => (t, (g.bind fun g => (List.finRange 64).find? fun p => g.tid.get p == t).getD r.pos)

/-- The lanes of held stores put into the replay queue (R106), behind an entry of their page or on a record of KIND 1. `r` is the first of
them, whose place among the stores of the core the entry keeps. -/
def State.replayReq (s : State) (r : Req) (fellows : List Req) (code : Byte) (page : PageId) (level frame : Nat) : State :=
  let lanes := fellows.map fun x => (⟨x.tid, x.pos, x.va, x.data, x.size, x.add64⟩ : ReplayLane)
  let makers := if r.add64 then s.makersOf r else []
  let site := s.reqSite r
  let s := fellows.foldl (fun s x => s.dropReq x.id) s
  let add (s : State) (recId : Nat) (page : PageId) : State := s.modCore r.core fun k => k.queueReplay
    ⟨r.push, recId, r.uid, r.team, r.gid, page, site, r.entry, r.scope, r.rel, r.tagScope, makers, r.tids.isEmpty, lanes⟩
  match (s.core r.core).replayFor r.space r.va with
  | some e => add s e.recId e.page
  | none =>
    let (recId, s) := s.replayRecord r.core r.uid r.gid page r.access code site r.va (reqLanes fellows) r.tid (r.tid.toNat % 64)
      level frame
    add s recId page

/-- Held loads or atomics whose lanes have left their instruction wait on a record, which counts toward their group's missing pages (R401). -/
def State.waitRecord (s : State) (uid : Nat) (c : Fin 128) (rs : List Req) (recId : Nat) : State :=
  let add (r : FaultRec) : FaultRec :=
    if r.id = recId ∧ (r.waiters.any fun w => w.1 == uid) = false then { r with waiters := r.waiters ++ [(uid, 0)] } else r
  rs.foldl (fun s x => s.modReq x.id fun y => { y with phase := .faulted recId })
    (s.modCore c fun k => { k with recs := k.recs.map add, recPend := k.recPend.map fun e => (e.1, e.2.map add) })

/-- Held loads or atomics of one instruction whose translation faults serviceably (R401): on the record that their group has for the
page and kind of access, or on a new one of KIND 1 that names their lanes. `r` is the first of them. -/
def State.holdFaulted (s : State) (r : Req) (fellows : List Req) (code : Byte) (page : PageId) (level frame : Nat) : State :=
  let (recId, s) := s.replayRecord r.core r.uid r.gid page r.kind code (s.reqSite r) r.va (reqLanes fellows) r.tid (r.tid.toNat % 64)
    level frame
  s.waitRecord r.uid r.core fellows recId

/-- The requests that a request's instruction made to a page and that are held there too, the request among them: one
translation serves them all (R27, R116, R401). [DEDUCED, log 91] -/
def State.heldFellows (s : State) (r : Req) (page : PageId) : List Req :=
  s.reqs.filter fun x => x.phase == .frozen && x.core == r.core && x.uid == r.uid && x.kind == r.kind && x.push == r.push
    && page.holds x.space x.va

/-- A held access whose page has a replay entry of its core (R107): a store joins it, and a load or atomic whose lane has left waits on
its record. A lane that still stands at its instruction looks again. -/
def State.joinReplay (s : State) (r : Req) (e : Replay) : State :=
  let fellows := s.heldFellows r e.page
  if r.kind == .store then
    (if 64 ≤ (s.core r.core).replay.length then s else s.replayReq r fellows 0x07 e.page 0 0)
  else if r.entry.isNone then s.dropReq r.id
  else s.waitRecord r.uid r.core fellows e.recId

/-- A held access translated again (R116, R401), unless one that arrived earlier at its page still waits. -/
def State.thaw (s : State) (r : Req) : State :=
  match s.translate r.core r.space r.va r.access .core (some (r.gid.val, r.space)) with
  | (.frozen _, s) => s
  | (x, s') =>
    if s.heldAhead r.id (s'.xlatePage r.space r.va x) then s
    else match x with
      | .frozen _ => s
      | .ok pa u => s'.modReq r.id fun y => { y with pa := pa, xl := u, phase := .sent }
      | .fault code svc level page frame =>
        let fellows := s'.heldFellows r page
        if !svc then (if r.kind == .load && r.entry.isNone then s'.dropReq r.id
          else s'.refuseAccess r fellows code (accessDetail code r.space level false frame))
        else if r.kind == .store then
          (if 64 ≤ (s'.core r.core).replay.length then s else s'.replayReq r fellows code page level frame)
        else if r.entry.isNone then s'.dropReq r.id
        else s'.holdFaulted r fellows code page level frame

/-- THAW_RETRANSLATE: an access held at a frozen entry is translated again (R116, R401). One whose page has a replay entry of its core
goes behind it (R107). -/
def execThawRetranslate (id : Nat) (s : State) : Host.Outcome State Fault Refusal :=
  .next (match s.reqs.find? fun r => r.id == id with
  | none => (s.late.find? fun w => w.id == id).elim s s.retryLate
  | some r =>
    if r.phase != .frozen then s
    else match (s.core r.core).replayFor r.space r.va with
      | some e => s.joinReplay r e
      | none => s.thaw r)

/-! ### Copies -/

/-- One element of a copy: where it is read and where it is written. -/
structure Elem where
  srcP : Bool
  dstP : Bool
  src : DWord
  dst : DWord
  size : Nat
  deriving DecidableEq, Repr

/-- The number of elements of a copy. -/
def CopyJob.total (j : CopyJob) : Nat :=
  match j with
  | .lane _ _ b _ _ => b / 4
  | .bulk d _ => d.rows * (d.rowb / d.esz)
  | .rput _ _ _ n _ _ => n / 4
  | .rget _ _ _ n => n / 4

/-- The `i`-th element of a bulk copy in ascending order of destination address (R120), rows of elements being numbered one after the
other: where rows overlap, those of one address follow in row order. -/
def BulkDesc.nth (d : BulkDesc) (i : Nat) : Nat :=
  let per := d.rowb / d.esz
  if d.dstr < d.rowb ∧ 1 < d.rows then
    ((sortBy (fun n => n / per * d.dstr + n % per * d.esz) (List.range (d.rows * per)))[i]?).getD i
  else i

/-- Element `i` of a copy in ascending destination address: words (R242), elements of rows (R245), or words of a peer transfer. -/
def CopyJob.elem (j : CopyJob) (i : Nat) : Elem :=
  let o : DWord := BitVec.ofNat 64 (4 * i)
  match j with
  | .lane s d _ sp dp => ⟨sp, dp, s + o, d + o, 4⟩
  | .bulk d _ =>
    let per := d.rowb / d.esz
    let i := d.nth i
    let r := i / per
    let col := i % per * d.esz
    ⟨d.srcp, d.dstp, d.src + BitVec.ofNat 64 (r * d.sstr + col), d.dst + BitVec.ofNat 64 (r * d.dstr + col), d.esz⟩
  | .rput loc lp rem _ _ _ => ⟨lp, false, loc + o, rem + o, 4⟩
  | .rget loc lp rem _ => ⟨false, lp, rem + o, loc + o, 4⟩

/-- The transfer page of an element (R120). -/
def Elem.page (e : Elem) : Nat := e.dst.toNat / 65536

/-- Where an engine's access lies. -/
inductive EngineAt where
  | pool (o : Nat)
  | vault (pa : Nat)
  | away (pa : Nat) (leaf : Option (PageId × Nat × Nat))
  | hold
  /-- The way to its frame stalls (R363, R394), or its port does not send. -/
  | later
  | bad (code : Byte) (page : PageId) (level : Nat) (svc : Bool) (frame : Nat)
  deriving DecidableEq, Repr

/-- Bytes of the scratch that a copy's team holds. -/
def State.copyScratch (s : State) (k : Copy) : Nat :=
  match s.team k.core k.slot with
  | some t =>
    let other := if t.paired then ((s.team (partner k.core) t.mate).elim 0 fun x => x.scrG.length) else 0
    (t.scrG.length + other) * 65536
  | none => 0

/-- The page, the level and the frame of the TLB entry that gave a translation. -/
def State.leafOf (s : State) (space : Word) (va : DWord) (uid : Nat) : Option (PageId × Nat × Nat) :=
  ((s.die (homeDie va)).tlb.find? fun t => t.uid == uid).map fun t =>
    (⟨space, t.base, pageSize t.level⟩, t.level, field t.leaf.toNat 16 32 * 65536)

/-- An engine's access checked and translated. One that was held at a frozen page goes on in the order in which it arrived there (R116).
[DEDUCED, log 40] -/
def State.engineAt (s : State) (k : Copy) (pool : Bool) (a : DWord) (size : Nat) (acc : AccKind) : EngineAt × State :=
  if pool then
    if a.toNat + size ≤ s.copyScratch k then (.pool a.toNat, s) else (.bad 0x08 (unitPage k.space a.toNat) Config.unwalkedLevel.val false 0, s)
  else match s.translate k.core k.space a acc .engine (some (k.gid.val, k.space)) with
    | (.frozen _, s) => (.hold, s)
    | (x, s') =>
      if k.heldAt.any fun h => s.heldAhead h.1 (s'.xlatePage k.space a x) then (.hold, s)
      else match x with
        | .ok pa u =>
          (if s'.linkHeld k.core pa || !s'.pathOpen pa then .later else if inVault pa then .vault pa
            else .away pa (s'.leafOf k.space a u), s')
        | .frozen _ => (.hold, s)
        | .fault code svc level page frame => (.bad code page level svc frame, s')

/-- What one element's move comes to. -/
inductive Moved where
  | done
  | read (pa : Nat) (leaf : Option (PageId × Nat × Nat))
  | write (pa : Nat) (bs : List Byte) (leaf : Option (PageId × Nat × Nat))
  | hold (va : DWord)
  | later
  | ecc (acc : AccKind) (va : DWord)
  | bad (acc : AccKind) (va : DWord) (code : Byte) (page : PageId) (level : Nat) (svc : Bool) (frame : Nat)
  deriving DecidableEq, Repr

/-- The bytes of an element's source, or why they are not to be had yet. -/
def State.readElem (s : State) (k : Copy) (e : Elem) : Except Moved (List Byte) × State :=
  if !k.got.isEmpty then (.ok k.got, s)
  else match s.engineAt k e.srcP e.src e.size .load with
    | (.pool o, s) =>
      match s.team k.core k.slot with
      | none => (.error (.hold e.src), s)
      | some t =>
        let l := s.scratchLoc k.core t o
        match s.consume (dieOf l.1) 0 l.1 l.2 e.size (some (k.gid.val, k.space)) with
        | (true, s) => (.error (.ecc .load e.src), s)
        | (false, s) => (.ok (s.scratchBytes k.core t o e.size), s)
    | (.vault pa, s) =>
      let (bad, s) := s.transit k.core pa (some (k.gid.val, k.space))
      match s.readWord (vaultDie pa) pa e.size (some (k.gid.val, k.space)) with
      | (v, ue, s) => (if ue || bad then .error (.ecc .load e.src) else .ok (leBytes e.size v.toNat), s)
    | (.away pa l, s) => (.error (.read pa l), s)
    | (.later, s) => (.error .later, s)
    | (.hold, s) => (.error (.hold e.src), s)
    | (.bad code page level svc frame, s) => (.error (.bad .load e.src code page level svc frame), s)

/-- One element moved. [DESIGN CHOICE, log 36] -/
def State.moveElem (s : State) (k : Copy) (e : Elem) : Moved × State :=
  match s.readElem k e with
  | (.error m, s) => (m, s)
  | (.ok bs, s) =>
    match s.engineAt k e.dstP e.dst e.size .store with
    | (.pool o, s) =>
      match s.team k.core k.slot with
      | none => (.hold e.dst, s)
      | some t => (.done, s.scratchStore k.core t o bs)
    | (.vault pa, s) =>
      match s.transit k.core pa (some (k.gid.val, k.space)) with
      | (true, s) => (.ecc .store e.dst, s)
      | (false, s) => (.done, s.writeVault pa bs)
    | (.away pa l, s) => (.write pa bs l, s)
    | (.later, s) => (.later, s)
    | (.hold, s) => (.hold e.dst, s)
    | (.bad code page level svc frame, s) => (.bad .store e.dst code page level svc frame, s)

/-- The first element of the transfer page that an element lies in: the resume point (R120). -/
def pageStart (j : CopyJob) : Nat → Nat
  | 0 => 0
  | n + 1 => if (j.elem n).page = (j.elem (n + 1)).page then pageStart j n else n + 1

/-- A fault of a copy engine's access (R120, R121, R303): one that can be replayed stops the copy on the record that its group has for the
page and kind of access, or on a new one of KIND 7; any other is recorded, and the copy goes on without the access. `svc` is what the
walk says, and `stops` whether the fault is replayable. [DEDUCED, log 38] -/
def State.copyFault (s : State) (k : Copy) (acc : AccKind) (va : DWord) (code : Byte) (page : PageId) (level : Nat) (svc stops : Bool)
    (frame final : Nat) : Copy × State :=
  match if stops then (s.core k.core).standing k.uid page acc else none with
  | some x => ({ k with phase := .stopped x.id final }, s)
  | none =>
    let m : Lanes := match k.job with
      | .lane _ _ _ _ _ => Lanes.one k.pos
      | _ => 0
    let d := accessDetail code k.space level svc frame
    let ws := recordWords code 7 acc true false 0 0 k.site va m k.tid.toNat (k.tid.toNat % 64) k.gid.val k.core.val 0
      (s.teamSpace k.core k.team k.space) d.1 d.2
    if stops then
      let (recId, s) := s.newId
      ({ k with phase := .stopped recId final },
        s.pushRecord k.core ws (some ⟨recId, 0, 7, code, acc, k.uid, page, [], [], level, frame⟩))
    else (k.abandon final code, s.pushRecord k.core ws none)

/-- A copy's access held at a frozen page takes its place in the order of arrival (R116). -/
def State.holdCopy (s : State) (k : Copy) (va : DWord) : Copy × State :=
  if k.heldAt.isSome then (k, s)
  else
    let (n, s) := s.newId
    ({ k with heldAt := some (n, va) }, s)

/-- A copy one element further on: its transfer page ends where the next element lies in another, and its last page ends the
transfer. [DEDUCED, log 38] -/
def Copy.advance (k : Copy) : Copy :=
  let n := k.next + 1
  let k := { k with next := n, got := [], heldAt := none }
  if k.job.total ≤ n then { k with pages := k.pages + 1, phase := .status }
  else if (k.job.elem n).page = (k.job.elem (n - 1)).page then k
  else { k with pages := k.pages + 1 }

/-- Elements moved to the end of the transfer page at most, `n` of them (R120). [DESIGN CHOICE, log 36] -/
def State.copyRun (s : State) (k : Copy) : Nat → Copy × State
  | 0 => (k, s)
  | n + 1 =>
    if k.job.total ≤ k.next then ({ k with phase := .status }, s)
    else match s.moveElem k (k.job.elem k.next) with
      | (.done, s) =>
        let k' := k.advance
        if k'.pages = k.pages then s.copyRun k' n else (k', s)
      | (.read pa l, s) => ({ k with phase := .atPeer s.reft, got := [], heldAt := none, leaf := l }, s.sendFrame k.id pa 0 [])
      | (.write pa bs l, s) => ({ k with phase := .atPeer s.reft, got := bs, heldAt := none, leaf := l }, s.sendFrame k.id pa 1 bs)
      | (.hold va, s) => s.holdCopy k va
      | (.later, s) => (k, s)
      | (.ecc acc va, s) =>
        s.copyFault { k with next := pageStart k.job k.next, got := [], heldAt := none } acc va 0x11 (unitPage k.space va.toNat) 0 false
          false 0 0
      | (.bad acc va code page level svc frame, s) =>
        s.copyFault { k with next := pageStart k.job k.next, got := [], heldAt := none } acc va code page level svc svc frame 0

/-- One copy changed. -/
def State.putCopy (s : State) (k : Copy) : State := { s with copies := s.copies.map fun x => if x.id = k.id then k else x }

/-- COPY_TRANSFER_PAGE: a copy engine moves one transfer page (R120). [DESIGN CHOICE, log 9; DESIGN CHOICE, log 36] -/
def execCopyTransferPage (id : Nat) (s : State) : Host.Outcome State Fault Refusal :=
  .next (match s.copies.find? fun k => k.id == id with
  | none => s
  | some k =>
    if k.phase != .moving then s
    else
      let (k, s) := s.copyRun k 65537
      s.putCopy k)

/-- The status word of a counted copy (R121). -/
def Copy.statusWord (k : Copy) : Nat := k.code.toNat + k.pages % 2 ^ 32 * 2 ^ 32

/-- The access that a copy's status word (1) or its counter's add (2) is. [DEDUCED, log 92] -/
def finalKind (final : Nat) : AccKind := if final = 2 then .atomic else .store

/-- The addresses of a copy's status word and counter. -/
def CopyJob.finalVa (j : CopyJob) (final : Nat) : DWord :=
  match j with
  | .bulk d _ => if final = 1 then d.stat else d.cnt
  | .rput _ _ _ _ rcnt _ => rcnt
  | .lane _ _ _ _ _ | .rget _ _ _ _ => 0

/-- Whether a release at a scope by the threads of a copy may perform (R100, R101, R108): no replay entry made before the copy is left,
their earlier reads have performed, and, where the scope asks for it, their core's earlier writes have. -/
def State.copyReleased (s : State) (k : Copy) (sc : Scope) : Bool :=
  let own (r : Req) : Bool := r.team == k.team && r.tids.any fun t => k.tids.contains t
  let pair := (s.team k.core k.slot).any Team.paired
  let wide := scopeWide sc || (pair && sc == .team)
  sc == .thr || (!(s.core k.core).replayBefore k.id
    && !(s.reqs.any fun r => (r.core == k.core || (pair && r.core == partner k.core)) && r.open_ && decide (r.push < k.id)
      && ((own r && r.kind != .store) || (wide && r.writes && (sc == .sys || !r.outside)))))

/-- A final access of a copy, its status word or its counter's add, a release at a scope: made at once in a vault, sent to a frame
elsewhere, or stopped on a record (R121). `final` is 1 for the status word and 2 for the counter, whose add is atomic (R111). -/
def State.finalAccess (s : State) (k : Copy) (final : Nat) (sc : Scope) (va : DWord) (next : CopyPhase)
    (write : State → Nat → Bool × State) : State :=
  let acc := finalKind final
  if !s.copyReleased k sc then s
  else match s.engineAt k false va 8 acc with
  | (.vault pa, s) =>
    match write s pa with
    | (true, s) =>
      let (k, s) := s.copyFault { k with heldAt := none } acc va 0x11 (unitPage k.space va.toNat) 0 false false 0 final
      s.putCopy k
    | (false, s) => s.putCopy { k with phase := next, heldAt := none }
  | (.away pa l, s) =>
    (write s pa).2.putCopy { k with phase := .atPeer s.reft, next := k.job.total + final, got := [], heldAt := none, leaf := l }
  | (.later, s) => s
  | (.bad code page level svc frame, s) =>
    let (k, s) := s.copyFault { k with heldAt := none } acc va code page level svc svc frame final
    s.putCopy k
  | (_, s) =>
    let (k, s) := s.holdCopy k va
    s.putCopy k

/-- COPY_COMPLETION: the end of a copy. A bulk copy writes its status word and then adds to its counter (R120, R121, R246); a
put adds 1 to its counter at the peer (R249). -/
def execCopyCompletion (id : Nat) (s : State) : Host.Outcome State Fault Refusal :=
  .next (match s.copies.find? fun k => k.id == id with
  | none => s
  | some k =>
    let due := k.phase == .status || k.phase == .counter
    match k.job with
    | .lane _ _ _ _ _ | .rget _ _ _ _ => if due then s.putCopy { k with phase := .done } else s
    | .rput _ _ _ _ rcnt sc =>
      if !due then s
      else if rcnt = 0 ∨ k.code ≠ 0 then s.putCopy { k with phase := .done }
      else s.finalAccess k 2 sc rcnt .done fun s pa => s.counterAdd k.core sc k.id pa 1 (some (k.gid.val, k.space))
    | .bulk d sc =>
      match k.phase with
      | .status => s.finalAccess k 1 .dev d.stat .counter fun s pa =>
          let bs := leBytes 8 k.statusWord
          (false, if inVault pa then (s.writeVault pa bs).tagWrite (some .dev) pa k.core k.id else s.sendFrame k.id pa 1 bs)
      | .counter => s.finalAccess k 2 sc d.cnt .done fun s pa => s.counterAdd k.core sc k.id pa d.amt.toNat (some (k.gid.val, k.space))
      | .done => { s with copies := s.copies.filter fun x => x.id != id }
      | _ => s)

/-- A copy's access to a CXL or peer frame completes: a read's data is kept for its element, a write ends its element, and
the status word's or the counter's access ends that part. -/
def Copy.frameDone (k : Copy) (data : List Byte) : Copy :=
  if k.next = k.job.total + 1 then { k with phase := .counter }
  else if k.next = k.job.total + 2 then { k with phase := .done }
  else if k.got.isEmpty then
    let n := (k.job.elem k.next).size
    { k with phase := .moving, got := (List.range n).map fun i => data.getD i 0 }
  else { ({ k with phase := .moving } : Copy).advance with code := k.code }

/-- DETAIL0 and DETAIL1 of a request that its completer refused (R303): the walk that the TLB entry it used kept. -/
def State.usedDetail (s : State) (r : Req) : DWord × DWord :=
  match (s.die (homeDie r.va)).tlb.find? fun t => t.uid == r.xl with
  | some t => accessDetail 0x07 r.space t.level false (field t.leaf.toNat 16 32 * 65536)
  | none => accessDetail 0x07 r.space Config.unwalkedLevel.val false (r.pa / 65536 * 65536)

/-- The completion of a request to a CXL or peer frame (R313): its data, or a fault of the requester. [DEDUCED, log 39] [DEDUCED, log 38; DEDUCED, log 39] -/
def State.frameAnswer (s : State) (id : Nat) (status : CxlStatus) (data : List Byte) : State :=
  match s.reqs.find? fun r => r.id == id && r.phase == .away with
  | some r =>
    match status with
    | .abort | .unsupported =>
      if r.kind == .other then s.modReq id fun x => { x with phase := .done 0 false, data2 := 1 }
      else s.refuseAccess r [r] 0x07 (s.usedDetail r)
    | .ok | .poisoned =>
      if r.kind == .store then
        let s := s.dropReq id
        match r.entry with
        | some (q, e) => s.modEntryOf r.core r.uid q e fun x => x.fill r.pos 0 false
        | none => s
      else
        let (bad, s) := s.transit r.core r.pa (some (r.gid.val, r.space))
        s.modReq id fun x => { x with phase := .done (BitVec.ofNat 64 (leNat (data.take r.size))) (status == .poisoned || bad) }
  | none =>
    match s.copies.find? fun k => k.id == id && k.isAway with
    | none => s
    | some k =>
      let final := k.next - k.job.total
      let e := k.job.elem (min k.next (k.job.total - 1))
      let reading := k.got.isEmpty && final == 0
      let (bad, s) := if reading then k.leaf.elim (false, s) fun l => s.transit k.core l.2.2 (some (k.gid.val, k.space)) else (false, s)
      if (status = .ok ∧ bad = false) ∨ (status = .poisoned ∧ reading = false) then s.putCopy (k.frameDone data)
      else
        let (va, acc) : DWord × AccKind :=
          if final ≠ 0 then (k.job.finalVa final, finalKind final) else if reading then (e.src, .load) else (e.dst, .store)
        let k := { k with next := if final = 0 then pageStart k.job k.next else k.job.total, got := [] }
        let (page, level, frame) := k.leaf.getD (unitPage k.space va.toNat, 0, 0)
        let (k, s) := s.copyFault k acc va (if status = .poisoned || bad then 0x11 else 0x07) page level false true frame final
        s.putCopy k

/-- CXL_COMPLETION: a completion of the host interface with its status (R122, R313). -/
def execCxlCompletion (id : Nat) (status : CxlStatus) (data : DWord) (s : State) : Host.Outcome State Fault Refusal :=
  .next (s.frameAnswer id status (leBytes 8 data.toNat))

/-! ### Tokens -/

/-- The copies that a token stands for. -/
def Token.copies (t : Token) (s : State) : List Copy :=
  s.copies.filter fun k => if t.isBatch then k.batchTok == some t.id else k.token == t.id

/-- The status of a token: of the first failing copy, by ascending home lane and then in issue order (R243, R244). -/
def Token.status (t : Token) (s : State) : Byte :=
  ((sortBy (fun k : Copy => k.tid.toNat % 64) (t.copies s)).find? fun k => k.code != 0).elim 0 Copy.code

/-- A token's register written in a group: in the bank's snapshot when the names are the handler's and the token is older
than the handler's own for that register. -/
def State.writeToken (s : State) (t : Token) (gid : Fin 128) (v : DWord) : State :=
  match s.group t.core gid with
  | none => s
  | some g =>
    let bit : BitVec 128 := 1#128 <<< t.reg.val
    let own := !(s.tokens.any fun u => u.core == t.core && u.uid == t.uid && u.reg == t.reg && decide (u.id < t.id))
    match s.bankOf t.core gid g with
    | some b =>
      if 112 ≤ t.reg.val ∧ (b.snap.tok &&& bit) ≠ 0 ∧ own then
        let snap := { b.snap with s := b.snap.s.set t.reg v, tok := b.snap.tok &&& ~~~bit }
        s.modCore t.core fun k => { k with banks := k.banks.set g.part (some { b with snap := snap }) }
      else s.modGroup t.core gid fun x => { x with s := x.s.set t.reg v, tok := x.tok &&& ~~~bit, polled := false }
    | none => s.modGroup t.core gid fun x => { x with s := x.s.set t.reg v, tok := x.tok &&& ~~~bit, polled := false }

/-- TOKEN_WRITE: an asynchronous operation has performed, and the core writes its token (R109). -/
def execTokenWrite (id : Nat) (s : State) : Host.Outcome State Fault Refusal :=
  .next (match s.tokens.find? fun t => t.id == id with
  | none => s
  | some t =>
    if (t.copies s).any fun k => k.phase != .done then s
    else
      let v : DWord := (t.status s).setWidth 64
      let s := if t.stream then
          [false, true].foldl (fun s copy => match (s.core t.core).stream copy with
            | some st =>
              if st.uid = t.uid then
                s.setStream t.core copy (some { st with
                  s := st.s.set t.reg v, tok := st.tok &&& ~~~(1#128 <<< t.reg.val), polled := false })
              else s
            | none => s) s
        else match s.findGroup t.core t.uid with
          | some gid => s.writeToken t gid v
          | none => s
      let left := s.tokens.filter fun u => u.id != id
      let stands (n : Nat) : Bool := left.any fun u => u.id == n
      { s with
        tokens := left
        copies := s.copies.filter fun k => !(k.phase == .done && !stands k.token
          && (match k.job with
            | .lane _ _ _ _ _ => k.batchTok.elim false fun b => !stands b
            | .bulk _ _ => false
            | _ => true)) })

end Sys2Proof.Machine
end

