-- ==== Sys2Proof/Machine/Identity.lean ====
section
/-! DEFINITION. Width, identity and time (R18, R19, R181 to R184). -/
namespace Sys2Proof.Machine

/-! ### SETW (R18) -/

/-- The width a request rounds to (R18). -/
def roundWidth (req : Nat) : Grant :=
  let req := if req = 0 ∨ 64 < req then 64 else req
  if req ≤ 16 then .w16 else if req ≤ 32 then .w32 else .w64

/-- Whether the group has an asynchronous operation that has not yet written its token. -/
def State.asyncOf (s : State) (c : Fin 128) (g : Group) : Bool :=
  g.tok != 0 || s.tokens.any fun t => t.uid == g.uid && t.core == c

/-- Whether any queue of the group holds an entry, or a request of the group is outstanding (R18, R30). -/
def State.queuesBusy (s : State) (c : Fin 128) (g : Group) : Bool :=
  (List.finRange 8).any (fun q => !(g.q.get q).isEmpty)
    || s.reqs.any fun r => r.uid == g.uid && r.core == c && r.entry.isSome

/-- Part `i` of width `w` of a group being split (R18). -/
def Group.part_ (g : Group) (w : Grant) (i : Nat) : Group :=
  let src (p : Fin 64) : Fin 64 := Fin.ofNat 64 (i * w.lanes + p.val)
  let inside (p : Fin 64) : Bool := decide (p.val < w.lanes)
  let pick {α : Type} (t : Tab α 64) (z : α) : Tab α 64 := Tab.ofFn fun p => if inside p then t.get (src p) else z
  { g with
    grant := w
    block := g.block * (g.grant.lanes / w.lanes) + i
    age := (g.age.1, g.age.2 + i * (w.lanes / 16))
    tid := pick g.tid 0
    lpc := pick g.lpc 0
    lst := pick g.lst .vacant
    depth := pick g.depth 0
    v := g.v.map fun x => pick x 0
    k := g.k.map fun m => Lanes.ofFn fun p => inside p && m.has (src p)
    batch := pick g.batch 0
    hlanes := Lanes.ofFn fun p => inside p && g.hlanes.has (src p)
    dels := (g.dels.map fun d => { d with lanes := Lanes.ofFn fun p => inside p && d.lanes.has (src p) }).filter fun d => d.lanes != 0
    fence := pick g.fence none
    barWaits := (g.barWaits.map fun w => { w with lanes := Lanes.ofFn fun p => inside p && w.lanes.has (src p) }).filter fun w => w.lanes != 0 }

/-- The lowest free group numbers of a core. [DEDUCED, log 44] -/
def Core.freeGroups (k : Core) : List (Fin 128) := (List.finRange 128).filter fun i => (k.groups.get i).isNone

/-- The parts of a split placed: the first keeps the group's number, the others take the lowest free ones. With the slots that the group
took from the core reserve, each part holds the reserve with the others (R62). A part's slices stay in the rows of the group named `old`
(R59). -/
def State.placeParts (s : State) (c : Fin 128) (old : Nat) (lent : Option Nat) : List (Fin 128 × Group) → State
  | [] => s
  | (num, g) :: rest =>
    let (uid, s) := s.newId
    let s := s.setGroup c num (some { g with uid := uid })
    let s := s.modCore c fun k =>
      { k with
        rows := k.rows ++ (k.rows.filter fun e => e.uid == old).map fun e => { e with uid := uid }
        loan := match lent with
          | some n => k.loan ++ [(uid, n)]
          | none => k.loan }
    s.placeParts c old lent rest

/-- The part that takes the lanes in handler mode keeps the bank, whose snapshot is that part's; the others stand on the group's own
registers again (R298, R302). -/
def State.splitBank (s : State) (c : Fin 128) (b : Bank) (w : Grant) (placed : List (Fin 128 × Nat × Group)) : State :=
  match placed.find? fun e => e.2.2.hmode with
  | some (num, i, g) => s.modCore c fun k => { k with banks := k.banks.set g.part (some { b with gid := num, snap := b.snap.part_ w i }) }
  | none => s

/-- Part `i` of a group that SETW splits with S[d] written in it: in handler mode, a part with no lane there has the group's own registers
under the bank's names again. -/
def Group.splitPart (g : Group) (b : Option Bank) (d : Fin 128) (w : Grant) (i : Nat) : Group :=
  match b with
  | some b => if (g.part_ w i).hmode then g.part_ w i else ((g.backFrom b).part_ w i).writeS d (BitVec.ofNat 64 w.lanes)
  | none => g.part_ w i

/-- SETW's effect (R18): a split into narrower groups where it may be made, else the old width. It makes none that would put lanes in handler
mode into two groups, for a partition has one such group (R298). [DEDUCED, log 99] -/
def setWidth (d : Fin 128) (sh : Shape) (req : Ctx → Nat) (s : State) : Host.Outcome State Fault Refusal :=
  s.issue sh fun x s =>
    if x.g.inState .parked != 0 then s.switchOut x
    else
      let w := roundWidth (req x)
      let old := x.g.grant.lanes
      let n := old / w.lanes
      let bank := if x.g.hmode then s.bankOf x.c x.gid x.g else none
      let busy := s.queuesBusy x.c x.g || bank.any fun b => s.queuesBusy x.c b.snap || b.snap.tok != 0
      let torn := decide (1 < ((List.range n).filter fun i => (x.g.part_ w i).hmode).length)
      if old ≤ w.lanes ∨ busy ∨ s.asyncOf x.c x.g ∨ (s.core x.c).freeGroups.length < n - 1 ∨ torn then
        s.finish x sh (x.g.writeS d (BitVec.ofNat 64 old)) (fun _ => x.pc + 4) []
      else
        let g := x.retire sh (x.g.writeS d (BitVec.ofNat 64 w.lanes)) (fun _ => x.pc + 4) 0
        let parts := ((List.range n).map fun i => (i, g.splitPart bank d w i)).filter fun p => p.2.inState .running != 0
        let nums := x.gid :: (s.core x.c).freeGroups
        let lent := (s.core x.c).lent x.g.uid
        let s := s.modCore x.c fun k => { k with loan := k.loan.filter fun e => e.1 != x.g.uid, idleCount := -1 }
        let placed := nums.zip parts
        let s := s.placeParts x.c x.g.uid lent (placed.map fun p => (p.1, p.2.2))
        let s := bank.elim s fun b => s.splitBank x.c b w placed
        let s := placed.foldl (fun s p => s.settle x.c p.1) s
        if lent.isSome then s.endLoan x.c else s

/-- SETW Sd, Sa (R18, R181). -/
def execSetwReg (d a : Fin 128) (st : Fin 8) (s : State) : Host.Outcome State Fault Refusal :=
  setWidth d ⟨true, st.val, [d, a], [keyS a], [(keyS d, 2)], .other⟩ (fun x => (x.g.s.get a).toNat) s

/-- SETW Sd, #imm (R18, R181). -/
def execSetwImm (d : Fin 128) (imm : BitVec 7) (st : Fin 8) (s : State) : Host.Outcome State Fault Refusal :=
  setWidth d ⟨true, st.val, [d], [], [(keyS d, 2)], .other⟩ (fun _ => imm.toNat) s

/-! ### Identity (R34, R182) -/

/-- An identity instruction that writes a uniform register once. -/
def State.identityS (s : State) (d : Fin 128) (st : Fin 8) (f : Ctx → State → Nat) : Host.Outcome State Fault Refusal :=
  s.plain ⟨true, st.val, [d], [], [(keyS d, 2)], .other⟩ fun x s => x.g.writeS d (BitVec.ofNat 64 (f x s))

/-- An identity instruction that writes a lane register in the lanes of ACT. -/
def State.identityV (s : State) (d : Fin 64) (st : Fin 8) (f : Ctx → Fin 64 → Nat) : Host.Outcome State Fault Refusal :=
  let sh : Shape := ⟨true, st.val, [], [], [(keyV d, 2)], .other⟩
  s.issue sh fun x s => s.withSlices x sh [d] fun s =>
    s.finish x sh (x.g.writeV d x.act fun p => BitVec.ofNat 32 (f x p)) (fun _ => x.pc + 4) []

/-- GETW: the group's grant (R19). -/
def execGetw (d : Fin 128) (st : Fin 8) (s : State) : Host.Outcome State Fault Refusal :=
  s.identityS d st fun x _ => x.g.grant.lanes

/-- TID: the thread index. -/
def execTid (d : Fin 64) (st : Fin 8) (s : State) : Host.Outcome State Fault Refusal :=
  s.identityV d st fun x p => (x.g.tid.get p).toNat

/-- HLANE: the home lane. -/
def execHlane (d : Fin 64) (st : Fin 8) (s : State) : Host.Outcome State Fault Refusal :=
  s.identityV d st fun x p => (x.g.tid.get p).toNat % 64

/-- RANK: the lanes of ACT with a lower home lane. -/
def execRank (d : Fin 64) (st : Fin 8) (s : State) : Host.Outcome State Fault Refusal :=
  s.identityV d st fun x p => (x.act.list.filter fun q => decide (q.val < p.val)).length

/-- A team coordinate of a thread (R11). -/
def teamCoord (shape : Nat × Nat × Nat) (axis : Fin 3) (tid : Nat) : Nat :=
  if axis.val = 0 then tid % shape.1
  else if axis.val = 1 then tid / shape.1 % shape.2.1
  else tid / shape.1 / shape.2.1

/-- TEAM: the thread's coordinate on an axis. -/
def execTeam (d : Fin 64) (axis : Fin 3) (st : Fin 8) (s : State) : Host.Outcome State Fault Refusal :=
  s.identityV d st fun x p => teamCoord x.grid.shape axis (x.g.tid.get p).toNat

/-- GRID: the team's coordinate within the grid. -/
def execGrid (d : Fin 128) (axis : Fin 3) (st : Fin 8) (s : State) : Host.Outcome State Fault Refusal :=
  s.identityS d st fun x _ => if axis.val = 0 then x.t.coord.1 else if axis.val = 1 then x.t.coord.2.1 else x.t.coord.2.2

/-- GID: the group number on the core. -/
def execGid (d : Fin 128) (st : Fin 8) (s : State) : Host.Outcome State Fault Refusal :=
  s.identityS d st fun x _ => x.gid.val

/-- CORE: the global core number. -/
def execCore (d : Fin 128) (st : Fin 8) (s : State) : Host.Outcome State Fault Refusal :=
  s.identityS d st fun x _ => x.c.val

/-- DIE: the core's die. -/
def execDie (d : Fin 128) (st : Fin 8) (s : State) : Host.Outcome State Fault Refusal :=
  s.identityS d st fun x _ => (dieOf x.c).val

/-! ### Time (R183) -/

/-- CYC: the executing die's cycle counter. -/
def execCyc (d : Fin 128) (st : Fin 8) (s : State) : Host.Outcome State Fault Refusal :=
  s.identityS d st fun x s => (s.die (dieOf x.c)).cyc.toNat

/-- REFT: the package's reference timer. -/
def execReft (d : Fin 128) (st : Fin 8) (s : State) : Host.Outcome State Fault Refusal :=
  s.identityS d st fun _ s => s.reft.toNat

end Sys2Proof.Machine
end

