-- ==== Sys2Proof/Machine/Stream.lean ====
section
/-! DEFINITION. Streams: FORK, RDV and MEND (R268, R272, R273). -/
namespace Sys2Proof.Machine

/-- The core and the team's slot there that a FORK names (R268). -/
def forkPlace (x : Ctx) (odd : Bool) : Fin 128 × Fin 16 :=
  if x.t.paired then
    if odd = x.t.odd then (x.c, x.g.team) else (partner x.c, x.t.mate)
  else (x.c, x.g.team)

/-- A stream as FORK starts it (R268). [DEDUCED, log 34] -/
def newStream (uid : Nat) (slot : Fin 16) (entry : Word) (regs : Tab DWord 128) : Stream where
  uid := uid
  team := slot
  pc := entry
  s := regs
  tok := 0
  loops := Tab.replicate 64 0
  bars := Tab.replicate 16 .notArrived
  barWait := none
  barSt := 0
  stall := 0
  wait := none
  polled := false
  engHeld := false
  held := none
  stopped := false

/-- The named streams of a FORK: NONE is bit 63 (R268). -/
def streamNamed (v : DWord) : Bool := !v.getLsbD 63

/-- The checks of a FORK (R268), lowest code first. -/
def State.forkChecks (s : State) (x : Ctx) (odd : Bool) (v w : DWord) (place : Fin 128 × Fin 16) (word : DWord) : Option Failed :=
  let declared (u : DWord) (copy : Bool) : Bool :=
    x.grid.kern.strms.any fun e => e.1 == field u.toNat 0 32 && e.2 == copy
  let busy (copy : Bool) : Bool := match (s.core place.1).stream copy with
    | some st => st.team == place.2
    | none => false
  let bad (u : DWord) (copy : Bool) : Bool := streamNamed u && (!declared u copy || busy copy)
  firstFailed [(bad v false || bad w true, ⟨0x01, 0, 8, 0⟩),
    (field v.toNat 32 31 != 0 || field w.toNat 32 31 != 0 || (odd && !x.t.paired), ⟨0x05, 0, word, 0⟩),
    (streamNamed v && x.grid.accg == 0, ⟨0x08, 0, plainDetail 0x08, 0⟩)]

/-- FORK: a matrix stream and a copy stream started, a release at team scope (R268). A sequencer that still runs another
team's stream holds it. [DEDUCED, log 34] -/
def execFork (a : Fin 128) (odd : Bool) (st : Fin 8) (s : State) : Host.Outcome State Fault Refusal :=
  let sh : Shape := ⟨true, max st.val 1, List.finRange 128, (List.finRange 128).map keyS, [], .other⟩
  let word := wordOf (.fork a odd st)
  s.issue sh fun x s =>
    let v := x.g.s.get a
    let w := x.g.s.get (nextS a 1)
    let place := forkPlace x odd
    match s.forkChecks x odd v w place word with
    | some f => s.faultAll x sh f.code f.va f.d0 f.d1
    | none => s.released x .team fun s =>
      let taken (u : DWord) (copy : Bool) : Bool := streamNamed u && ((s.core place.1).stream copy).isSome
      if taken v false || taken w true then s.hold x
      else
        let start (s : State) (u : DWord) (copy : Bool) : State :=
          if streamNamed u then
            let (uid, s) := s.newId
            s.setStream place.1 copy (some (newStream uid place.2 (BitVec.ofNat 32 u.toNat) x.g.s))
          else s
        let s := s.modTeam x.home x.slot fun t => { t with kept := 0 }
        (start (start s v false) w true).finish x sh x.g (fun _ => x.pc + 4) []

/-- Whether a write that a stream of the team made has yet to perform: an acquire at team scope of those writes waits for it on a pair,
whose two cores have stores of their own (R101, R104). -/
def State.streamWritesOpen (s : State) (x : Ctx) : Bool :=
  let queued (c : Fin 128) : Bool := (s.core c).replay.any fun r => r.stream && r.team == x.t.admitted
  x.t.paired && (queued x.c || queued (partner x.c)
    || s.reqs.any fun r => r.tids.isEmpty && r.team == x.t.admitted && r.writes && r.open_)

/-- RDV: a wait until no stream of the team runs; a kept code faults every lane (R272, R273). -/
def execRdv (st : Fin 8) (s : State) : Host.Outcome State Fault Refusal :=
  let sh := ctl st.val []
  s.issue sh fun x s =>
    if !s.streamsIdle x.c x.g.team x.t then s.waitOn x .streams
    else if s.streamWritesOpen x then s.hold x
    else
      let kept := ((s.team x.home x.slot).map Team.kept).getD 0
      if kept = 0 then s.finish x sh x.g (fun _ => x.pc + 4) [] else s.faultAll x sh kept 0 0 0

/-- MEND: the end of the issuing stream; ILLOP in a group (R272). -/
def execMend (st : Fin 8) (s : State) : Host.Outcome State Fault Refusal :=
  let sh := ctl st.val []
  if s.byStream then s.issueStream sh fun y s => s.setStream y.c y.copy none
  else s.issue sh fun x s => s.faultAll x sh 0x05 0 (wordOf (.mend st)) 0

end Sys2Proof.Machine
end

