-- ==== Sys2Proof/Machine/Fetch.lean ====
section
/-! DEFINITION. Which groups and streams may issue (R339, R344), the fetch of an instruction's bytes through the page
tables (R301, R309, R310), the class of an instruction (R339), and a program placed for the first step to fetch. -/
namespace Sys2Proof.Machine

/-! ### Who may issue -/

/-- Whether a die's clocks run: the package is up and no relock is in progress (R363, R384, R385). [DEDUCED, log 87] -/
def State.clocked (s : State) (d : Fin 4) : Bool := s.pkg.mbstate == .running && (s.die d).relock.isNone

/-- Whether a group asked to stop may still issue: until its safe point, or until its handler has ended (R298, R344,
R347). -/
def Group.goesOn (g : Group) : Bool :=
  match g.stop with
  | .none => true
  | .atSafePoint => true
  | .requested _ => g.hmode
  | _ => false

/-- Whether a group may be offered an issue slot (R339): it has not issued within its STALL interval, nothing that it is
known to wait for is outstanding, and its space is not being retired (R350). -/
def State.groupReady (s : State) (c gid : Fin 128) : Bool :=
  match s.group c gid with
  | none => false
  | some g =>
    s.clocked (dieOf c) && (s.core c).power == .active && g.stall == 0 && !g.polled && !g.away && !g.idle && !g.engHeld
      && g.brm.isNone && g.goesOn && !s.isRetiring (s.die (dieOf c)).part ((s.gridOf c g).elim 0 Grid.space)

/-- The same for a stream. -/
def State.streamReady (s : State) (c : Fin 128) (copy : Bool) : Bool :=
  match (s.core c).stream copy with
  | none => false
  | some st =>
    s.clocked (dieOf c) && (s.core c).power == .active && st.stall == 0 && !st.polled && !st.engHeld && !st.stopped
      && (match s.team c st.team with
        | some t => !s.isRetiring (s.die (dieOf c)).part ((s.grid t.grid).elim 0 Grid.space)
        | none => false)

/-- Whether an issuer may be offered a slot. -/
def State.ready (s : State) (who : Agent) : Bool :=
  match who with
  | .group c gid => s.groupReady c gid
  | .stream c copy => s.streamReady c copy

/-- Whether a group stands at a safe point of its kernel, whose instruction it has not issued (R153, R344). -/
def Ctx.atSafePoint (x : Ctx) (s : State) : Bool :=
  !x.g.hmode
    && ((List.finRange 64).all fun p => x.g.lst.get p == .exited || x.g.lst.get p == .vacant || x.act.has p)
    && x.grid.kern.safes.any (fun e => e.1 == x.pc.toNat)
    && (List.finRange 8).all (fun q => (x.g.q.get q).isEmpty) && !s.asyncOf x.c x.g
    && x.g.waitersAt x.pc == 0

/-! ### The fetch -/

/-- What a fetch comes to. -/
inductive Fetched where
  | code (i : Instr)
  /-- An encoding that is no instruction: its 32 bits, or its parcel. -/
  | illegal (bits : DWord)
  /-- The page is frozen (R116). -/
  | held
  /-- A page fault, with the instruction's LEN as far as it is known. -/
  | bad (code : Byte) (va d0 d1 : DWord) (wide : Bool)
  deriving DecidableEq, Repr

/-- The instruction that bytes hold. -/
def fetchedOf (bs : List Byte) : Fetched :=
  match decodeBytes bs with
  | .ok (i, _) => .code i
  | .error _ => .illegal (BitVec.ofNat 64 (leNat bs))

/-- Who fetches: the core, the group's number or 0 for a stream, the name of the group or stream, and the space. -/
structure Fetcher where
  c : Fin 128
  gid : Fin 128
  uid : Nat
  space : Word
  deriving DecidableEq, Repr

/-- Two bytes of code at a frame outside the vaults, by a request: sent once, and its data taken when its completion has arrived
(R122, R313). -/
def State.fetchFrame (s : State) (w : Fetcher) (va : DWord) (pa xl : Nat) (wide : Bool) : Except Fetched (List Byte) × State :=
  match s.reqs.find? fun r => r.core == w.c && r.uid == w.uid && r.kind == .other && r.va == va with
  | some r =>
    match r.phase with
    | .done v ue =>
      let d := s.usedDetail r
      (if r.data2 ≠ 0 then .error (.bad 0x07 va d.1 d.2 wide) else if ue then .error (.bad 0x11 va 0 0 wide) else .ok (leBytes 2 v.toNat),
        s.dropReq r.id)
    | _ => (.error .held, s)
  | none =>
    let (id, s) := s.newId
    let r : Req := {
      id := id, push := id, kind := .other, aop := .exch, add64 := false, core := w.c, uid := w.uid, gid := w.gid, team := 0, pos := 0
      tid := 0, tids := [], space := w.space, va := va, pa := pa, xl := xl, entry := none, scope := .thr, acq := false, rel := false
      tagScope := none, data := 0, data2 := 0, promoted := false, phase := .sent, since := s.reft }
    (.error .held, { s with reqs := s.reqs ++ [r] })

/-- Two bytes of code at a virtual address: from a vault, whose errors the fetch consumes (R390), or by a request from a frame elsewhere.
The fetch waits at a frozen page (R116) and behind a link that stalls (R363, R394). [DEDUCED, log 86] -/
def State.fetchParcel (s : State) (w : Fetcher) (va : DWord) (wide : Bool) : Except Fetched (List Byte) × State :=
  let ctx := some (w.gid.val, w.space)
  match s.translate w.c w.space va .load .fetch ctx with
  | (.ok pa xl, s) =>
    if !inVault pa then s.fetchFrame w va pa xl wide
    else if s.linkHeld w.c pa then (.error .held, s)
    else
      let (u1, s) := s.transit w.c pa ctx
      let (u2, s) := s.consumeVault (vaultDie pa) pa 2 ctx
      (if u1 || u2 then .error (.bad 0x11 va 0 0 wide) else .ok (s.mem.bytes pa 2), s)
  | (.frozen _, s) => (.error .held, s)
  | (.fault code svc level _ frame, s) =>
    let d := accessDetail code w.space level svc frame
    (.error (.bad code va d.1 d.2 wide), s)

/-- The instruction at a virtual address (R123), `room` bytes before its section's end: a first parcel, and a second when its LEN says
so. LEN = 1 in the last parcel is no instruction (R142). [DEDUCED, log 86] -/
def State.fetch (s : State) (w : Fetcher) (va : DWord) (room : Nat) : Fetched × State :=
  match s.fetchParcel w va Config.unfetchedWide with
  | (.error e, s) => (e, s)
  | (.ok lo, s) =>
    if leNat lo % 2 = 0 then (fetchedOf lo, s)
    else if room < 4 then (.illegal (BitVec.ofNat 64 (leNat lo)), s)
    else match s.fetchParcel w (va + 2) true with
      | (.error e, s) => (e, s)
      | (.ok hi, s) => (fetchedOf (lo ++ hi), s)

/-- The virtual address of a group's next instruction: its kernel's code base, or HCODE in handler mode (R301). [DEDUCED, log 86] -/
def State.fetchVa (s : State) (x : Ctx) : DWord :=
  let base := if x.g.hmode then (s.bankOf x.c x.gid x.g).elim 0 Bank.hcode else x.grid.kern.base
  base + x.pc.setWidth 64

/-- A group and a stream as fetchers, with the bytes from their address to the end of their section. -/
def State.groupFetcher (s : State) (x : Ctx) : Fetcher := ⟨x.c, x.gid, x.g.uid, s.spaceOf x.c x.g⟩
def SCtx.fetcher (y : SCtx) : Fetcher := ⟨y.c, 0, y.st.uid, y.grid.space⟩
def State.groupRoom (s : State) (x : Ctx) : Nat := s.codeLen x.c x.gid x.g - x.pc.toNat
def SCtx.room (y : SCtx) : Nat := y.grid.kern.len - y.st.pc.toNat

/-- What the issue of an agent comes to: an instruction to execute, or a state in which it has executed none. -/
inductive Prepared where
  | run (i : Instr) (s : State)
  | idle (s : State)

/-- The issue of a group up to its instruction: nothing when it may not issue, a stop at a safe point (R344), a hold at a
frozen page, or the fault of a fetch or of an illegal encoding, which every lane of ACT takes. An encoding that is no instruction has no
STALL, so the next issue comes a cycle later (R125). [DEDUCED, log 97] -/
def State.prepareGroup (s : State) (c gid : Fin 128) : Prepared :=
  match s.ctxOf c gid with
  | none => .idle s
  | some x =>
    if x.g.stop == .atSafePoint && x.atSafePoint s then
      .idle (s.modGroup c gid fun g => { g with stop := .stopped false true })
    else match s.fetch (s.groupFetcher x) (s.fetchVa x) (s.groupRoom x) with
      | (.code i, s) => .run i s
      | (.held, s) => .idle (s.hold x)
      | (.illegal bits, s) => .idle (s.faultAll x { ctl 0 [] with wide := bits.getLsbD 0 } 0x05 0 bits 0)
      | (.bad code va d0 d1 wide, s) => .idle (s.faultAll x { ctl 0 [] with wide := wide } code va d0 d1)

/-- The issue of a stream up to its instruction (R268, R273): a stream whose address is the section's length has run past
its last instruction and ends. [DEDUCED, log 37] -/
def State.prepareStream (s : State) (c : Fin 128) (copy : Bool) : Prepared :=
  match ({ s with cur := some (.stream c copy) }).sctx with
  | none => .idle s
  | some y =>
    if y.grid.kern.len ≤ y.st.pc.toNat then .idle (s.setStream c copy none)
    else match s.fetch y.fetcher (y.grid.kern.base + y.st.pc.setWidth 64) y.room with
      | (.code i, s) => .run i s
      | (.held, s) => .idle (s.holdStream y)
      | (.illegal bits, s) => .idle (s.streamFault y 0x05 .other 0 bits 0 (bits.getLsbD 0))
      | (.bad code va d0 d1 wide, s) => .idle (s.streamFault y code .other va d0 d1 wide)

/-- The issue of an agent up to its instruction. -/
def State.prepare (s : State) (who : Agent) : Prepared :=
  if s.ready who then
    let s : State := { s with cur := some who }
    match who with
    | .group c gid => s.prepareGroup c gid
    | .stream c copy => s.prepareStream c copy
  else .idle s

/-! ### Issue slots (R339) -/

/-- Whether an instruction takes the vector issue slot (R339): lane arithmetic, conversions and cross-lane operations. -/
def vectorClass (i : Instr) : Bool :=
  match i with
  | .iadd .. | .isub .. | .imul .. | .imulhI32 .. | .imulhN32 .. | .imad ..
  | .iadd64 .. | .lea .. | .iminI32 .. | .iminN32 .. | .imaxI32 .. | .imaxN32 ..
  | .and .. | .or .. | .xor .. | .mov .. | .shl .. | .shr ..
  | .sra .. | .rot .. | .bfeI32 .. | .bfeN32 .. | .bfi .. | .iabs ..
  | .ineg .. | .not .. | .popc .. | .clz .. | .brev .. | .fabs ..
  | .fneg .. | .fclass .. | .frndRn .. | .frndRz .. | .frndRp .. | .frndRm ..
  | .frcp .. | .frsq .. | .fsqrt .. | .fexp2 .. | .flog2 .. | .fsin ..
  | .fcos .. | .isel .. | .fsel .. | .icmpI32 .. | .icmpN32 .. | .fcmp ..
  | .vote .. | .kand .. | .kor .. | .kxor .. | .knot .. | .kmov ..
  | .kpopc .. | .fadd .. | .fsub .. | .fmul .. | .ffma .. | .fmin ..
  | .fmax .. | .fdiv .. | .hadd2 .. | .hmul2 .. | .hfma2 .. | .cvtNarrow ..
  | .cvtWiden .. | .cvti .. | .cvtf .. | .pk8 .. | .upk8 .. | .pk4 ..
  | .upk4 .. | .shfl .. | .shflup .. | .shfldn .. | .shflx .. | .bcast ..
  | .redaddN32 .. | .redaddF32 .. | .redminI32 .. | .redminN32 .. | .redminF32 .. | .redmaxI32 ..
  | .redmaxN32 .. | .redmaxF32 .. | .scanaddN32 .. | .scanaddF32 .. | .scanaddN32Exc .. | .scanaddF32Exc ..
  | .matchV .. | .movCompact .. | .iaddCompact .. | .isubCompact .. | .imulCompact .. | .andCompact ..
  | .orCompact .. | .xorCompact .. | .shlCompact .. | .shrCompact .. | .sraCompact .. | .faddCompact ..
  | .fsubCompact .. | .fmulCompact .. | .fminCompact .. | .fmaxCompact .. | .leaCompact .. => true
  | _ => false

/-- Whether the matrix engine takes an instruction (R255). -/
def engineClass (i : Instr) : Bool :=
  match i with
  | .tcfg .. | .tld .. | .tst .. | .tzero .. | .ttrn .. | .scld .. | .mma .. | .mmas .. | .accz .. | .accld .. | .accst ..
  | .mfrd .. => true
  | _ => false

/-- Whether the group that issued from a number has issued: it is gone, or its STALL interval runs. -/
def State.hasIssued (s : State) (c gid : Fin 128) (uid : Nat) : Bool :=
  match s.group c gid with
  | none => true
  | some g => g.uid != uid || g.stall != 0

/-- The issue slot that an instruction of a group took: its pointer moves to the group after it (R339). [DESIGN CHOICE, log 3] -/
def State.slotTaken (before s : State) (who : Agent) (i : Instr) : State :=
  match who with
  | .stream _ _ => s
  | .group c gid =>
    match before.group c gid with
    | none => s
    | some g =>
      if s.hasIssued c gid g.uid then
        let next := before.ringNext c g.part g.age
        let take (r : Ring) : Ring :=
          if vectorClass i then { r with vec := next, vecUsed := true } else { r with non := next, nonUsed := true }
        s.modCore c fun k => { k with ring := k.ring.modify g.part take }
      else s

/-! ### A program placed -/

/-- Where a placed instruction stands: the code base of its kernel, in a vault window of vault 0 of die 0. -/
def placedBase : DWord := 0x0040000000000000

/-- The physical address of the placed code. -/
def placedPa : Nat := 0x40000000

/-- A kernel that declares every barrier, flag and queue, with its code at `placedBase`. -/
def placedKern : Kern where
  base := placedBase
  len := 0x10000
  portable := false
  entry := 0
  depth := 8
  floor := 64
  ceil := 64
  width := 64
  part := 0
  nbar := 16
  nflag := 64
  fmtm := 0xFF
  bcnt := List.replicate 16 64
  fmts := []
  queues := Tab.replicate 8 8
  loops := []
  waits := []
  targets := []
  passes := []
  safes := []
  strms := []
  xfers := []
  pins := []
  digest := 0

/-- The grid of the placed kernel: one team of 64 threads of the system space. -/
def placedGrid : Grid where
  id := 0
  die := 0
  queue := 0
  prio := 0
  imm := false
  space := 0
  handle := 0
  kidx := 0
  kern := placedKern
  shape := (64, 1, 1)
  dims := (1, 1, 1)
  width := 64
  priv := true
  schk := false
  regg := 1
  scrg := 1
  accg := 1
  fmt := Tab.replicate 8 0
  args := []
  cmap := 1
  extlat := 0
  extfj := 0
  qid := none
  units := []
  stat := none
  taken := 0
  placed := 1
  finished := 0
  firing := none
  admits := [(0, 1)]

/-- Its team. -/
def placedTeam : Team where
  grid := 0
  index := 0
  coord := (0, 0, 0)
  nthr := 64
  paired := false
  odd := false
  mate := 0
  admitted := 1
  regG := [0]
  scrG := [1]
  accG := [2]
  bars := Tab.replicate 16 ⟨0, 64, 0, 0, 0, 0⟩
  flags := 0
  bulks := []
  kept := 0
  exited := false
  stop := none

/-- The page tables of the system space with the placed code mapped: a space table of one entry, one non-leaf entry at
each of levels 4 and 3, and a 1 GiB leaf at level 2, accessed and dirty already. -/
def placedTables (m : Memory) : Memory :=
  let m := m.putNum 0x100000 16 (0x110000 + 1)
  let m := m.putNum (0x110000 + 8 * 64) 8 (0x120000 + 1)
  let m := m.putNum 0x120000 8 (0x130000 + 1)
  m.putNum 0x130000 8 (placedPa + 0x7F)

/-- The state in which core 0 holds a group that fetches next from the placed bytes. [DESIGN CHOICE, log 3] -/
def State.placeCode (s : State) (bs : List Byte) : State :=
  let s := { s with
    mem := (placedTables s.mem).store placedPa bs
    grids := placedGrid :: s.grids.filter fun g => g.id != 0
    agenda := [.issue (.group 0 0)]
    retiring := []
    pkg := { s.pkg with mbstate := .running } }
  let s := s.modDie 0 fun d => { d with spacetb := 0x100001, relock := none, tlb := [] }
  s.modCore 0 fun k =>
    { k with
      groups := k.groups.set 0 (some { Group.fresh with priv := true })
      teams := k.teams.set 0 (some placedTeam)
      banks := k.banks.set 0 none
      power := .active }

end Sys2Proof.Machine
end

