-- ==== Sys2Proof/Machine/Matrix.lean ====
section
/-! DEFINITION. The matrix engine: tiles, the scale store, block-scaled products into the accumulator, and its readout
(R88 to R94, R253 to R267). -/
namespace Sys2Proof.Machine

/-! ### Taking the engine (R253, R255) -/

/-- Who offers a matrix instruction: the engine's core, its team there, and the registers that the instruction reads. -/
structure Eng where
  c : Fin 128
  t : Team
  grid : Grid
  gid : Nat
  s : Fin 128 → DWord

/-- An instruction taken by the engine: its issuer is held for E core cycles (R255). -/
def State.takeEngine (s : State) (c : Fin 128) (who : Agent) (e : Nat) : State :=
  s.modCore c fun k => { k with engine := some (who, e) }

/-- A fault with nothing but its code. -/
def bare (code : Byte) : Failed := ⟨code, 0, plainDetail code, 0⟩

/-- PERM of a team that is not the matrix owner, unless a lower code or ECCU holds (R9, R253). -/
def ownerFault (grid : Grid) (r : Except Failed α) : Except Failed α :=
  if 1 ≤ grid.accg then r
  else match r with
    | .error f => if f.code = 0x11 ∨ f.code.toNat < 8 then .error f else .error (bare 0x08)
    | .ok _ => .error (bare 0x08)

/-- A matrix instruction of a group or a matrix stream (R253, R255, R269): checked, and performed entirely, when the engine
takes it. `f` gives its cycles E, its effect, and the register it writes, if it writes one. `reads` and `writes` are the spans of scratch
that it reads and writes, relaxed accesses of its group's threads (R102, R104). -/
def State.matrixOp (s : State) (sh : Shape) (word : DWord) (f : Eng → State → Except Failed (Nat × State × Option (Fin 128 × DWord)))
    (reads : Eng → State → List (Nat × Nat) := fun _ _ => []) (writes : Eng → State → List (Nat × Nat) := fun _ _ => []) :
    Host.Outcome State Fault Refusal :=
  if s.byStream then s.issueStream sh fun y s =>
    if y.copy then s.streamFault y 0x05 .other 0 word 0
    else if (s.core y.c).engine.isSome then s.holdStream y
    else match ownerFault y.grid (f ⟨y.c, y.t, y.grid, 0, y.st.s.get⟩ s) with
      | .error e => s.streamFault y e.code .other e.va e.d0 e.d1
      | .ok (n, s, w) =>
        let s := s.takeEngine y.c (.stream y.c y.copy) n
        let regs := match w with
          | some (d, v) => y.st.s.set d v
          | none => y.st.s
        s.finishStream y sh { y.st with s := regs, engHeld := true } (y.st.pc + 4)
  else s.issue sh fun x s =>
    if (s.core x.c).engine.isSome || s.acquiring x then s.hold x
    else
      let e : Eng := ⟨x.c, x.t, x.grid, x.gid.val, x.g.s.get⟩
      let noted := (reads e s).foldl (fun g r => s.noteSpan x r.1 r.2 g) x.g
      let written := writes e s
      match ownerFault x.grid (f e s) with
      | .error e => s.faultAll x sh e.code e.va e.d0 e.d1
      | .ok (n, s, w) =>
        let s := (written.foldl (fun s r => s.tagSpan x r.1 r.2) s).takeEngine x.c (.group x.c x.gid) n
        let g := match w with
          | some (d, v) => noted.writeS d v
          | none => noted
        s.finish x sh { g with engHeld := true } (fun _ => x.pc + 4) []

/-- MATRIX_INSTRUCTION_COMPLETE: the E cycles have passed; the issuer is released and the engine is free (R255). -/
def execMatrixInstructionComplete (core : Fin 128) (s : State) : Host.Outcome State Fault Refusal :=
  match (s.core core).engine with
  | some (.group c gid, 0) =>
    .next ((s.modCore core fun k => { k with engine := none }).modGroup c gid fun g => { g with engHeld := false, polled := false })
  | some (.stream c copy, 0) =>
    let s := s.modCore core fun k => { k with engine := none }
    .next (match (s.core c).stream copy with
      | some st => s.setStream c copy (some { st with engHeld := false, polled := false })
      | none => s)
  | _ => .next s

/-- The lowest code among an instruction's checks, or its effect (R9). -/
def checked (fs : List (Bool × Failed)) (k : Except Failed α) : Except Failed α :=
  match firstFailed fs with
  | some f => .error f
  | none => k

/-- A fault that names a slot or a tile. -/
def named (code : Byte) (n : Nat) : Failed := ⟨code, 0, BitVec.ofNat 64 n, 0⟩

/-! ### Tiles (R256, R257) -/

/-- A shape register's fields. -/
def tshSlot (t : Word) : Fin 8 := Fin.ofNat 8 (field t.toNat 0 3)
def tshRows (t : Word) : Nat := 16 * field t.toNat 4 4
def tshCols (t : Word) : Nat := field t.toNat 8 12

/-- The element width of a slot (R256): 0 for an unused one. -/
def slotWidth (d : Word) : Nat :=
  match slotKind d with
  | 1 => 32
  | 2 | 3 => 16
  | 4 => slotK d
  | _ => 0

/-- A tile as an instruction sees it: its shape, its descriptor, and its packed elements. -/
structure Tile where
  rows : Nat
  cols : Nat
  desc : Word
  slot : Fin 8
  bytes : Memory
  deriving DecidableEq, Repr

/-- The element width, bytes of a row, and bytes of a tile. -/
def Tile.w (t : Tile) : Nat := slotWidth t.desc
def Tile.rowBytes (t : Tile) : Nat := t.cols * t.w / 8
def Tile.size (t : Tile) : Nat := t.rows * t.rowBytes

/-- Tile n of a core. -/
def State.tile (s : State) (e : Eng) (n : Fin 16) : Tile :=
  let k := s.core e.c
  let t := k.tsh.get n
  ⟨tshRows t, tshCols t, e.grid.fmt.get (tshSlot t), tshSlot t, k.tiles.get n⟩

/-- Whether a tile is configured (R256). -/
def Tile.configured (t : Tile) : Bool := t.rows != 0

/-- The code at (r, c) of packed elements of width `w` (R257). -/
def elemAt (m : Memory) (w rowBytes r c : Nat) : Nat :=
  if w = 4 then field (m.get (r * rowBytes + c / 2)).toNat (4 * (c % 2)) 4 else m.num (r * rowBytes + c * w / 8) (w / 8)

/-- The code at (r, c) of a tile. -/
def Tile.elem (t : Tile) (r c : Nat) : Nat := elemAt t.bytes t.w t.rowBytes r c

/-- A code put at (r, c) of packed elements. -/
def putElemAt (m : Memory) (w rowBytes r c v : Nat) : Memory :=
  if w = 4 then
    let a := r * rowBytes + c / 2
    let old := (m.get a).toNat
    m.set a (BitVec.ofNat 8 (if c % 2 = 0 then old / 16 * 16 + v else old % 16 + 16 * v))
  else m.putNum (r * rowBytes + c * w / 8) (w / 8) v

/-- A tile's shape and elements replaced; error marks on it go with its old contents (R390). -/
def State.putTile (s : State) (c : Fin 128) (n : Fin 16) (tsh : Word) (m : Memory) : State :=
  let s := s.modCore c fun k => { k with tsh := k.tsh.set n tsh, tiles := k.tiles.set n m }
  (s.unmark 2 c (n.val * 0x4000) 0x4000).inject (dieOf c) 2 c (n.val * 0x4000) 0x4000

/-- Several operand reads, one after another: whether any meets an uncorrectable error. -/
def State.consumeEach (s : State) (l : List Nat) (f : State → Nat → Bool × State) : Bool × State :=
  l.foldl (fun (acc : Bool × State) x => let (ue, s) := f acc.2 x; (acc.1 || ue, s)) (false, s)

/-- An operand read of the first `cols` columns of a tile (R255, R390): whether it meets an uncorrectable error. -/
def State.consumeTile (s : State) (e : Eng) (n : Fin 16) (cols : Nat) : Bool × State :=
  let t := s.tile e n
  s.consumeEach (List.range t.rows) fun s r =>
    s.consume (dieOf e.c) 2 e.c (n.val * 0x4000 + r * t.rowBytes) (cols * t.w / 8) (some (e.gid, e.grid.space))

/-- What an engine's access to the partner core's half of scratch adds to E (R255). -/
def State.bridge (s : State) (e : Eng) (o n : Nat) : Nat :=
  if n ≠ 0 ∧ (s.scratchFar e.c e.t o ∨ s.scratchFar e.c e.t (o + n - 1)) then 16 else 0

/-- An operand read of a span of scratch (R255): the words that hold its bytes. -/
def State.consumeSpan (s : State) (e : Eng) (o n : Nat) : Bool × State :=
  s.consumeEach (List.range ((n + 3) / 4)) fun s i =>
    let l := s.scratchLoc e.c e.t (o + 4 * i)
    s.consume (dieOf l.1) 0 l.1 l.2 4 (some (e.gid, e.grid.space))

/-- The shape of an MX instruction that reads `n` uniform registers from `a` on. -/
def mxShape (st n : Nat) (a : Fin 128) : Shape :=
  let rs := (List.range n).map fun i => nextS a i
  ⟨true, st, rs, rs.map keyS, [], .other⟩

/-! ### TCFG, TLD, TST, TZERO, TTRN (R258 to R260) -/

/-- ⌈a / b⌉. -/
def ceilDiv (a b : Nat) : Nat := (a + b - 1) / b

/-- TCFG: a tile's shape, its elements code 0 (R258). -/
def execTcfg (t : Fin 16) (a : Fin 128) (st : Fin 8) (s : State) : Host.Outcome State Fault Refusal :=
  let word := wordOf (.tcfg t a st)
  s.matrixOp (mxShape st.val 1 a) word fun e s =>
    let v := (e.s a).toNat
    let w : Word := BitVec.ofNat 32 v
    let desc := e.grid.fmt.get (tshSlot w)
    let rq := field v 4 4
    let size := tshRows w * tshCols w * slotWidth desc / 8
    checked [(field v 32 32 != 0 || field v 3 1 != 0 || field v 20 12 != 0, ⟨0x05, 0, word, 0⟩),
        (slotKind desc == 0, named 0x0D (tshSlot w).val),
        (rq == 0 || decide (8 < rq) || tshCols w == 0 || tshCols w % 16 != 0 || decide (16384 < size), named 0x0E t.val)]
      (.ok (2, s.putTile e.c t w [], none))

/-- Offset and pitch of a tile transfer (R259). -/
def tileOff (v : DWord) : Nat := field v.toNat 0 32
def tilePitch (v : DWord) (t : Tile) : Nat := if field v.toNat 32 32 = 0 then t.rowBytes else field v.toNat 32 32

/-- The rows of a tile in scratch: their offsets and lengths. -/
def Tile.spans (t : Tile) (v : DWord) : List (Nat × Nat) := (List.range t.rows).map fun r => (tileOff v + r * tilePitch v t, t.rowBytes)

/-- A span of scratch, none when it is empty. -/
def spanOf (o n : Nat) : List (Nat × Nat) := if n = 0 then [] else [(o, n)]

/-- The checks of TLD and TST (R259), lowest code first. -/
def tileChecks (e : Eng) (t : Tile) (n : Fin 16) (v : DWord) : List (Bool × Failed) :=
  let pitch := field v.toNat 32 32
  [(t.configured && decide (e.grid.scratchBytes < tileOff v + (t.rows - 1) * tilePitch v t + t.rowBytes), bare 0x08),
    (tileOff v % 8 != 0 || pitch % 8 != 0, bare 0x0A),
    (!t.configured || (pitch != 0 && decide (pitch < t.rowBytes)), named 0x0E n.val)]

/-- TLD: a configured tile from scratch (R259). -/
def execTld (t : Fin 16) (a : Fin 128) (st : Fin 8) (s : State) : Host.Outcome State Fault Refusal :=
  s.matrixOp (reads := fun e s => (s.tile e t).spans (e.s a)) (mxShape st.val 1 a) (wordOf (.tld t a st)) fun e s =>
    let tile := s.tile e t
    let v := e.s a
    let pitch := tilePitch v tile
    let span := (tile.rows - 1) * pitch + tile.rowBytes
    checked (tileChecks e tile t v)
      (match s.consumeEach (List.range tile.rows) fun s r => s.consumeSpan e (tileOff v + r * pitch) tile.rowBytes with
        | (true, _) => .error (bare 0x11)
        | (false, s) =>
          let m := (List.range tile.rows).foldl (fun (m : Memory) r =>
            m.store (r * tile.rowBytes) (s.scratchBytes e.c e.t (tileOff v + r * pitch) tile.rowBytes)) []
          .ok (4 + ceilDiv tile.size 256 + s.bridge e (tileOff v) span, s.putTile e.c t ((s.core e.c).tsh.get t) m, none))

/-- TST: a configured tile to scratch (R259). -/
def execTst (t : Fin 16) (a : Fin 128) (st : Fin 8) (s : State) : Host.Outcome State Fault Refusal :=
  s.matrixOp (writes := fun e s => (s.tile e t).spans (e.s a)) (mxShape st.val 1 a) (wordOf (.tst t a st)) fun e s =>
    let tile := s.tile e t
    let v := e.s a
    let pitch := tilePitch v tile
    let span := (tile.rows - 1) * pitch + tile.rowBytes
    checked (tileChecks e tile t v)
      (match s.consumeTile e t tile.cols with
        | (true, _) => .error (bare 0x11)
        | (false, s) =>
          let s' := (List.range tile.rows).foldl (fun (s : State) r =>
            s.scratchStore e.c e.t (tileOff v + r * pitch) (tile.bytes.bytes (r * tile.rowBytes) tile.rowBytes)) s
          .ok (4 + ceilDiv tile.size 256 + s.bridge e (tileOff v) span, s', none))

/-- TZERO: every element code 0 (R260). -/
def execTzero (t : Fin 16) (st : Fin 8) (s : State) : Host.Outcome State Fault Refusal :=
  s.matrixOp (ctl st.val []) (wordOf (.tzero t st)) fun e s =>
    checked [(!(s.tile e t).configured, named 0x0E t.val)] (.ok (2, s.putTile e.c t ((s.core e.c).tsh.get t) [], none))

/-- TTRN: the transpose of one tile in another (R260). -/
def execTtrn (tx ty : Fin 16) (st : Fin 8) (s : State) : Host.Outcome State Fault Refusal :=
  s.matrixOp (ctl st.val []) (wordOf (.ttrn tx ty st)) fun e s =>
    let y := s.tile e ty
    checked [(!y.configured || decide (128 < y.cols), named 0x0E ty.val)]
      (match s.consumeTile e ty y.cols with
        | (true, _) => .error (bare 0x11)
        | (false, s) =>
          let rb := y.rows * y.w / 8
          let m := (List.range y.rows).foldl (fun (m : Memory) r => (List.range y.cols).foldl (fun m c =>
            putElemAt m y.w rb c r (y.elem r c)) m) []
          let tsh : Word := BitVec.ofNat 32 (y.slot.val + y.cols / 16 * 16 + y.rows * 256)
          .ok (4 + ceilDiv y.size 256, s.putTile e.c tx tsh m, none))

/-! ### SCLD (R261) -/

/-- SCLD: bytes of scratch into the scale store (R261). -/
def execScld (a : Fin 128) (st : Fin 8) (s : State) : Host.Outcome State Fault Refusal :=
  let word := wordOf (.scld a st)
  s.matrixOp (reads := fun e _ => spanOf (field (e.s a).toNat 0 32) (field (e.s (nextS a 1)).toNat 32 18)) (mxShape st.val 2 a) word fun e s =>
    let v := (e.s a).toNat
    let w := (e.s (nextS a 1)).toNat
    let src := field v 0 32
    let dst := field w 0 17
    let len := field w 32 18
    checked [(field v 32 32 != 0 || field w 17 15 != 0 || field w 50 14 != 0, ⟨0x05, 0, word, 0⟩),
        (decide (0x20000 < dst + len) || (len != 0 && decide (e.grid.scratchBytes < src + len)), bare 0x08),
        (src % 16 != 0 || dst % 16 != 0 || len % 16 != 0, bare 0x0A)]
      (match s.consumeSpan e src len with
        | (true, _) => .error (bare 0x11)
        | (false, s) =>
          let bs := s.scratchBytes e.c e.t src len
          let s' := s.modCore e.c fun k => { k with scale := k.scale.store dst bs }
          .ok (4 + ceilDiv len 256 + s.bridge e src len, (s'.unmark 1 e.c dst len).inject (dieOf e.c) 1 e.c dst len, none))

/-! ### Products (R88, R90, R91, R262 to R264) -/

/-- Where an accumulator offset lies in the engine's core's pool (R65). -/
def Eng.accLoc (e : Eng) (o : Nat) : Nat := ((e.t.accG[o / 65536]?).elim 0 Fin.val) * 65536 + o % 65536

/-- An accumulator word, and one written. -/
def State.accWord (s : State) (e : Eng) (o : Nat) : Word := BitVec.ofNat 32 ((s.core e.c).pool.num (e.accLoc o) 4)
def State.putAcc (s : State) (e : Eng) (o : Nat) (w : Word) : State :=
  let s' := s.modCore e.c fun k => { k with pool := k.pool.putNum (e.accLoc o) 4 w.toNat }
  (s'.unmark 0 e.c (e.accLoc o) 4).inject (dieOf e.c) 0 e.c (e.accLoc o) 4

/-- The format that scale bytes are decoded in (R88). -/
def scaleFmt : Fmt := p3109 8 4 true false

/-- A block's exact sum so far: a dyadic sum, the infinities met, and whether a NaN was met or created. -/
structure Block where
  m : Int
  e : Int
  pinf : Bool
  ninf : Bool
  nan : Bool
  iv : Bool
  deriving DecidableEq, Repr

/-- An empty sum. -/
def Block.zero : Block := ⟨0, 0, false, false, false, false⟩

/-- One product joined to a block's sum (R91). -/
def Block.add (b : Block) (x y : FVal) : Block :=
  match mulV x y with
  | (.nan _, fl) => { b with nan := true, iv := b.iv || fl == flagIV }
  | (.inf neg, _) => if neg then { b with ninf := true } else { b with pinf := true }
  | (.fin neg m e, _) =>
    let lo := min b.e e
    { b with m := b.m * 2 ^ (b.e - lo).toNat + signed neg (m * 2 ^ (e - lo).toNat), e := lo }

/-- Sb with its flag (R91): an exact zero is +0. [DEDUCED, log 107] -/
def Block.value (b : Block) : Exact :=
  let iv := b.iv || (b.pinf && b.ninf)
  if b.nan || (b.pinf && b.ninf) then (.nan false, if iv then flagIV else 0)
  else if b.pinf then (.inf false, 0)
  else if b.ninf then (.inf true, 0)
  else (.fin (decide (b.m < 0)) b.m.natAbs b.e, 0)

/-- Whether a scale byte's value is +0 (R88). -/
def zeroScale (v : FVal) : Bool :=
  match v with
  | .fin _ m _ => m == 0
  | _ => false

/-- Xb with its flag (R90, R91): +0 under a zero scale, NaN under a NaN scale, else Sb times both scales exactly. -/
def blockValue (sa sb : FVal) (sum : Exact) : Exact :=
  if zeroScale sa || zeroScale sb then (.fin false 0 0, 0)
  else if sa.isNan || sb.isNan then (.nan false, sum.2)
  else
    let x := (mulV (mulV sum.1 sa).1 sb).1
    match x with
    | .fin _ 0 _ => (.fin false 0 0, sum.2)
    | x => (x, sum.2)

/-- One block added into an accumulator element (R90), with the flags it raises. -/
def accumulate (acc : Word × Flags) (x : Exact) : Word × Flags :=
  let (yb, f1) := binary32.round .rn false x.1
  let (r, f2) := f32AddF acc.1 (BitVec.ofNat 32 yb)
  (r, acc.2 ||| x.2 ||| f1 ||| f2)

/-- The product of two operands as MMA and MMAS see them: for each element, the present positions of each block. -/
structure Product where
  m : Nat
  n : Nat
  nb : Nat
  acc : Nat
  /-- A's and B's scale factors for a row or column and a block. -/
  sa : Nat → Nat → FVal
  sb : Nat → Nat → FVal
  /-- The pairs of factors of element (i, j) in block b. -/
  terms : Nat → Nat → Nat → List (FVal × FVal)

/-- One element updated by R90. -/
def Product.element (p : Product) (i j : Nat) (acc : Word × Flags) : Word × Flags :=
  (List.range p.nb).foldl (fun acc b =>
    let x := if zeroScale (p.sa i b) || zeroScale (p.sb j b) then (.fin false 0 0, 0)
      else blockValue (p.sa i b) (p.sb j b) (((p.terms i j b).foldl (fun (k : Block) t => k.add t.1 t.2) Block.zero).value)
    accumulate acc x) acc

/-- Every element updated, and the flags of them all. [DEDUCED, log 33] -/
def State.runProduct (s : State) (e : Eng) (p : Product) : State :=
  let (s, fl) := (List.range p.m).foldl (fun (a : State × Flags) i => (List.range p.n).foldl (fun (a : State × Flags) j =>
    let o := p.acc + 4 * (i * p.n + j)
    let (w, fl) := p.element i j (a.1.accWord e o, a.2)
    (a.1.putAcc e o w, fl)) a) (s, (0 : Flags))
  s.modCore e.c fun k => { k with mflags := k.mflags ||| fl }

/-- Fields of an operation word (R262). -/
def opAcc (m : Nat) : Nat := field m 0 22
def opReserved (m : Nat) : Bool := field m 22 10 != 0 || field m 45 3 != 0 || field m 61 3 != 0
def opScaleA (m : Nat) : Nat := 16 * field m 32 13
def opScaleB (m : Nat) : Nat := 16 * field m 48 13

/-- The block size of a slot (R82). -/
def blockSize (d : Word) : Nat :=
  match slotBlk d with
  | 0 => 0
  | 1 => 16
  | 2 => 32
  | _ => 64

/-- The slot checks of a matrix operation (R84): the slot to name, if one fails. -/
def slotProblem (x y : Tile) : Option (Fin 8) :=
  let bad (t : Tile) : Bool := slotKind t.desc == 0 || slotKind t.desc == 1 || slotBlk t.desc == 0
  if x.configured && bad x then some x.slot
  else if y.configured && bad y then some y.slot
  else if x.configured && y.configured && (slotBlk x.desc != slotBlk y.desc || slotSck x.desc != slotSck y.desc || x.w != y.w) then
    some x.slot
  else none

/-- The checks that MMA and MMAS share (R263), with K the dense reduction length. -/
def productChecks (e : Eng) (x y : Tile) (tx : Fin 16) (m K : Nat) (shape : Bool) (word : DWord) : List (Bool × Failed) :=
  let kb := blockSize x.desc
  let nb := if kb = 0 then 0 else K / kb
  let scaled (t : Tile) (o rows : Nat) : Bool := t.configured && slotSck t.desc == 1 && decide (0x20000 < o + rows * nb)
  [(opReserved m, ⟨0x05, 0, word, 0⟩),
    (decide (e.grid.accBytes < opAcc m + 4 * x.rows * y.rows) || scaled x (opScaleA m) x.rows || scaled y (opScaleB m) y.rows,
      bare 0x08),
    (opAcc m % 64 != 0, bare 0x0A),
    ((slotProblem x y).isSome, named 0x0D ((slotProblem x y).elim 0 Fin.val)),
    (!x.configured || !y.configured || (kb != 0 && K % kb != 0) || decide (y.cols < K) || shape, named 0x0E tx.val)]

/-- A scale factor: 1 unless the slot has scale bytes (R88). -/
def State.scaleOf (s : State) (e : Eng) (d : Word) (base nb i b : Nat) : FVal :=
  if slotSck d = 1 then scaleFmt.decode ((s.core e.c).scale.get (base + i * nb + b)).toNat else .fin false 1 0

/-- An element of a tile as a value. -/
def Tile.value (t : Tile) (r c : Nat) : FVal :=
  match slotFmt t.desc with
  | some f => f.decode (t.elem r c)
  | none => .fin false 0 0

/-- The operand reads of a product: whether one meets an uncorrectable error (R255). -/
def State.consumeProduct (s : State) (e : Eng) (tx ty : Fin 16) (m K : Nat) (x y : Tile) (nb : Nat) : Bool × State :=
  let (ux, s) := s.consumeTile e tx x.cols
  let (uy, s) := s.consumeTile e ty K
  let ctx := some (e.gid, e.grid.space)
  let (u1, s) := s.consume (dieOf e.c) 1 e.c (opScaleA m) (if slotSck x.desc = 1 then x.rows * nb else 0) ctx
  let (u2, s) := s.consume (dieOf e.c) 1 e.c (opScaleB m) (if slotSck y.desc = 1 then y.rows * nb else 0) ctx
  let (u3, s) := s.consumeEach (List.range (x.rows * y.rows)) fun s i =>
    s.consume (dieOf e.c) 0 e.c (e.accLoc (opAcc m + 4 * i)) 4 ctx
  (ux || uy || u1 || u2 || u3, s)

/-- Multiply-accumulates a cycle, by operand width (R275). -/
def macRate (w : Nat) : Nat := if w = 4 then 65536 else if w = 8 then 32768 else 8192

/-- MMA: the block-scaled product of two tiles into the accumulator (R263). -/
def execMma (tx ty : Fin 16) (a : Fin 128) (st : Fin 8) (s : State) : Host.Outcome State Fault Refusal :=
  let word := wordOf (.mma tx ty a st)
  s.matrixOp (mxShape st.val 1 a) word fun e s =>
    let x := s.tile e tx
    let y := s.tile e ty
    let m := (e.s a).toNat
    let K := x.cols
    let kb := blockSize x.desc
    let nb := if kb = 0 then 0 else K / kb
    checked (productChecks e x y tx m K false word)
      (match s.consumeProduct e tx ty m K x y nb with
        | (true, _) => .error (bare 0x11)
        | (false, s) =>
          let p : Product := ⟨x.rows, y.rows, nb, opAcc m, s.scaleOf e x.desc (opScaleA m) nb, s.scaleOf e y.desc (opScaleB m) nb,
            fun i j b => (List.range kb).map fun k => (x.value i (b * kb + k), y.value j (b * kb + k))⟩
          .ok (ceilDiv (x.rows * y.rows * K) (macRate x.w), s.runProduct e p, none))

/-- The two kept positions of a group of four in a metadata row (R264). -/
def keptAt (md : Tile) (i g : Nat) : Nat × Nat := (field (md.elem i g) 0 2, field (md.elem i g) 2 2)

/-- Whether the metadata tile does not fit Tx (R264). -/
def metaShape (x md : Tile) : Bool :=
  !md.configured || md.rows != x.rows || decide (md.cols < x.cols / 2) || slotKind md.desc != 4 || slotK md.desc != 8

/-- Whether a metadata byte names its positions out of order (R264). -/
def metaOrder (x md : Tile) : Bool :=
  (List.range x.rows).any fun i => (List.range (x.cols / 2)).any fun g => decide ((keptAt md i g).2 ≤ (keptAt md i g).1)

/-- The metadata checks of MMAS (R264). -/
def metaBad (x md : Tile) : Bool := metaShape x md || metaOrder x md

/-- MMAS: MMA with a 2-of-4 sparse A (R264). The order of a metadata byte is judged on the bytes read, so an uncorrectable error
among the operands takes precedence over it (R9). -/
def execMmas (tx ty : Fin 16) (a : Fin 128) (st : Fin 8) (s : State) : Host.Outcome State Fault Refusal :=
  let word := wordOf (.mmas tx ty a st)
  s.matrixOp (mxShape st.val 1 a) word fun e s =>
    let x := s.tile e tx
    let y := s.tile e ty
    let tm : Fin 16 := Fin.ofNat 16 (tx.val + 1)
    let md := s.tile e tm
    let m := (e.s a).toNat
    let K := 2 * x.cols
    let kb := blockSize x.desc
    let nb := if kb = 0 then 0 else K / kb
    checked (productChecks e x y tx m K (metaShape x md) word)
      (let (um, s) := s.consumeTile e tm (x.cols / 2)
      match s.consumeProduct e tx ty m K x y nb with
        | (ue, s) => if um || ue then .error (bare 0x11) else if metaOrder x md then .error (named 0x0E tx.val) else
          let p : Product := ⟨x.rows, y.rows, nb, opAcc m, s.scaleOf e x.desc (opScaleA m) nb, s.scaleOf e y.desc (opScaleB m) nb,
            fun i j b => (List.range (kb / 4)).flatMap fun q =>
              let g := b * kb / 4 + q
              let (i0, i1) := keptAt md i g
              [(x.value i (2 * g), y.value j (4 * g + i0)), (x.value i (2 * g + 1), y.value j (4 * g + i1))]⟩
          .ok (ceilDiv (x.rows * y.rows * K) (2 * macRate x.w), s.runProduct e p, none))

/-! ### The accumulator (R265, R266) -/

/-- Fields of an accumulator range register (R265). -/
def rangeLen (v : Nat) : Nat := field v 32 23
def rangeReserved (v : Nat) : Bool := field v 22 10 != 0 || field v 55 9 != 0

/-- ACCZ: a range of the accumulator set to +0 (R265). -/
def execAccz (a : Fin 128) (st : Fin 8) (s : State) : Host.Outcome State Fault Refusal :=
  let word := wordOf (.accz a st)
  s.matrixOp (mxShape st.val 1 a) word fun e s =>
    let v := (e.s a).toNat
    checked [(rangeReserved v, ⟨0x05, 0, word, 0⟩), (decide (e.grid.accBytes < opAcc v + rangeLen v), bare 0x08),
        (opAcc v % 64 != 0 || rangeLen v % 64 != 0, bare 0x0A)]
      (.ok (4 + ceilDiv (rangeLen v) 1024,
        (List.range (rangeLen v / 4)).foldl (fun (s : State) i => s.putAcc e (opAcc v + 4 * i) 0) s, none))

/-- ACCLD: bytes of scratch into a range of the accumulator (R265). -/
def execAccld (a : Fin 128) (st : Fin 8) (s : State) : Host.Outcome State Fault Refusal :=
  let word := wordOf (.accld a st)
  s.matrixOp (reads := fun e _ => spanOf (field (e.s (nextS a 1)).toNat 0 32) (rangeLen (e.s a).toNat)) (mxShape st.val 2 a) word fun e s =>
    let v := (e.s a).toNat
    let w := (e.s (nextS a 1)).toNat
    let src := field w 0 32
    let len := rangeLen v
    checked [(rangeReserved v || field w 32 32 != 0, ⟨0x05, 0, word, 0⟩),
        (decide (e.grid.accBytes < opAcc v + len) || (len != 0 && decide (e.grid.scratchBytes < src + len)), bare 0x08),
        (opAcc v % 64 != 0 || len % 64 != 0 || src % 16 != 0, bare 0x0A)]
      (match s.consumeSpan e src len with
        | (true, _) => .error (bare 0x11)
        | (false, s) =>
          .ok (4 + ceilDiv len 256 + s.bridge e src len,
            (List.range (len / 4)).foldl (fun (s : State) i =>
              s.putAcc e (opAcc v + 4 * i) (BitVec.ofNat 32 (s.scratchNum e.c e.t (src + 4 * i) 4))) s, none))

/-- R89 applied to an accumulator word, with the flags raised. [DEDUCED, log 106] -/
def readout (v sA sB : Word) (desc : Word) (f : Fmt) : Nat × Flags :=
  let (t, f1) := f32Op2 mulV v sA
  let (t, f2) := f32Op2 mulV t sB
  let (c, f3) := narrow desc f t
  (c, f1 ||| f2 ||| f3)

/-- The bytes of an output row: its codes packed at width `w` (R257). -/
def packRow (w : Nat) : List Nat → List Byte
  | [] => []
  | [x] => if w = 4 then [BitVec.ofNat 8 x] else leBytes (w / 8) x
  | x :: y :: rest =>
    if w = 4 then BitVec.ofNat 8 (x + 16 * y) :: packRow w rest else leBytes (w / 8) x ++ packRow w (y :: rest)

/-- One row read out: its codes and the flags of its roundings. -/
def State.readoutRow (s : State) (e : Eng) (acc cols r : Nat) (sA sB desc : Word) (f : Fmt) : List Nat × Flags :=
  (List.range cols).foldl (fun (a : List Nat × Flags) c =>
    let (code, fl) := readout (s.accWord e (acc + 4 * (r * cols + c))) sA sB desc f
    (a.1 ++ [code], a.2 ||| fl)) ([], 0)

/-- Bytes of an output row of an ACCST whose format has width `w`, and their pitch; the last byte of an odd row of 4-bit codes counts. -/
def outBytes (cols w : Nat) : Nat := ceilDiv (cols * w) 8
def outPitch (cols w pitch0 : Nat) : Nat := if pitch0 = 0 then outBytes cols w else pitch0

/-- The rows that an ACCST writes to scratch. -/
def outSpans (e : Eng) (fs : Fin 8) (a : Fin 128) : List (Nat × Nat) :=
  let v := (e.s a).toNat
  let w := slotWidth (e.grid.fmt.get fs)
  let cols := field v 40 8
  (List.range (field v 32 8)).map fun r =>
    (field (e.s (nextS a 1)).toNat 32 32 + r * outPitch cols w (field (e.s (nextS a 2)).toNat 32 32), outBytes cols w)

/-- ACCST: a block of the accumulator scaled, converted and written to scratch (R266). -/
def execAccst (fs : Fin 8) (a : Fin 128) (st : Fin 8) (s : State) : Host.Outcome State Fault Refusal :=
  let word := wordOf (.accst fs a st)
  s.matrixOp (writes := fun e _ => outSpans e fs a) (mxShape st.val 3 a) word fun e s =>
    let v := (e.s a).toNat
    let w1 := (e.s (nextS a 1)).toNat
    let w2 := (e.s (nextS a 2)).toNat
    let acc := opAcc v
    let rows := field v 32 8
    let cols := field v 40 8
    let aslot : Fin 8 := Fin.ofNat 8 (field v 48 3)
    let bslot : Fin 8 := Fin.ofNat 8 (field v 52 3)
    let desc := e.grid.fmt.get fs
    let da := e.grid.fmt.get aslot
    let db := e.grid.fmt.get bslot
    let w := slotWidth desc
    let rb := outBytes cols w
    let dst := field w1 32 32
    let pitch0 := field w2 32 32
    let pitch := outPitch cols w pitch0
    let span := (rows - 1) * pitch + rb
    let noSlot (d : Word) : Bool := slotKind d == 0
    let badSlot := if noSlot desc then fs else if noSlot da then aslot else bslot
    checked [(field v 22 10 != 0 || field v 51 1 != 0 || field v 55 9 != 0, ⟨0x05, 0, word, 0⟩),
        (rows * cols != 0 && (decide (e.grid.accBytes < acc + 4 * rows * cols) || (rb != 0 && decide (e.grid.scratchBytes < dst + span))),
          bare 0x08),
        (acc % 64 != 0 || dst % 4 != 0 || pitch0 % 4 != 0, bare 0x0A),
        (noSlot desc || noSlot da || noSlot db, named 0x0D badSlot.val),
        (rows == 0 || decide (128 < rows) || cols == 0 || decide (128 < cols) || (w == 4 && cols % 2 == 1)
          || (pitch0 != 0 && decide (pitch0 < rb)), bare 0x0E)]
      (match slotFmt desc with
        | none => .error (named 0x0D fs.val)
        | some f =>
          let (ue, s) := s.consumeEach (List.range (rows * cols)) fun s i =>
            s.consume (dieOf e.c) 0 e.c (e.accLoc (acc + 4 * i)) 4 (some (e.gid, e.grid.space))
          if ue then .error (bare 0x11)
          else
            let one : Word := 0x3F800000
            let scaled (d : Word) : Bool := slotSck d == 1 || slotSck d == 2
            let sA : Word := if scaled da then BitVec.ofNat 32 (field w1 0 32) else one
            let sB : Word := if scaled db then BitVec.ofNat 32 (field w2 0 32) else one
            let (s', fl) := (List.range rows).foldl (fun (b : State × Flags) r =>
              let (codes, fl) := s.readoutRow e acc cols r sA sB desc f
              (b.1.scratchStore e.c e.t (dst + r * pitch) (packRow w codes), b.2 ||| fl)) (s, (0 : Flags))
            .ok (8 + ceilDiv (rows * cols * 4) 256 + s.bridge e dst span,
              s'.modCore e.c fun k => { k with mflags := k.mflags ||| fl }, none))

/-- MFRD: MFLAGS into a uniform register, and cleared with .CLR (R267). -/
def execMfrd (d : Fin 128) (clr : Bool) (st : Fin 8) (s : State) : Host.Outcome State Fault Refusal :=
  s.matrixOp ⟨true, st.val, [d], [], [(keyS d, 2)], .other⟩ (wordOf (.mfrd d clr st)) fun e s =>
    .ok (2, if clr then s.modCore e.c fun k => { k with mflags := 0 } else s,
      some (d, (s.core e.c).mflags.setWidth 64))

end Sys2Proof.Machine
end

