-- ==== Sys2Proof/Machine/Stop.lean ====
section
/-! DEFINITION. Groups stopped and released (R298, R299), the handler bank granted, IDLE groups woken and Chive's latches
(R190, R371), the timer match (R296), the core reserve lent (R62), and a team's resources released (R340). -/
namespace Sys2Proof.Machine

/-! ### GSTOP -/

/-- What a group's stop field becomes when system software releases it: its team may still be asked to stop. -/
def State.stopOf (s : State) (c : Fin 128) (g : Group) : Stop :=
  match (s.team c g.team).bind Team.stop with
  | some t => if t.safePoint then .atSafePoint else .requested false
  | none => .none

/-- A STOP write to GSTOP (R299): the group is asked to stop at an instruction boundary. A group that has stopped
already stays so, and counts as stopped by the write. [DEDUCED, log 41] -/
def State.gstop (s : State) (c gid : Fin 128) : State :=
  s.modGroup c gid fun g =>
    { g with stop := match g.stop with
      | .none | .atSafePoint | .requested _ => .requested true
      | .stopped _ safe => .stopped true safe
      | .doubleFault => .doubleFault }

/-- A RUN write to GSTOP (R299): a stopped group issues again; a double-faulted group's trapped lanes end as EXIT does and
its handler bank is freed. [DEDUCED, log 41] -/
def State.grun (s : State) (c gid : Fin 128) : State :=
  match s.group c gid with
  | none => s
  | some g =>
    match g.stop with
    | .requested true | .stopped true _ =>
      (s.setGroup c gid (some { g with stop := s.stopOf c g, polled := false })).pumpDeliveries c gid
    | .doubleFault =>
      let ds := (g.dels.map fun d => { d with lanes := d.lanes &&& ~~~g.hlanes }).filter fun d => d.lanes != 0
      let s := s.setGroup c gid (some { g.exitLanes g.hlanes with stop := s.stopOf c g, polled := false, dels := ds })
      s.settle c gid
    | _ => s

/-- GSTOP_STOP (R299). -/
def execGstopStop (core gid : Fin 128) (s : State) : Host.Outcome State Fault Refusal := .next (s.gstop core gid)

/-- GSTOP_RUN (R299). -/
def execGstopRun (core gid : Fin 128) (s : State) : Host.Outcome State Fault Refusal := .next (s.grun core gid)

/-- Whether a group's issued work has ended: no request of it is outstanding, no token is unwritten, it holds no matrix
engine, and no delivery of it is pending (R299, R347). -/
def State.drained (s : State) (c : Fin 128) (g : Group) : Bool :=
  !g.hmode && g.dels.isEmpty && !g.engHeld && !s.asyncOf c g && !(s.reqs.any fun r => r.core == c && r.uid == g.uid && !r.spent)

/-- GROUP_STOP_COMPLETE: a group asked to stop has finished its issued work, and is stopped (R299). -/
def execGroupStopComplete (core gid : Fin 128) (s : State) : Host.Outcome State Fault Refusal :=
  .next (match s.group core gid with
  | none => s
  | some g =>
    match g.stop with
    | .requested b => if s.drained core g then s.setGroup core gid (some { g with stop := .stopped b false }) else s
    | _ => s)

/-! ### The handler bank -/

/-- HANDLER_BANK_GRANT: the bank is free, and the oldest group that waits for it enters handler mode (R298). -/
def execHandlerBankGrant (core : Fin 128) (part : Fin 4) (s : State) : Host.Outcome State Fault Refusal :=
  .next (match (List.finRange 128).find? fun i => match s.group core i with
    | some g => g.part == part && !g.dels.isEmpty && !g.hmode && !g.halted && !s.olderPending core i g
    | none => false with
  | none => s
  | some i => s.pumpDeliveries core i)

/-! ### IDLE, notify writes and Chive (R190, R371) -/

/-- IDLE_WAKE: a group that IDLE stopped resumes issue (R190). -/
def execIdleWake (core gid : Fin 128) (s : State) : Host.Outcome State Fault Refusal :=
  .next (s.modGroup core gid fun g => if g.idle && g.woken then { g with idle := false, woken := false, polled := false } else g)

/-- Whether Chive has an entry, or one free, for a wake event of a kind of each of some cores (R371). -/
def State.chiveTakes (s : State) (cs : List (Fin 128)) (kind : WakeKind) : Bool :=
  allDies.all fun d =>
    let new := (cs.filter fun c => dieOf c == d && (s.core c).power != .active && !(s.die d).chive.contains (c, kind)).length
    new == 0 || decide ((s.die d).chive.length + new ≤ 64)

/-- A wake event of a core: applied at once to an active core, latched by Chive for a gated one, entries of one core and
kind merging; with all 64 entries in use it waits at the front end (R371). -/
def State.wakeEvent (s : State) (c : Fin 128) (kind : WakeKind) : State :=
  if (s.core c).power = .active then (if kind = .notify then s.modCore c Core.wakeIdle else s)
  else s.modDie (dieOf c) fun d =>
    if d.chive.contains (c, kind) then d
    else if d.chive.length < 64 then { d with chive := d.chive ++ [(c, kind)] }
    else if d.chiveHeld.contains (c, kind) then d
    else { d with chiveHeld := d.chiveHeld ++ [(c, kind)] }

/-- The wake events that a die's front end holds sent in their order (R371): one of a core that is up is applied, one of a gated core is
latched while Chive has an entry for it, and is held again otherwise. -/
def State.sendHeld (s : State) (d : Fin 4) : State :=
  (s.die d).chiveHeld.foldl (fun s e => s.wakeEvent e.1 e.2) (s.modDie d fun x => { x with chiveHeld := [] })

/-- Chive's entries of a core that is up applied and freed, and the events that waited for an entry sent on (R371). -/
def State.applyChive (s : State) (c : Fin 128) : State :=
  let notified := (s.die (dieOf c)).chive.contains (c, .notify)
  let s := s.modDie (dieOf c) fun d => { d with chive := d.chive.filter fun e => e.1 != c }
  (if notified then s.modCore c Core.wakeIdle else s).sendHeld (dieOf c)

/-- NOTIFY_APERTURE_WRITE: a write to a core's notify aperture wakes its IDLE groups (R371). -/
def execNotifyApertureWrite (core : Fin 128) (s : State) : Host.Outcome State Fault Refusal := .next (s.wakeEvent core .notify)

/-- TIMER_MATCH: REFT has reached TIMERM; TEV sets and the IDLE groups wake (R190, R296). [DESIGN CHOICE, log 27] -/
def execTimerMatch (core : Fin 128) (s : State) : Host.Outcome State Fault Refusal :=
  .next (if s.reft = (s.core core).timerm then s.modCore core fun k => { k.wakeIdle with tev := true } else s)

/-! ### The core reserve (R62) -/

/-- Whether a resident group could issue in this cycle: one inside its STALL interval, or that has found in this cycle that it must wait,
could not. [DESIGN CHOICE, log 111] -/
def State.groupFree (s : State) (c gid : Fin 128) : Bool :=
  match s.group c gid with
  | none => false
  | some g => g.stall == 0 && !g.polled && !g.away && !g.idle && !g.engHeld && g.brm.isNone && g.issueAddr.isSome
      && (g.stop == .none || g.stop == .atSafePoint)

/-- CORE_RESERVE_LOAN: no resident group can issue and some stall on enlargement; the oldest of those borrows the core
reserve. A bound group never stalls on enlargement, so the borrower is always open work. -/
def execCoreReserveLoan (core : Fin 128) (s : State) : Host.Outcome State Fault Refusal :=
  let k := s.core core
  let here := (List.finRange 128).filterMap fun i => (k.groups.get i).map fun g => (i, g)
  let stalled := here.filter fun x => x.2.enlarge != 0
  let oldest := (sortBy (fun x : Fin 128 × Group => x.2.age.1 * 2 ^ 64 + x.2.age.2) stalled).head?
  .next (match oldest with
  | none => s
  | some (i, g) =>
    if k.loan.isEmpty && here.all fun x => !s.groupFree core x.1 then
      (s.modCore core fun k => { k with loan := [(g.uid, 0)] }).modGroup core i fun g => { g with polled := false, enlarge := 0 }
    else s)
/-! ### A team's resources (R340) -/

/-- The open bulk transfers of a team that has ended, closed as failed: status BOUND, no page, and their counters advance
(R121, R340). -/
def State.failBulks (s : State) (c : Fin 128) (slot : Fin 16) (t : Team) : State :=
  let space := (s.grid t.grid).elim 0 Grid.space
  t.bulks.foldl (fun s b =>
    let (id, s) := s.newId
    { s with copies := s.copies ++ [⟨id, c, 0, 0, t.admitted, 0, [], 0, slot, space, 0, .bulk b.body b.scope, 0, 0, 0x01, 0, none, .status, [], none, none⟩] })
    (s.modTeam c slot fun t => { t with bulks := [] })

/-- Whether a team's half still has an unfinished copy on its core. -/
def State.halfCopies (s : State) (c : Fin 128) (slot : Fin 16) : Bool :=
  s.copies.any fun k => k.core == c && k.slot == slot && k.phase != .done

/-- A span freed. -/
def State.freeSpan (s : State) (c : Fin 128) (a : Nat) : State :=
  s.modCore c fun k => { k with spans := k.spans.filter fun p => p.base != a }

/-- The span set aside for a stop that its team did not live to see freed (R343). -/
def State.dropStop (s : State) (c : Fin 128) (slot : Fin 16) : State :=
  match (s.team c slot).bind fun t => t.stop.bind TeamStop.span with
  | some (a, _) => s.freeSpan c a
  | none => s

/-- One half of a team leaves its core: its slot, granules and copies are free, and each granule remembers the space that
owned it (R64). -/
def State.freeHalf (s : State) (c : Fin 128) (slot : Fin 16) : State :=
  { s.setTeam c slot none with copies := s.copies.filter fun k => !(k.core == c && k.slot == slot) }

/-- TEAM_RELEASE: the last group has exited and no stream runs: open bulk transfers are closed as failed, and once every copy has
performed the team's resources are freed (R340). -/
def execTeamRelease (core : Fin 128) (slot : Fin 16) (s : State) : Host.Outcome State Fault Refusal :=
  .next (match s.team core slot with
  | none => s
  | some t =>
    let other := partner core
    if !t.exited || t.odd || !s.streamsIdle core slot t then s
    else if !t.bulks.isEmpty then s.failBulks core slot t
    else if s.halfCopies core slot || (t.paired && s.halfCopies other t.mate) then s
    else
      let s := (s.dropStop core slot).freeHalf core slot
      ((if t.paired then (s.dropStop other t.mate).freeHalf other t.mate else s).reapGrid t.grid).acceptsDone)

end Sys2Proof.Machine
end

