-- ==== Sys2Proof/Machine/Save.lean ====
section
/-! DEFINITION. Contexts and continuations as they are written: the group context, the team section and the continuation
(R306, R307, R345), the save bound (R403) and the save area (R349). -/
namespace Sys2Proof.Machine

/-! ### Group contexts (R306) -/

/-- The number of an LSTATE (R22). -/
def lstateCode (x : LState) : Nat :=
  match x with
  | .running => 0
  | .parked => 1
  | .exited => 2
  | .vacant => 3

/-- A number as a multiple of another, at or above it. -/
def roundUp (n m : Nat) : Nat := (n + m - 1) / m * m

/-- Zero bytes. -/
def zeros (n : Nat) : List Byte := List.replicate n 0

/-- A list of bytes padded with zeros to a multiple. -/
def padTo (m : Nat) (bs : List Byte) : List Byte := bs ++ zeros (roundUp bs.length m - bs.length)

/-- A set of positions as bits of a number, two for each position. -/
def twoBits (f : Fin 64 → Nat) : Nat := (List.finRange 64).foldl (fun a p => a + f p * 4 ^ p.val) 0

/-- The bytes of one saved queue entry: its lane set, the pending and deferred slots with their site when `pd`, and its
values. -/
def entryBytes (w : Nat) (pd : Bool) (e : QEntry) : List Byte :=
  leBytes 8 e.lanes.toNat
    ++ (if pd then leBytes 8 e.pending.toNat ++ leBytes 8 e.deferred.toNat ++ leBytes 8 e.site.toNat else [])
    ++ (List.range w).flatMap fun p => leBytes 4 (e.vals.get (Fin.ofNat 64 p)).toNat

/-- The bytes of the queues that hold entries. -/
def queueBytes (g : Group) : List Byte :=
  (List.finRange 8).flatMap fun q =>
    let es := g.q.get q
    if es.isEmpty then []
    else
      let pd := es.any fun e => e.pending != 0 || e.deferred != 0
      leBytes 8 (q.val + es.length * 2 ^ 8 + pd.toNat * 2 ^ 16) ++ es.flatMap (entryBytes g.grant.lanes pd)

/-- The elapsed count of a wait in progress (WAITCNT). -/
def waitCount (w : Option Wait) : Nat := w.elim 0 fun x => x.elapsed.toNat

/-- What the header of a context names besides the group itself. -/
structure ContextId where
  space : Word
  coord : Nat × Nat × Nat
  base : DWord
  digest : DWord
  qid : DWord
  deriving DecidableEq, Repr

/-- The bytes of a group context with SIZE and CHECK still 0. Positions run below the grant (R212). [DEDUCED, log 95] -/
def groupBytes (g : Group) (id : ContextId) (flags : Nat) : List Byte :=
  let vacant (p : Fin 64) : Bool := g.lst.get p == .vacant
  leBytes 4 0x43585447 ++ leBytes 2 1 ++ leBytes 2 0 ++ leBytes 4 0 ++ leBytes 1 g.grant.lanes ++ leBytes 1 g.block
    ++ leBytes 1 flags ++ leBytes 1 0
    ++ leBytes 4 id.space.toNat ++ leBytes 4 id.coord.1 ++ leBytes 4 id.coord.2.1 ++ leBytes 4 id.coord.2.2
    ++ leBytes 8 id.base.toNat ++ leBytes 8 id.digest.toNat ++ leBytes 8 id.qid.toNat ++ leBytes 8 g.mapped.toNat
    ++ leBytes 16 (twoBits fun p => if p.val < g.grant.lanes then lstateCode (g.lst.get p) else 0) ++ leBytes 8 g.xflags.toNat
    ++ leBytes 4 (waitCount g.wait) ++ leBytes 4 0
    ++ ((List.finRange 7).flatMap fun i => leBytes 8 (g.k.get i).toNat) ++ zeros 96 ++ zeros 8
    ++ ((List.finRange 64).flatMap fun p => leBytes 4 (if vacant p then 0 else (g.lpc.get p).toNat))
    ++ ((List.finRange 64).map fun p => g.depth.get p)
    ++ ((List.finRange 64).flatMap fun i => leBytes 4 (g.loops.get i).toNat) ++ zeros 192
    ++ ((List.finRange 128).flatMap fun i => leBytes 8 (g.s.get i).toNat)
    ++ (((List.finRange 64).filter fun r => g.mapped.getLsbD r.val).flatMap fun r =>
        (List.range g.grant.lanes).flatMap fun p => leBytes 4 ((g.v.get r).get (Fin.ofNat 64 p)).toNat)
    ++ queueBytes g

/-- Bytes put in place of those at an offset. -/
def patch (bs : List Byte) (off : Nat) (new : List Byte) : List Byte := bs.take off ++ new ++ bs.drop (off + new.length)

/-- HMAC-SHA-512 of a message under a key (R307). [PRESUMED, log 25] -/
def hmacSha512 (key m : List Byte) : List Byte :=
  let k := if key.length ≤ 128 then key else sha512 key
  let k := k ++ zeros (128 - k.length)
  sha512 (k.map (fun b => b ^^^ 0x5C) ++ sha512 (k.map (fun b => b ^^^ 0x36) ++ m))

/-- CHECK of a context's bytes with CHECK taken as 0, in a boot: bytes 0 to 7 of the digest, the first least significant (R123, R307).
[DESIGN CHOICE, log 16] -/
def contextCheck (boot : Nat) (bs : List Byte) : DWord :=
  BitVec.ofNat 64 (leNat ((hmacSha512 (Config.contextKey boot) bs).take 8))

/-- A context or continuation completed: padded to a multiple of 256, with SIZE, and with CHECK over the whole (R307). [DESIGN CHOICE, log 16] -/
def sealContext (boot : Nat) (bs : List Byte) : List Byte × DWord :=
  let bs := padTo 256 bs
  let bs := patch bs 8 (leBytes 4 bs.length)
  let check := contextCheck boot bs
  (patch bs 0xF8 (leBytes 8 check.toNat), check)

/-! ### The team section (R306) -/

/-- Bytes of granules of a core's pool. -/
def State.granules (s : State) (c : Fin 128) (gs : List (Fin 96)) : List Byte :=
  gs.flatMap fun g => (s.core c).pool.bytes (g.val * 65536) 65536

/-- The per-thread states of a barrier, two bits each: 0b01 arrived, 0b10 dropped (R236). -/
def threadStates (b : Barrier) (n : Nat) : List Byte :=
  (List.range ((n + 3) / 4)).map fun i => BitVec.ofNat 8 ((List.range 4).foldl (fun a j =>
    a + ((b.arrivedSet.getLsbD (4 * i + j)).toNat + 2 * (b.droppedSet.getLsbD (4 * i + j)).toNat) * 4 ^ j) 0)

/-- The bytes of one barrier. -/
def barrierBytes (b : Barrier) : List Byte :=
  leBytes 4 b.phase.toNat ++ leBytes 2 b.expect.toNat ++ leBytes 2 b.arrived.toNat ++ leBytes 2 b.pendDrop.toNat ++ zeros 6

/-- The number of a scope, as SC fields hold it (R139). -/
def bulkBytes (b : BulkOpen) : List Byte := leBytes 8 (b.desc + scopeNum b.scope * 2 ^ 32) ++ leBytes 8 b.arrived.toNat

/-- The state of a stream at a barrier, as two bits. -/
def barStCode (b : BarSt) : Nat :=
  match b with
  | .notArrived => 0
  | .arrived => 1
  | .dropped => 2

/-- The bytes of a running stream. -/
def streamBytes (st : Stream) (seqr : Nat) : List Byte :=
  leBytes 4 st.pc.toNat ++ leBytes 4 seqr ++ leBytes 4 (waitCount st.wait)
    ++ leBytes 4 ((List.finRange 16).foldl (fun a i => a + barStCode (st.bars.get i) * 4 ^ i.val) 0) ++ zeros 48
    ++ ((List.finRange 64).flatMap fun i => leBytes 4 (st.loops.get i).toNat)
    ++ ((List.finRange 128).flatMap fun i => leBytes 8 (st.s.get i).toNat)

/-- The matrix state of an owner on one core. -/
def State.matrixBytes (s : State) (c : Fin 128) (t : Team) (grid : Grid) : List Byte :=
  let k := s.core c
  let e : Eng := ⟨c, t, grid, 0, fun _ => 0⟩
  ((List.finRange 16).flatMap fun i => leBytes 4 (k.tsh.get i).toNat) ++ leBytes 8 k.mflags.toNat
    ++ ((List.finRange 16).flatMap fun i =>
        let x := s.tile e i
        if x.configured then padTo 64 (x.bytes.bytes 0 x.size) else [])
    ++ k.scale.bytes 0 0x20000 ++ s.granules c t.accG

/-- The streams of a team that run on a core, with their numbers (R303). -/
def State.teamStreams (s : State) (c : Fin 128) (slot : Fin 16) (odd : Bool) : List (Stream × Nat) :=
  [false, true].filterMap fun copy => match (s.core c).stream copy with
    | some st => if st.team = slot then some (st, (if odd then 2 else 0) + copy.toNat) else none
    | none => none

/-- The barriers at which a team's streams on a core wait, with the STALL of the waiting instruction. -/
def State.streamHolds (s : State) (c : Fin 128) (slot : Fin 16) (odd : Bool) : List (Option (Fin 16 × Nat)) :=
  (s.teamStreams c slot odd).map fun x => x.1.barWait.map fun b => (b, x.1.barSt)

/-- The team section of one core. -/
def State.teamSection (s : State) (c : Fin 128) (slot : Fin 16) (t : Team) (grid : Grid) (streams : Bool) : List Byte :=
  let home := teamHome c slot t
  let held := (s.team home.1 home.2).getD t
  let n := grid.kern.nbar
  let bars := (List.range n).map fun i => held.bars.get (Fin.ofNat 16 i)
  let owner := decide (1 ≤ grid.accg)
  leBytes 8 (t.nthr + n * 2 ^ 16 + grid.kern.nflag * 2 ^ 24 + grid.scrg * 2 ^ 32 + grid.accg * 2 ^ 40 + owner.toNat * 2 ^ 48
      + t.paired.toNat * 2 ^ 49 + t.bulks.length * 2 ^ 52)
    ++ leBytes 8 held.flags.toNat ++ leBytes 8 held.kept.toNat ++ zeros 40
    ++ bars.flatMap barrierBytes ++ padTo 64 (bars.flatMap fun b => threadStates b t.nthr)
    ++ t.bulks.flatMap bulkBytes ++ s.granules c t.scrG
    ++ (if owner then s.matrixBytes c t grid else [])
    ++ (if streams then (s.teamStreams c slot t.odd).flatMap fun x => streamBytes x.1 x.2 else [])

/-! ### Continuations (R345) -/

/-- The live registers of a safe point. -/
def Kern.liveAt (k : Kern) (pc : Nat) : List (Fin 64) :=
  ((k.safes.find? fun e => e.1 == pc).elim [] fun e => (List.finRange 64).filter fun r => e.2.1.getLsbD r.val)

/-- The bytes of a thread's entry. -/
def threadEntry (kern : Kern) (g : Group) (p : Fin 64) : List Byte :=
  let gone := g.lst.get p == .exited
  let pc := if gone then 0 else (g.lpc.get p).toNat
  let kbits := (List.finRange 7).foldl (fun a i => a + ((g.k.get i).has p).toNat * 2 ^ i.val) 0
  padTo 16 (leBytes 8 (pc + (g.tid.get p).toNat * 2 ^ 32 + g.home p % 64 * 2 ^ 44 + kbits * 2 ^ 50 + gone.toNat * 2 ^ 57)
    ++ leBytes 8 (g.depth.get p).toNat
    ++ (if gone then [] else (kern.liveAt pc).flatMap fun r => leBytes 4 (g.readV r p).toNat))

/-- The threads of groups in ascending thread index. -/
def threadsOf (gs : List Group) : List (Group × Fin 64) :=
  sortBy (fun x : Group × Fin 64 => (x.1.tid.get x.2).toNat)
    (gs.flatMap fun g => ((List.finRange 64).filter fun p => g.lst.get p != .vacant).map fun p => (g, p))

/-- The bytes of a continuation with SIZE and CHECK still 0: threads that exited with groups that are gone have entries
too. -/
def contBytes (gs : List Group) (nthr : Nat) (kern : Kern) (id : ContextId) : List Byte :=
  let ts := threadsOf gs
  let first := (ts.head?.map Prod.fst).getD Group.fresh
  let has (t : Nat) : Option (Group × Fin 64) := ts.find? fun x => (x.1.tid.get x.2).toNat == t
  let loops := (List.finRange 64).map fun i => gs.foldl (fun a g => max a (g.loops.get i).toNat) 0
  let xf := gs.foldl (fun a g => a ||| g.xflags.toNat) 0
  leBytes 4 0x434E5443 ++ leBytes 2 1 ++ leBytes 2 0 ++ leBytes 4 0 ++ leBytes 2 nthr ++ leBytes 2 0
    ++ leBytes 4 id.space.toNat ++ leBytes 4 id.coord.1 ++ leBytes 4 id.coord.2.1 ++ leBytes 4 id.coord.2.2
    ++ leBytes 8 id.base.toNat ++ leBytes 8 id.digest.toNat ++ leBytes 8 0 ++ leBytes 8 xf ++ zeros 184 ++ zeros 8
    ++ loops.flatMap (leBytes 4) ++ ((List.finRange 128).flatMap fun i => leBytes 8 (first.s.get i).toNat)
    ++ (List.range nthr).flatMap fun t => match has t with
      | some (g, p) => threadEntry kern g p
      | none => leBytes 8 (t * 2 ^ 32 + t % 64 * 2 ^ 44 + 2 ^ 57) ++ leBytes 8 0

/-! ### The save bound (R403) -/

/-- Bytes of the largest context of a group at its grant. -/
def Grid.contextBound (grid : Grid) (w : Nat) : Nat :=
  0x800 + grid.kern.ceil * 4 * w
    + ((List.finRange 8).map fun q =>
        let d := field (grid.kern.queues.get q).toNat 0 7
        if d = 0 then 0 else 8 + d * (32 + 4 * w)).sum

/-- Bytes of the largest team section of one core. -/
def Grid.sectionBound (grid : Grid) (nthr scrG : Nat) (streams : Bool) : Nat :=
  let n := grid.kern.nbar
  64 + 16 * n + roundUp (n * ((nthr + 3) / 4)) 64 + 16 * 4 + scrG * 65536
    + (if 1 ≤ grid.accg then 72 + 16 * 0x4000 + 0x20000 + grid.accg * 65536 else 0)
    + (if streams && !grid.kern.strms.isEmpty then 2 * 0x540 else 0)

/-- Bytes of the largest continuation of a team of which `live` threads have not exited, with a team section for each count of scratch
granules. -/
def Grid.contBound (grid : Grid) (nthr live : Nat) (scrGs : List Nat) : Nat :=
  let regs := grid.kern.safes.foldl (fun a e => max a (popcount e.2.1)) 0
  roundUp (0x600 + live * roundUp (16 + 4 * regs) 16 + (nthr - live) * 16
    + (scrGs.map fun n => grid.sectionBound nthr n false).sum) 256

/-- The threads of a team's half that have not exited. -/
def State.liveThreads (s : State) (c : Fin 128) (slot : Fin 16) : Nat :=
  ((s.teamGroups c slot).map fun x => popcount (x.2.inState .running ||| x.2.inState .parked)).sum

/-- The save bound of a team's half on its core as it stands, for a stop at an instruction boundary or at safe points, which may end at
an instruction boundary too (R344). A safe-point save of a pair lies whole on the even core. [DEDUCED, log 46] -/
def State.saveBound (s : State) (c : Fin 128) (slot : Fin 16) (t : Team) (grid : Grid) (safe : Bool) : Nat :=
  let ws := (s.teamGroups c slot).map fun x => x.2.grant.lanes
  let sec := grid.sectionBound t.nthr t.scrG.length true
  let ctx := (ws.map fun w => roundUp (grid.contextBound w) 256).sum + roundUp sec 256
  if !safe || t.odd then ctx
  else
    let others := if t.paired then [(s.team (partner c) t.mate).elim 0 fun x => x.scrG.length] else []
    let live := s.liveThreads c slot + (if t.paired then s.liveThreads (partner c) t.mate else 0)
    max ctx (grid.contBound t.nthr live (t.scrG.length :: others))

/-! ### The context save area (R349) -/

/-- The area of a core. -/
def Core.saveArea (k : Core) : Nat × Nat := (field k.ctxbase.toNat 12 36 * 4096, field k.ctxlen.toNat 12 36 * 4096)

/-- Whether a span of addresses is free. -/
def Core.spanFree (k : Core) (a n : Nat) : Bool := k.spans.all fun p => decide (a + n ≤ p.base) || decide (p.base + p.size ≤ a)

/-- The lowest free span that starts at a multiple of 0x1000 and holds `n` bytes, if the area has one. Candidates are the
area's start and the ends of the spans in use. -/
def Core.findSpan (k : Core) (n : Nat) : Option Nat :=
  let (base, len) := k.saveArea
  let starts := sortBy id ((roundUp base 0x1000) :: k.spans.map fun p => roundUp (p.base + p.size) 0x1000)
  starts.find? fun a => decide (base ≤ a) && decide (a + n ≤ base + len) && k.spanFree a n

/-- A span set aside for an owner. -/
def State.takeSpan (s : State) (c : Fin 128) (a n owner : Nat) : State :=
  s.modCore c fun k => { k with spans := k.spans ++ [⟨a, n, owner⟩] }

end Sys2Proof.Machine
end

