-- ==== Sys2Proof/Machine/Seat.lean ====
section
/-! DEFINITION. What a team needs of a core and how it takes its seat there: the initial grant (R16, R17), the register
store (R59, R60), slots and granules (R12, R63, R64, R337), and the groups of a new team (R14, R15). -/
namespace Sys2Proof.Machine

/-! ### What a core has -/

/-- The resident groups of a core. -/
def Core.resident (k : Core) : List Group := k.groups.val.filterMap id

/-- The teams on a core. -/
def Core.teamList (k : Core) : List Team := k.teams.val.filterMap id

/-- Thread slots in use: a group of width w takes w (R12). -/
def Core.threadsUsed (k : Core) : Nat := (k.resident.map fun g => g.grant.lanes).sum

/-- The width cap that a core's health gives (R16): partitions with no slice in service do not count. [DESIGN CHOICE, log 8] -/
def Core.healthCap (k : Core) : Nat :=
  let inService := k.slices.val.filter fun n => n != 0
  if inService.any fun n => n == 1 then 16 else if inService.any fun n => n == 2 || n == 3 then 32 else 64

/-- Whether a core may hold teams at all: it passed its last self-test and some partition is in service. [DESIGN CHOICE, log 8] -/
def Core.inService (k : Core) : Bool := !k.excluded && k.slices.val.any fun n => n != 0

/-- The granules that no team of the core holds, ascending. -/
def Core.freeGranules (k : Core) : List (Fin 96) :=
  (List.finRange 96).filter fun g => k.teamList.all fun t => !(t.regG.contains g || t.scrG.contains g || t.accG.contains g)

/-- Whether an open team is resident, so that the core holds its reserve granule (R60). -/
def State.holdsReserve (s : State) (c : Fin 128) : Bool := (s.core c).teamList.any fun t => s.isOpen t

/-- A core's load (R337): its occupied thread slots plus 32 for each occupied granule, the reserve granule counted. -/
def State.load (s : State) (c : Fin 128) : Nat :=
  (s.core c).threadsUsed + 32 * (96 - (s.core c).freeGranules.length + (s.holdsReserve c).toNat)

/-- Whether an accepted quotation holds a core (R327, R328). -/
def State.coreHeld (s : State) (c : Fin 128) : Bool :=
  s.quotes.any fun q => (q.state == .accepted || q.state == .running) && q.cores.getLsbD c.val

/-- Whether a grid's teams may lie on a core (R319): its map names the core, which lies in the queue's partition. -/
def State.inMap (s : State) (g : Grid) (c : Fin 128) : Bool :=
  (s.die (dieOf c)).part == (s.die g.die).part && (g.cmap == 0 || g.cmap.getLsbD c.val)

/-- Whether a grid's teams need pairs of cores (R13). -/
def Grid.paired (g : Grid) : Bool := decide (2048 < g.threads)

/-- The threads of a team that stand on one core (R13). -/
def Grid.half (g : Grid) (odd : Bool) : Nat := if odd then g.threads - 2048 else min g.threads 2048

/-- Scratch granules that one core gives a team (R63). -/
def Grid.scrHalf (g : Grid) : Nat := if g.paired then g.scrg / 2 else g.scrg

/-! ### What a seat needs -/

/-- A group that a core must take: its block, its width, and the slots its registers need. -/
structure Seat where
  block : Nat
  width : Nat
  regs : Nat
  deriving DecidableEq, Repr

/-- Whether a seat's slice lies in a quarter column (R59). -/
def Seat.covers (x : Seat) (col : Nat) : Bool :=
  let n := x.width / 16
  decide ((x.block * n) % 4 ≤ col) && decide (col < (x.block * n) % 4 + n)

/-- The slots of one quarter column that seats need. -/
def columnNeed (xs : List Seat) (col : Nat) : Nat := ((xs.filter fun x => x.covers col).map Seat.regs).sum

/-- Whether every quarter column has the slots that seats need. -/
def columnsFit (xs : List Seat) (free : Nat → Nat) : Bool := (List.range 4).all fun col => decide (columnNeed xs col ≤ free col)

/-- The seats of `n` threads at width `w` (R14). -/
def newSeats (n w resv : Nat) : List Seat := (List.range ((n + w - 1) / w)).map fun q => ⟨q % (64 / w), w, resv⟩

/-- The width cap of a core for a team's half (R16): its health, the pair limit, and the register pressure of the team's own
store; none when even 16 does not fit. -/
def Core.widthCap (k : Core) (grid : Grid) (odd : Bool) : Option Nat :=
  let most := if grid.paired then min 32 k.healthCap else k.healthCap
  [64, 32, 16].find? fun w => decide (w ≤ most)
    && columnsFit (newSeats (grid.half odd) w grid.reservation) fun _ => 256 * grid.regg

/-- The width that a launch asks for (R17). -/
def Grid.requested (g : Grid) : Nat := (roundWidth (if g.width = 0 then g.kern.width else g.width)).lanes

/-- The initial grant of a team's half on a core (R17). [DEDUCED, log 69] -/
def Core.initialGrant (k : Core) (grid : Grid) (odd : Bool) : Option Nat := (k.widthCap grid odd).map fun c => min c grid.requested

/-- Whether a core has the slots and granules for a half of a team with these seats (R12, R60, R337). -/
def State.hasRoom (s : State) (c : Fin 128) (grid : Grid) (xs : List Seat) : Bool :=
  let k := s.core c
  let reserve := if grid.qid.isNone || s.holdsReserve c then 1 else 0
  k.inService && k.teams.val.any (fun t => t.isNone) && decide (xs.length ≤ k.freeGroups.length)
    && decide (k.threadsUsed + (xs.map Seat.width).sum ≤ 2048)
    && decide (grid.regg + grid.scrHalf + grid.accg + reserve ≤ k.freeGranules.length)
    && (grid.accg == 0 || k.teamList.all fun t => t.accG.isEmpty)
    && columnsFit xs fun _ => 256 * grid.regg

/-- The seats of a new team's half on a core, or none when it cannot be admitted there. -/
def State.newHalf (s : State) (c : Fin 128) (grid : Grid) (odd : Bool) : Option (List Seat) :=
  match (s.core c).initialGrant grid odd with
  | none => none
  | some w =>
    let xs := newSeats (grid.half odd) w grid.reservation
    if s.hasRoom c grid xs then some xs else none

/-- A core with no work, of the same health (R320). -/
def Core.emptied (k : Core) : Core :=
  { k with groups := Tab.replicate 128 none, teams := Tab.replicate 16 none, loan := [] }

/-- Whether a unit, named by its only or even core, can admit a new team as it stands. -/
def State.canAdmit (s : State) (c : Fin 128) (grid : Grid) : Bool :=
  (s.newHalf c grid false).isSome && (!grid.paired || (s.newHalf (partner c) grid true).isSome)

/-- The units that a grid may use, by their only or even cores, ascending: a pair lies on one die (R13, R321, R337). -/
def State.units (s : State) (grid : Grid) : List (Fin 128) :=
  allCores.filter fun c => s.inMap grid c && (!grid.paired || (c.val % 2 == 0 && s.inMap grid (partner c)))

/-- Whether no accepted quotation holds any core of a unit. -/
def State.unitFree (s : State) (grid : Grid) (c : Fin 128) : Bool :=
  !s.coreHeld c && (!grid.paired || !s.coreHeld (partner c))

/-! ### Taking a seat -/

/-- The lowest free team slot of a core. [DEDUCED, log 44] -/
def Core.freeTeam (k : Core) : Fin 16 := ((List.finRange 16).find? fun i => (k.teams.get i).isNone).getD 0

/-- A granule given to a team of a space, for registers or not: zeroed when its last owner was another space, and as it stands otherwise
(R64). What registers left in it is free. [DESIGN CHOICE, log 100] -/
def State.giveGranule (s : State) (c : Fin 128) (space : Word) (regs : Bool) (g : Fin 96) : State :=
  let a := g.val * 65536
  let other := (s.core c).owners.get g != some space
  let stale := (s.core c).regUsed.contains g && !other && !regs
  let (n, s) := if stale then s.draw else (0, s)
  let s := s.modCore c fun k =>
    { k with
      pool := if other then k.pool.clear a 65536
        else if stale then (k.pool.clear a 65536).store a ((List.range 65536).map (Config.rowByte n)) else k.pool
      owners := k.owners.set g (some space)
      regUsed := (if regs then [g] else []) ++ k.regUsed.filter fun x => x != g }
  if other then (s.unmark 0 c a 65536).inject (dieOf c) 0 c a 65536 else s

/-- The matrix state that a new matrix owner meets (R69, R253): tiles, shape registers and MFLAGS are 0, and the scale
store follows the scrub rule of R64. [DEDUCED, log 33] -/
def Core.giveMatrix (k : Core) (space : Word) : Core :=
  let other := match k.scaleOwner with
    | some x => x != space
    | none => true
  { k with
    tiles := Tab.replicate 16 []
    tsh := Tab.replicate 16 0
    mflags := 0
    scale := if other then [] else k.scale
    scaleOwner := some space }

/-- The matrix state of a core given to a new owner, whose errors go with the old contents (R69, R253, R390). -/
def State.giveMatrix (s : State) (c : Fin 128) (space : Word) : State :=
  let kept := (s.core c).scaleOwner == some space
  let s := ((s.modCore c fun k => k.giveMatrix space).unmark 2 c 0 0x40000).inject (dieOf c) 2 c 0 0x40000
  if kept then s else (s.unmark 1 c 0 0x20000).inject (dieOf c) 1 c 0 0x20000

/-- The barriers of a new team (R236): BCNT, or the team's thread count when it is 0. -/
def newBarriers (grid : Grid) : Tab Barrier 16 :=
  Tab.ofFn fun i =>
    let n := grid.kern.bcnt.getD i.val 0
    ⟨0, BitVec.ofNat 13 (if n = 0 then grid.threads else n), 0, 0, 0, 0⟩

/-- The coordinates of team `i` of a grid (R11). -/
def Grid.coord (g : Grid) (i : Nat) : Nat × Nat × Nat := (i % g.dims.1, i / g.dims.1 % g.dims.2.1, i / g.dims.1 / g.dims.2.1)

/-- `n` granules out of a list of free ones, each as the device picks it. [DESIGN CHOICE, log 89] -/
def State.pickGranules : Nat → List (Fin 96) → State → List (Fin 96) × State
  | 0, _, s => ([], s)
  | n + 1, free, s =>
    let (i, s) := s.pick free.length
    match free[i]? with
    | none => ([], s)
    | some g =>
      let (gs, s) := s.pickGranules n (free.eraseIdx i)
      (g :: gs, s)

/-- A half of a team seated in a slot: its granules, for registers, for scratch and for the accumulator (R64). [DESIGN CHOICE, log 89] -/
def State.seatHalf (s : State) (c : Fin 128) (slot mate : Fin 16) (grid : Grid) (index admitted : Nat) (odd : Bool) : State :=
  let (free, s) := s.pickGranules (grid.regg + grid.scrHalf + grid.accg) (s.core c).freeGranules
  let regG := free.take grid.regg
  let scrG := (free.drop grid.regg).take grid.scrHalf
  let accG := (free.drop (grid.regg + grid.scrHalf)).take grid.accg
  let s := regG.foldl (fun s g => s.giveGranule c grid.space true g) s
  let s := (scrG ++ accG).foldl (fun s g => s.giveGranule c grid.space false g) s
  let s := if 1 ≤ grid.accg then s.giveMatrix c grid.space else s
  let t : Team := {
    grid := grid.id, index := index, coord := grid.coord index, nthr := grid.threads, paired := grid.paired, odd := odd
    mate := mate, admitted := admitted, regG := regG, scrG := scrG, accG := accG, bars := newBarriers grid, flags := 0
    bulks := [], kept := 0, exited := false, stop := none }
  s.setTeam c slot (some t)

/-- A team seated on a unit, on one core or on both of a pair; the slots it took. [DEDUCED, log 44] -/
def State.seatTeam (s : State) (c : Fin 128) (grid : Grid) (index admitted : Nat) : Fin 16 × Fin 16 × State :=
  let slot := (s.core c).freeTeam
  if grid.paired then
    let mate := (s.core (partner c)).freeTeam
    (slot, mate, (s.seatHalf c slot mate grid index admitted false).seatHalf (partner c) mate slot grid index admitted true)
  else (slot, 0, s.seatHalf c slot 0 grid index admitted false)

/-- A group placed on a core under the lowest free number, on the partition that R15 chooses. -/
def State.seatGroup (s : State) (c : Fin 128) (g : Group) : State :=
  match (s.core c).freeGroups with
  | [] => s
  | i :: _ => s.setGroup c i (some { g with part := (s.core c).freePartition })

/-- Group `q` of a new team's half at width `w` (R14, R53). -/
def newGroup (grid : Grid) (slot : Fin 16) (admitted first : Nat) (odd : Bool) (w q uid : Nat) : Group :=
  let base := (if odd then 2048 else 0) + q * w
  let there (p : Fin 64) : Bool := decide (p.val < w) && decide (base + p.val < (if odd then grid.threads else min grid.threads 2048))
  { Group.fresh with
    uid := uid
    team := slot
    grant := roundWidth w
    block := q % (64 / w)
    age := (admitted, 4 * (first + q))
    priv := grid.priv
    tid := Tab.ofFn fun p => if there p then BitVec.ofNat 12 (base + p.val) else 0
    lpc := Tab.ofFn fun p => if there p then grid.kern.entry else 0
    lst := Tab.ofFn fun p => if there p then .running else .vacant
    s := Tab.ofFn fun i => grid.args.getD i.val 0 }

/-- The groups of a new team's half, in ascending q. -/
def State.formGroups (s : State) (c : Fin 128) (slot : Fin 16) (grid : Grid) (admitted first : Nat) (odd : Bool) (w : Nat) :
    List Nat → State
  | [] => s
  | q :: rest =>
    let (uid, s) := s.newId
    (s.seatGroup c (newGroup grid slot admitted first odd w q uid)).formGroups c slot grid admitted first odd w rest

/-- A new team admitted to a unit (R12 to R17): its halves seated and its groups formed. -/
def State.admitTeam (s : State) (c : Fin 128) (grid : Grid) (index : Nat) : State :=
  let w0 := ((s.core c).initialGrant grid false).getD 16
  let w1 := ((s.core (partner c)).initialGrant grid true).getD 16
  let (admitted, s) := s.newId
  let (slot, mate, s) := s.seatTeam c grid index admitted
  let n0 := (grid.half false + w0 - 1) / w0
  let s := s.formGroups c slot grid admitted 0 false w0 (List.range n0)
  let s := if grid.paired then
      s.formGroups (partner c) mate grid admitted n0 true w1 (List.range ((grid.half true + w1 - 1) / w1))
    else s
  s.modGrid grid.id fun g => { g with admits := g.admits ++ [(index, admitted)] }

end Sys2Proof.Machine
end

