-- ==== Sys2Proof/Machine/Load.lean ====
section
/-! DEFINITION. Saving a group or a team, and reloading it: contexts and continuations as they are read back (R306, R307,
R345 to R347), the split under a smaller grant (R19), and the seat that a saved team takes. -/
namespace Sys2Proof.Machine

/-! ### Saving -/

/-- Deliveries of a stopped group that have not begun, as a save meets them (R306): the lanes of the refused replay entries are saved
as exited, in the group as it is saved too, with one record of kind 5 for them; a parked lane's access is made again after resumption. -/
def State.endPending (s : State) (c gid : Fin 128) : State :=
  match s.group c gid with
  | none => s
  | some g =>
    let refused := g.dels.filter Delivery.replay
    let s := match refused with
      | [] => s
      | d :: _ =>
        let m := refused.foldl (fun (m : Lanes) (e : Delivery) => m ||| e.lanes) 0
        let s := s.pushRecord c (s.deliveryWords c gid g { d with lanes := m } 5 false d.site) none
        let s := match s.bankOf c gid g with
          | some b => s.modCore c fun k => { k with banks := k.banks.set g.part (some { b with snap := b.snap.exitLanes m }) }
          | none => s
        s.modGroup c gid fun x => x.exitLanes m
    s.modGroup c gid fun x => { x with dels := [] }

/-- Whether a replay entry of a core holds a store of a thread of a group (R306). -/
def State.replaysOf (s : State) (c : Fin 128) (g : Group) : Bool :=
  (s.core c).replay.any fun r => (s.team c g.team).any (fun t => t.admitted == r.team) && r.threads.any fun l => g.threads.contains l.1

/-- Whether a request was made on a core by a group as it stands, or by a thread of it (R103, R306). -/
def State.madeBy (s : State) (c : Fin 128) (g : Group) (r : Req) : Bool :=
  r.core == c && (r.uid == g.uid
    || ((s.team c g.team).any (fun t => t.admitted == r.team) && r.tids.any fun l => g.threads.contains l))

/-- Whether a save of a group must still wait (R103, R306): a token is unwritten, a request of its threads has not arrived or performed,
or the replay queue holds an entry of them. -/
def State.saveWaits (s : State) (c : Fin 128) (g : Group) : Bool :=
  (s.tokens.any fun t => t.uid == g.uid && t.core == c) || (s.reqs.any fun r => s.madeBy c g r && !r.spent)
    || s.replaysOf c g

/-- The group that a save writes (R306): a double-faulted one as it stood when its first delivery began. -/
def State.groupAsSaved (s : State) (c gid : Fin 128) (g : Group) : Group :=
  if g.stop = .doubleFault then (s.bankOf c gid g).elim g Bank.snap else g

/-- FLAGS of a group context without the team section's bit (R306). -/
def Group.saveFlags (g : Group) : Nat :=
  g.priv.toNat + (match g.stop with
    | .stopped _ safe => safe.toNat * 2
    | .doubleFault => 8
    | _ => 0)

/-- What a header names of a team (R306). -/
def contextId (t : Team) (grid : Grid) : ContextId :=
  ⟨grid.space, t.coord, grid.kern.base, grid.kern.digest, grid.qid.getD 0⟩

/-- The bytes of a group's context, with the team section when it is the last of its team on the core, and what its layout
does not hold. -/
def State.groupContext (s : State) (c gid : Fin 128) (g : Group) (t : Team) (grid : Grid) (last : Bool) (addr : Nat) :
    List Byte × SavedPart :=
  let x := s.groupAsSaved c gid g
  let body := groupBytes x (contextId t grid) (g.saveFlags + last.toNat * 4)
    ++ (if last then s.teamSection c g.team t grid true else [])
  let (bs, check) := sealContext s.pkg.boots body
  (bs, ⟨x.uid, addr, bs.length, check, x.tid, x.barWaits, g.metTags⟩)

/-- Whether a copy is one of the open sets of a group's threads, ended and not yet sealed: no save holds it (R110). -/
def State.openCopy (s : State) (c : Fin 128) (g : Group) (k : Copy) : Bool :=
  k.core == c && k.phase == .done && (match k.job with
    | .lane .. => true
    | _ => false)
    && (s.team c g.team).any (fun t => t.admitted == k.team) && k.tids.any fun l => g.threads.contains l

/-- A group gone from its core without exiting: its slots, slices, loan and handler bank are free (R62, R188, R298), and the open sets
of its threads are empty (R110). -/
def State.removeGroup (s : State) (c gid : Fin 128) (g : Group) : State :=
  let s : State := { s with copies := s.copies.filter fun k => !s.openCopy c g k }
  let s := match s.bankOf c gid g with
    | some _ => s.freeBank c g.part
    | none => s
  (s.setGroup c gid none).dropLoan c g.uid

/-- The streams of a team's half gone from their core. -/
def State.removeStreams (s : State) (c : Fin 128) (slot : Fin 16) : State :=
  [false, true].foldl (fun s copy => match (s.core c).stream copy with
    | some st => if st.team = slot then s.setStream c copy none else s
    | none => s) s

/-- A team without groups gone from its unit, with its streams. -/
def State.removeTeam (s : State) (c : Fin 128) (slot : Fin 16) (t : Team) : State :=
  let s := (s.removeStreams c slot).freeHalf c slot
  if t.paired then (s.removeStreams (partner c) t.mate).freeHalf (partner c) t.mate else s

/-! ### Reading contexts back -/

/-- The number that four bits of LSTATE codes name (R22). -/
def lstateOf (n : Nat) : LState := if n = 0 then .running else if n = 1 then .parked else if n = 2 then .exited else .vacant

/-- A queue entry read back at `a`: its slots, the pending and deferred ones with their site, and its values. -/
def readEntry (m : Memory) (w : Nat) (pd : Bool) (a uid : Nat) : QEntry :=
  let lanes : Lanes := BitVec.ofNat 64 (m.num a 8)
  let pending : Lanes := if pd then BitVec.ofNat 64 (m.num (a + 8) 8) else 0
  let deferred : Lanes := if pd then BitVec.ofNat 64 (m.num (a + 16) 8) else 0
  let vals := a + (if pd then 32 else 8)
  ⟨uid, .ld, lanes, lanes &&& ~~~pending &&& ~~~deferred, pending, deferred, 0,
    Tab.ofFn fun p => if p.val < w then BitVec.ofNat 32 (m.num (vals + 4 * p.val) 4) else 0,
    if pd then BitVec.ofNat 32 (m.num (a + 24) 8) else 0⟩

/-- The queues read back from `a`, `n` queue doublewords at most; the names of the entries start at `uid`. The end of what
was read comes with them. [DEDUCED, log 46] -/
def readQueues (m : Memory) (w : Nat) (last : Nat) : Nat → Nat → Nat → Tab (List QEntry) 8 → Tab (List QEntry) 8 × Nat
  | 0, a, _, q => (q, a)
  | n + 1, a, uid, q =>
    let h := m.num a 8
    let num := field h 0 8
    let count := field h 8 8
    let pd := field h 16 1 == 1
    if last ≤ a ∨ count = 0 ∨ 7 < num then (q, a)
    else
      let size := (if pd then 32 else 8) + 4 * w
      let es := (List.range count).map fun i => readEntry m w pd (a + 8 + i * size) (uid + i)
      readQueues m w last n (a + 8 + count * size) (uid + count) (q.set (Fin.ofNat 8 num) es)

/-- A group context read back at `a`, with the address at which it ends; the names of its queue entries start at `uid`. [DEDUCED, log 95] -/
def readGroup (m : Memory) (a : Nat) (part : SavedPart) (uid : Nat) : Group × Nat :=
  let w := m.num (a + 0x0C) 1
  let mapped : BitVec 64 := BitVec.ofNat 64 (m.num (a + 0x38) 8)
  let regs := (List.finRange 64).filter fun r => mapped.getLsbD r.val
  let row (r : Fin 64) : Nat := a + 0x800 + (regs.takeWhile fun x => x != r).length * 4 * w
  let lst := m.num (a + 0x40) 16
  let (q, stop) := readQueues m w (a + part.size) 8 (a + 0x800 + regs.length * 4 * w) uid (Tab.replicate 8 [])
  let g : Group := { Group.fresh with
    grant := roundWidth w
    block := m.num (a + 0x0D) 1
    priv := m.num (a + 0x0E) 1 % 2 == 1
    tid := part.tids
    barWaits := part.barWaits
    mapped := mapped
    lst := Tab.ofFn fun p => if w ≤ p.val then .vacant else match lstateOf (field lst (2 * p.val) 2) with
      | .parked => .running
      | x => x
    xflags := BitVec.ofNat 6 (m.num (a + 0x50) 8)
    k := Tab.ofFn fun i => BitVec.ofNat 64 (m.num (a + 0x60 + 8 * i.val) 8)
    lpc := Tab.ofFn fun p => BitVec.ofNat 32 (m.num (a + 0x100 + 4 * p.val) 4)
    depth := Tab.ofFn fun p => m.get (a + 0x200 + p.val)
    loops := Tab.ofFn fun i => BitVec.ofNat 32 (m.num (a + 0x240 + 4 * i.val) 4)
    s := Tab.ofFn fun i => BitVec.ofNat 64 (m.num (a + 0x400 + 8 * i.val) 8)
    v := Tab.ofFn fun r => Tab.ofFn fun p =>
      if mapped.getLsbD r.val && decide (p.val < w) then BitVec.ofNat 32 (m.num (row r + 4 * p.val) 4) else 0
    q := q }
  let count := m.num (a + 0x58) 4
  ({ g with wait := if count = 0 then none else g.issueAddr.map fun pc => ⟨pc, count, .token []⟩ }, stop)

/-- Whether a reserved field of a group context is set (R306, R307). -/
def groupReserved (m : Memory) (a : Nat) : Bool :=
  m.num (a + 6) 2 != 0 || m.get (a + 0x0F) != 0 || field (m.num (a + 0x0E) 1) 4 4 != 0 || m.num (a + 0x5C) 4 != 0
    || (m.bytes (a + 0x98) 96).any (fun b => b != 0) || (m.bytes (a + 0x340) 192).any (fun b => b != 0)

/-- Whether a reserved field of a continuation's header is set (R345). -/
def contReserved (m : Memory) (a : Nat) : Bool :=
  m.num (a + 6) 2 != 0 || m.num (a + 0x0E) 2 != 0 || (m.bytes (a + 0x40) 184).any (fun b => b != 0)

/-- The queue doublewords of a context from `a`, `n` at most, up to `last`: whether one has a reserved bit set (R306). -/
def queuesReserved (m : Memory) (w last : Nat) : Nat → Nat → Bool
  | 0, _ => false
  | n + 1, a =>
    let h := m.num a 8
    let count := field h 8 8
    if last ≤ a ∨ count = 0 ∨ 7 < field h 0 8 then false
    else field h 17 47 != 0
      || queuesReserved m w last n (a + 8 + count * ((if field h 16 1 = 1 then 32 else 8) + 4 * w))

/-- The bytes of the configured tiles of a saved matrix state at `a`, whose slots a grid gives their width (R306). -/
def savedTiles (m : Memory) (grid : Grid) (a : Nat) : Nat :=
  ((List.range 16).map fun i =>
    let t : Word := BitVec.ofNat 32 (m.num (a + 4 * i) 4)
    let x : Tile := ⟨tshRows t, tshCols t, grid.fmt.get (tshSlot t), tshSlot t, []⟩
    if x.configured then roundUp x.size 64 else 0).sum

/-- Where the parts of a team section at `a` that stand before its streams end (R306). -/
def sectionEnd (m : Memory) (grid : Grid) (a : Nat) : Nat :=
  let h := m.num a 8
  let nbar := field h 16 8
  let scratch := a + 64 + 16 * nbar + roundUp (nbar * ((field h 0 16 + 3) / 4)) 64 + 16 * field h 52 4
    + field h 32 8 * (if field h 49 1 = 1 then 32768 else 65536)
  if field h 48 1 = 1 then scratch + 72 + savedTiles m grid scratch + 0x20000 + field h 40 8 * 65536 else scratch

/-- Whether a reserved field of a team section at `a` is set, with `streams` streams behind it (R306). -/
def sectionReserved (m : Memory) (grid : Grid) (a streams : Nat) : Bool :=
  let h := m.num a 8
  let nbar := field h 16 8
  let moves := a + 64 + 16 * nbar + roundUp (nbar * ((field h 0 16 + 3) / 4)) 64
  let stop := sectionEnd m grid a
  field h 50 2 != 0
    || ((List.range nbar).any fun i => m.num (a + 64 + 16 * i + 10) 6 != 0)
    || ((List.range (field h 52 4)).any fun i => field (m.num (moves + 16 * i) 8) 35 29 != 0)
    || (List.range streams).any fun i => (m.bytes (stop + 0x540 * i + 16) 48).any fun b => b != 0

/-- The streams that a saved section holds, by its size: what follows the section's fixed parts within the save. -/
def streamsWithin (stop fixed : Nat) : Nat := (stop - fixed) / 0x540

/-- The live registers' bytes of thread entries of a continuation from `a`, `n` of them: where they end, and whether one has a reserved
bit set (R345). -/
def entriesReserved (m : Memory) (kern : Kern) : Nat → Nat → Bool × Nat
  | 0, a => (false, a)
  | n + 1, a =>
    let w := m.num a 8
    let live := if field w 57 1 = 1 then 0 else (kern.liveAt (field w 0 32)).length
    let (bad, stop) := entriesReserved m kern n (a + roundUp (16 + 4 * live) 16)
    (field w 58 6 != 0 || field (m.num (a + 8) 8) 8 56 != 0 || bad, stop)

/-- Whether a reserved field behind the header of a saved part at `a` is set (R306, R307, R345). -/
def bodyReserved (m : Memory) (grid : Grid) (cont : Bool) (part : SavedPart) (a : Nat) : Bool :=
  if cont then
    let (bad, b) := entriesReserved m grid.kern (m.num (a + 0x0C) 2) (a + 0x600)
    bad || sectionReserved m grid b 0 || (field (m.num b 8) 49 1 == 1 && sectionReserved m grid (sectionEnd m grid b) 0)
  else
    let w := m.num (a + 0x0C) 1
    let stop := (readGroup m a part 0).2
    queuesReserved m w (a + part.size) 8 (a + 0x800 + popcount (BitVec.ofNat 64 (m.num (a + 0x38) 8)) * 4 * w)
      || (m.num (a + 0x0E) 1 / 4 % 2 == 1
        && sectionReserved m grid stop (streamsWithin (a + part.size) (sectionEnd m grid stop)))

/-- The saved part that the context at `a` is, with its save, when it passes every check of R307. One that was loaded already loads
again. [DESIGN CHOICE, log 16] -/
def State.savedAt (s : State) (d : Fin 4) (a : Nat) : Option (Saved × SavedPart) :=
  let m := s.mem
  let magic := m.num a 4
  let size := m.num (a + 8) 4
  let cont := magic == 0x434E5443
  if (magic != 0x43585447 && !cont) || m.num (a + 4) 2 != 1 || (if cont then contReserved m a else groupReserved m a)
      || size == 0 then none
  else
    let check : DWord := BitVec.ofNat 64 (m.num (a + 0xF8) 8)
    let bs := patch (m.bytes a size) 0xF8 (zeros 8)
    if contextCheck s.pkg.boots bs ≠ check ∨ (s.spaceRoot d (BitVec.ofNat 32 (m.num (a + 0x10) 4))).isNone then none
    else ((s.saved ++ s.past).findSome? fun x =>
      (x.halves.flatMap SavedHalf.parts).findSome? fun p => if p.check = check then some (x, p) else none).filter fun y =>
        (s.grid y.1.grid).all fun g => !bodyReserved m g cont y.2 a

/-! ### The team section read back -/

/-- A barrier read back at `a`, its thread states at `b`. -/
def readBarrier (m : Memory) (a b n : Nat) : Barrier :=
  let states := m.num b ((n + 3) / 4)
  let bits (code : Nat) : BitVec 4096 :=
    BitVec.ofNat 4096 ((List.range n).foldl (fun x t => if field states (2 * t) 2 = code then x + 2 ^ t else x) 0)
  ⟨BitVec.ofNat 32 (m.num a 4), BitVec.ofNat 13 (m.num (a + 4) 2), BitVec.ofNat 13 (m.num (a + 6) 2),
    BitVec.ofNat 13 (m.num (a + 8) 2), bits 1, bits 2⟩

/-- Bytes of a save put into granules, in their order. -/
def State.fillGranules (s : State) (c : Fin 128) (a : Nat) : List (Fin 96) → State
  | [] => s
  | g :: gs =>
    let bs := s.mem.bytes a 65536
    let s := s.modCore c fun k => { k with pool := (k.pool.clear (g.val * 65536) 65536).store (g.val * 65536) bs }
    ((s.unmark 0 c (g.val * 65536) 65536).inject (dieOf c) 0 c (g.val * 65536) 65536).fillGranules c (a + 65536) gs

/-- Configured tiles read back from `a`, and where they end. -/
def State.fillTiles (s : State) (e : Eng) : Nat → List (Fin 16) → Nat × State
  | a, [] => (a, s)
  | a, i :: is =>
    let t := s.tile e i
    if t.configured then
      let bs := s.mem.bytes a t.size
      let s := s.modCore e.c fun k => { k with tiles := k.tiles.set i (Memory.store [] 0 bs) }
      ((s.unmark 2 e.c (i.val * 0x4000) 0x4000).inject (dieOf e.c) 2 e.c (i.val * 0x4000) 0x4000).fillTiles e (a + roundUp t.size 64) is
    else s.fillTiles e a is

/-- The matrix state of an owner read back from `a`, and where it ends. -/
def State.fillMatrix (s : State) (c : Fin 128) (t : Team) (grid : Grid) (a : Nat) : Nat × State :=
  let m := s.mem
  let s := s.modCore c fun k =>
    { k with
      tsh := Tab.ofFn fun i => BitVec.ofNat 32 (m.num (a + 4 * i.val) 4)
      mflags := BitVec.ofNat 6 (m.num (a + 64) 8)
      tiles := Tab.replicate 16 [] }
  let (b, s) := s.fillTiles ⟨c, t, grid, 0, fun _ => 0⟩ (a + 72) (List.finRange 16)
  let s := s.modCore c fun k => { k with scale := Memory.store [] 0 (m.bytes b 0x20000) }
  let s := (s.unmark 1 c 0 0x20000).inject (dieOf c) 1 c 0 0x20000
  (b + 0x20000 + t.accG.length * 65536, s.fillGranules c (b + 0x20000) t.accG)

/-- The state of a stream at a barrier, from its two bits. -/
def barStOf (n : Nat) : BarSt := if n = 0 then .notArrived else if n = 1 then .arrived else .dropped

/-- Streams read back from `a`, `n` of them, each waiting again at the barrier that the device remembers of it. [DESIGN CHOICE, log 16] -/
def State.fillStreams (s : State) (c : Fin 128) (slot : Fin 16) (a : Nat) : Nat → List (Option (Fin 16 × Nat)) → State
  | 0, _ => s
  | n + 1, ws =>
    let hold := (ws.head?).join
    let m := s.mem
    let (uid, s) := s.newId
    let count := m.num (a + 8) 4
    let pc : Word := BitVec.ofNat 32 (m.num a 4)
    let bars := m.num (a + 12) 4
    let base := newStream uid slot pc (Tab.ofFn fun i => BitVec.ofNat 64 (m.num (a + 0x140 + 8 * i.val) 8))
    let st := { base with
      loops := Tab.ofFn fun i => BitVec.ofNat 32 (m.num (a + 0x40 + 4 * i.val) 4)
      bars := Tab.ofFn fun i => barStOf (field bars (2 * i.val) 2)
      barWait := hold.map Prod.fst
      barSt := (hold.map Prod.snd).getD 0
      wait := if count = 0 then none else some ⟨pc, count, .token []⟩ }
    (s.setStream c (m.num (a + 4) 4 % 2 == 1) (some st)).fillStreams c slot (a + 0x540) n ws.tail

/-- Open transfers read back from `a`: the engine reads each descriptor again from the restored scratch. -/
def State.readBulks (s : State) (c : Fin 128) (slot : Fin 16) (t : Team) (grid : Grid) (a n : Nat) : List BulkOpen :=
  let k : Caller := ⟨c, 0, 0, 0, [], 0, slot, t, c, slot, grid, grid.space, 0, false, false⟩
  (List.range n).map fun i =>
    let w := s.mem.num (a + 16 * i) 8
    let desc := field w 0 32
    ⟨desc, (scopeOf (field w 32 3)).getD .team, (s.bulkAt k desc).1, BitVec.ofNat 64 (s.mem.num (a + 16 * i + 8) 8)⟩

/-- The team section at `a` restored to a half of a team, with `streams` running streams; where it ends. -/
def State.fillSection (s : State) (c : Fin 128) (slot : Fin 16) (grid : Grid) (a streams : Nat)
    (waits : List (Option (Fin 16 × Nat))) : Nat × State :=
  match s.team c slot with
  | none => (a, s)
  | some t =>
    let m := s.mem
    let h := m.num a 8
    let nthr := field h 0 16
    let nbar := field h 16 8
    let nopen := field h 52 4
    let per := (nthr + 3) / 4
    let bars := a + 64
    let states := bars + 16 * nbar
    let moves := states + roundUp (nbar * per) 64
    let scratch := moves + 16 * nopen
    let home := teamHome c slot t
    let s := if t.odd then s else s.modTeam home.1 home.2 fun x =>
      { x with
        bars := Tab.ofFn fun i => if i.val < nbar then readBarrier m (bars + 16 * i.val) (states + i.val * per) nthr else x.bars.get i
        flags := BitVec.ofNat 64 (m.num (a + 8) 8)
        kept := BitVec.ofNat 8 (m.num (a + 16) 8) }
    let s := s.fillGranules c scratch t.scrG
    let after := scratch + t.scrG.length * 65536
    let (b, s) := if field h 48 1 = 1 then s.fillMatrix c t grid after else (after, s)
    let s := s.fillStreams c slot b streams waits
    (b + streams * 0x540, s.modTeam c slot fun x => { x with bulks := s.readBulks c slot t grid moves nopen })

/-! ### The split under a smaller grant (R19) -/

/-- A queue entry's part for positions `i * w` up. -/
def QEntry.part_ (e : QEntry) (w i : Nat) : QEntry :=
  let pick (m : Lanes) : Lanes := Lanes.ofFn fun p => decide (p.val < w) && m.has (Fin.ofNat 64 (i * w + p.val))
  { e with
    lanes := pick e.lanes, filled := pick e.filled, pending := pick e.pending, deferred := pick e.deferred, ecc := pick e.ecc
    vals := Tab.ofFn fun p => if p.val < w then e.vals.get (Fin.ofNat 64 (i * w + p.val)) else 0 }

/-- Part `i` of a resumed group, with its share of the queues. -/
def Group.resumePart (g : Group) (w : Grant) (i : Nat) : Group :=
  { g.part_ w i with q := g.q.map fun es => es.map fun e => e.part_ w.lanes i }

/-- The groups that a context forms at a cap (R19): itself when it is no wider, and its parts with a live lane otherwise. -/
def Group.resliced (g : Group) (cap : Nat) : List Group :=
  if g.grant.lanes ≤ cap then [g]
  else
    let w := roundWidth cap
    ((List.range (g.grant.lanes / w.lanes)).map fun i => g.resumePart w i).filter fun x => x.inState .running != 0

/-- The seat of a group with registers mapped. -/
def Group.seat (g : Group) (grid : Grid) : Seat := ⟨g.block, g.grant.lanes, max (popcount g.mapped) grid.reservation⟩

/-- The age of a group formed at resumption: after the other groups of its admission, in the order of forming (R61). -/
def resumedAge (admitted uid : Nat) : Nat × Nat := (admitted, 2 ^ 20 + 4 * uid)

/-- Whether a name belongs to a resident group of a core. -/
def State.uidTaken (s : State) (c : Fin 128) (uid : Nat) : Bool := (s.findGroup c uid).isSome

/-- Resumed groups seated, the first under its old name when no resident group has it. -/
def State.seatResumed (s : State) (c : Fin 128) (slot : Fin 16) (admitted : Nat) (old : Option Nat) : List Group → State
  | [] => s
  | g :: gs =>
    let (fresh, s) := s.newId
    let uid := match old with
      | some u => if s.uidTaken c u then fresh else u
      | none => fresh
    (s.seatGroup c { g with uid := uid, team := slot, age := resumedAge admitted fresh }).seatResumed c slot admitted none gs

/-! ### Continuations read back (R346) -/

/-- A thread of a continuation, as its entry gives it. -/
structure ContThread where
  tid : Nat
  pc : Nat
  kbits : Nat
  gone : Bool
  depth : Byte
  regs : List (Fin 64 × Word)
  deriving DecidableEq, Repr

/-- The thread entries of a continuation from `a`, `n` of them, and where they end. -/
def readThreads (m : Memory) (kern : Kern) : Nat → Nat → List ContThread → List ContThread × Nat
  | 0, a, acc => (acc, a)
  | n + 1, a, acc =>
    let w := m.num a 8
    let gone := field w 57 1 == 1
    let pc := field w 0 32
    let live := if gone then [] else kern.liveAt pc
    let regs := (List.range live.length).map fun i => ((live[i]?).getD 0, (BitVec.ofNat 32 (m.num (a + 16 + 4 * i) 4) : Word))
    readThreads m kern n (a + roundUp (16 + 4 * live.length) 16)
      (acc ++ [⟨field w 32 12, pc, field w 50 7, gone, m.get (a + 8), regs⟩])

/-- A group formed from the threads of a continuation (R346). -/
def contGroup (m : Memory) (a : Nat) (ts : List ContThread) (w q first : Nat) : Group :=
  let at_ (p : Fin 64) : Option ContThread := if p.val < w then ts.find? fun t => t.tid == first + q * w + p.val else none
  let live := ts.filter fun t => !t.gone && decide (first + q * w ≤ t.tid) && decide (t.tid < first + q * w + w)
  let mapped : BitVec 64 := (List.finRange 64).foldl (fun m r =>
    if live.any fun t => t.regs.any fun x => x.1 == r then m ||| (1#64 <<< r.val) else m) 0
  { Group.fresh with
    grant := roundWidth w
    block := q % (64 / w)
    tid := Tab.ofFn fun p => (at_ p).elim 0 fun t => BitVec.ofNat 12 t.tid
    lst := Tab.ofFn fun p => (at_ p).elim .vacant fun t => if t.gone then .exited else .running
    lpc := Tab.ofFn fun p => (at_ p).elim 0 fun t => BitVec.ofNat 32 t.pc
    depth := Tab.ofFn fun p => (at_ p).elim 0 ContThread.depth
    k := Tab.ofFn fun i => Lanes.ofFn fun p => (at_ p).elim false fun t => field t.kbits i.val 1 == 1
    v := Tab.ofFn fun r => Tab.ofFn fun p => (at_ p).elim 0 fun t => ((t.regs.find? fun x => x.1 == r).map Prod.snd).getD 0
    mapped := mapped
    xflags := BitVec.ofNat 6 (m.num (a + 0x38) 8)
    loops := Tab.ofFn fun i => BitVec.ofNat 32 (m.num (a + 0x100 + 4 * i.val) 4)
    s := Tab.ofFn fun i => BitVec.ofNat 64 (m.num (a + 0x200 + 8 * i.val) 8) }

/-- The groups of one half of a resumed team at width `w`; those without a running lane are not formed. -/
def contGroups (m : Memory) (a : Nat) (grid : Grid) (ts : List ContThread) (w : Nat) (odd : Bool) : List Group :=
  ((List.range ((grid.half odd + w - 1) / w)).map fun q =>
    { contGroup m a ts w q (if odd then 2048 else 0) with priv := grid.priv }).filter fun g => g.inState .running != 0

/-! ### Resuming a saved team -/

/-- The groups that one core of a unit must take for a save, read from memory: those of its half's contexts at the
core's cap, or those of the continuation at its initial grant. -/
def State.resumeGroups (s : State) (c : Fin 128) (grid : Grid) (x : Saved) (odd : Bool) : List (Option Nat × List Group) :=
  let k := s.core c
  if x.continuation then
    match x.halves.head?.bind fun h => h.parts.head? with
    | none => []
    | some p =>
      let ts := (readThreads s.mem grid.kern (s.mem.num (p.addr + 0x0C) 2) (p.addr + 0x600) []).1
      [(none, contGroups s.mem p.addr grid ts ((k.initialGrant grid odd).getD 16) odd)]
  else
    let cap := if grid.paired then min 32 k.healthCap else k.healthCap
    match x.halves[if odd then 1 else 0]? with
    | none => []
    | some h => h.parts.map fun p => (some p.uid, ((readGroup s.mem p.addr p s.nextId).1).resliced cap)

/-- Whether a core has room for its half of a saved team. -/
def State.resumeRoom (s : State) (c : Fin 128) (grid : Grid) (x : Saved) (odd : Bool) : Bool :=
  (!x.continuation || ((s.core c).initialGrant grid odd).isSome)
    && s.hasRoom c grid ((s.resumeGroups c grid x odd).flatMap fun e => e.2.map fun g => g.seat grid)

/-- Whether the tagging releases that saved threads met have performed at device scope, as their resumption acquires (R103). -/
def State.metClear (s : State) (tags : List (Fin 128 × Nat)) : Bool := tags.all fun t => !s.tagWaits ⟨0, t.1, t.2⟩ .dev

/-- Whether a unit can take a saved team, and what its threads acquire has performed (R103). -/
def State.canResume (s : State) (c : Fin 128) (grid : Grid) (x : Saved) : Bool :=
  s.metClear (x.halves.flatMap fun h => h.parts.flatMap SavedPart.metTags)
    && s.resumeRoom c grid x false && (!grid.paired || s.resumeRoom (partner c) grid x true)

/-- One part of a saved half seated: names for its queue entries, then its groups. -/
def State.seatPart (s : State) (c : Fin 128) (slot : Fin 16) (admitted : Nat) (e : Option Nat × List Group) : State :=
  let n := (e.2.map fun g => (g.q.val.map List.length).sum).sum
  let s : State := { s with nextId := s.nextId + n }
  s.seatResumed c slot admitted e.1 e.2

/-- The end of a section's parts that stand before its streams. -/
def State.sectionFixed (s : State) (c : Fin 128) (slot : Fin 16) (grid : Grid) (a : Nat) : Nat := (s.fillSection c slot grid a 0 []).1

/-- The team section of one half of a save of contexts restored: it follows the half's last context, or stands alone. -/
def State.fillHalf (s : State) (c : Fin 128) (slot : Fin 16) (grid : Grid) (h : SavedHalf) : State :=
  let (start, stop) := match h.parts.getLast? with
    | some p => ((readGroup s.mem p.addr p 0).2, p.addr + p.size)
    | none => (h.base, h.base + h.size)
  (s.fillSection c slot grid start (streamsWithin stop (s.sectionFixed c slot grid start)) h.waits).2

/-- A save that has been loaded leaves the device's list, and its space in the save area is freed; its bytes still stand there. One that had
left it already changes nothing. -/
def State.retireSave (s : State) (x : Saved) : State :=
  if s.saved.any fun y => y.id == x.id then
    let s := x.halves.foldl (fun s h => if x.software then s else s.freeSpan h.core h.base) s
    { s with saved := s.saved.filter (fun y => y.id != x.id), past := s.past ++ [x] }
  else s

/-- A saved team resumed on a unit (R346, R347): its halves seated, its groups formed, and its team section restored. Its
space in the save area is freed. -/
def State.resumeTeam (s : State) (c : Fin 128) (grid : Grid) (x : Saved) : State :=
  let e0 := s.resumeGroups c grid x false
  let e1 := if grid.paired then s.resumeGroups (partner c) grid x true else []
  let (slot, mate, s) := s.seatTeam c grid x.team x.admitted
  let s := e0.foldl (fun s e => s.seatPart c slot x.admitted e) s
  let s := e1.foldl (fun s e => s.seatPart (partner c) mate x.admitted e) s
  let s := if x.continuation then
      match x.halves.head?.bind fun h => h.parts.head? with
      | none => s
      | some p =>
        let (_, a) := readThreads s.mem grid.kern (s.mem.num (p.addr + 0x0C) 2) (p.addr + 0x600) []
        let (b, s) := s.fillSection c slot grid a 0 []
        if grid.paired then (s.fillSection (partner c) mate grid b 0 []).2 else s
    else
      let s := (x.halves.head?).elim s fun h => s.fillHalf c slot grid h
      if grid.paired then (x.halves[1]?).elim s fun h => s.fillHalf (partner c) mate grid h else s
  s.retireSave x

end Sys2Proof.Machine
end

