-- ==== Sys2Proof/Machine/Retire.lean ====
section
/-! DEFINITION. The end of work that is taken from the machine: teams ended at once (R329), and the retirement of an address
space (R314, R350). -/
namespace Sys2Proof.Machine

/-! ### Teams ended -/

/-- What becomes of the requests of groups that are gone: a store or atomic already on its way still performs; a read, and
an access that has no translation, ends. -/
def orphaned (gone : Req → Bool) (r : Req) : Option Req :=
  if gone r then
    match r.phase with
    | .sent | .away => if r.kind == .store || r.kind == .atomic then some { r with entry := none } else none
    | _ => none
  else some r

/-- The groups on every core that satisfy a test, with their places. -/
def State.groupsWhere (s : State) (f : Fin 128 → Group → Bool) : List (Fin 128 × Fin 128 × Group) :=
  allCores.flatMap fun c => (List.finRange 128).filterMap fun i => match s.group c i with
    | some g => if f c g then some (c, i, g) else none
    | none => none

/-- The teams on every core that satisfy a test, with their places; a pair's halves both appear. -/
def State.teamsWhere (s : State) (f : Fin 128 → Team → Bool) : List (Fin 128 × Fin 16 × Team) :=
  allCores.flatMap fun c => (List.finRange 16).filterMap fun i => match s.team c i with
    | some t => if f c t then some (c, i, t) else none
    | none => none

/-- The matrix engine of a core free when its holder is no longer there. -/
def State.freeEngine (s : State) (c : Fin 128) : State :=
  match (s.core c).engine with
  | some (.group _ i, _) => if (s.group c i).isNone then s.modCore c fun k => { k with engine := none } else s
  | some (.stream _ copy, _) => if ((s.core c).stream copy).isNone then s.modCore c fun k => { k with engine := none } else s
  | none => s

/-- Every team that satisfies a test gone from the machine, with all that its groups and streams had under way. -/
def State.dropTeamsIf (s : State) (f : Team → Bool) : State :=
  let teams := s.teamsWhere fun _ t => f t
  let groups := s.groupsWhere fun c g => (s.team c g.team).elim false f
  let streams := teams.flatMap fun (c, i, _) => [false, true].filterMap fun copy => match (s.core c).stream copy with
    | some st => if st.team = i then some (c, st.uid) else none
    | none => none
  let names := groups.map (fun x => (x.1, x.2.2.uid)) ++ streams
  let gone (c : Fin 128) (uid : Nat) : Bool := names.contains (c, uid)
  let s := groups.foldl (fun s x => (s.endServed x.1 x.2.2).removeGroup x.1 x.2.1 x.2.2) s
  let s := teams.foldl (fun s x => ((s.removeStreams x.1 x.2.1).dropStop x.1 x.2.1).setTeam x.1 x.2.1 none) s
  let s := { s with
    reqs := s.reqs.filterMap (orphaned fun r => gone r.core r.uid)
    tokens := s.tokens.filter fun t => !gone t.core t.uid
    copies := s.copies.filter fun k => !(teams.any fun x => x.1 == k.core && x.2.1 == k.slot) }
  let cores := (teams.map Prod.fst).eraseDups
  let clean (k : Core) (c : Fin 128) : Core :=
    { k with
      replay := k.replay.filter fun r => !gone c r.uid
      recs := k.recs.filter fun r => !gone c r.uid || r.waiters.any fun w => !gone c w.1 }
  cores.foldl (fun s c => (s.modCore c fun k => clean k c).freeEngine c) s

/-- Every team of some grids gone from the machine, and what they claimed. -/
def State.dropTeams (s : State) (ids : List Nat) : State :=
  State.acceptsDone { s.dropTeamsIf fun t => ids.contains t.grid with claims := s.claims.filter fun k => !ids.contains k.grid }

/-- The saves of some grids discarded, their space freed. -/
def State.dropSaves (s : State) (ids : List Nat) : State :=
  let old := s.saved.filter fun x => ids.contains x.grid
  let s := old.foldl (fun s x => x.halves.foldl (fun s h => if x.software then s else s.freeSpan h.core h.base) s) s
  { s with saved := s.saved.filter (fun x => !ids.contains x.grid), past := s.past ++ old }

/-- A grid ended by the device (R329): its teams end at once and its LAUNCH completes with a code. -/
def State.endGrid (s : State) (id : Nat) (code : Byte) (kind : Nat) : State :=
  ((s.dropTeams [id]).dropSaves [id]).finishGrid id code kind

/-! ### Retirement -/

/-- RET set in the entry of a space on one die. [DEDUCED, log 78] -/
def State.setRet (s : State) (n : Word) (d : Fin 4) : State :=
  match s.spaceEntry d n with
  | none => s
  | some a => { s with mem := s.mem.set a (s.mem.get a ||| 2) }

/-- The dies of a partition. [DESIGN CHOICE, log 7] -/
def State.diesOf (s : State) (part : Fin 4) : List (Fin 4) := allDies.filter fun d => (s.die d).part == part

/-- Whether a core's die lies in a partition. [DESIGN CHOICE, log 7] -/
def State.inPart (s : State) (part : Fin 4) (c : Fin 128) : Bool := (s.die (dieOf c)).part == part

/-- The grids of a space of a partition. -/
def State.gridsOf (s : State) (part : Fin 4) (n : Word) : List Nat :=
  (s.grids.filter fun g => g.space == n && (s.die g.die).part == part).map Grid.id

/-- RET kept at 1 in the entries of the spaces that are being retired, whatever is written there (R314). [DEDUCED, log 78] -/
def State.keepRets (s : State) : State :=
  s.retiring.foldl (fun s r => (s.diesOf r.part).foldl (fun s d => s.setRet r.space d) s) s

/-- The DETAILs of a SPACE fault (R303). -/
def spaceDetail (n : Word) : DWord × DWord := (n.setWidth 64, 0)

/-- A group of which a park ended (R302, R314): handler lanes that exited leave the bank. A group of the retired space leaves with its
team; another settles. [DEDUCED, log 45] -/
def State.parkEnded (s : State) (c i : Fin 128) (n : Word) : State :=
  match (s.group c i).bind (s.gridOf c) with
  | some g => if g.space = n then s.dropHandler c i else s.settle c i
  | none => s.dropHandler c i

/-- The records of a retired space that a core holds, those that wait for room in its queue among them. -/
def Core.recsOf (k : Core) (n : Word) : List FaultRec := k.allRecs.filter fun r => r.page.space == n

/-- The records of a retired space on a core end (R314): of the lanes parked on each there is a record of kind 9, and they exit; a copy
stopped on one goes on with the code SPACE. One that waits for room in the queue still enters it. [DEDUCED, log 45] -/
def State.endParks (s : State) (c : Fin 128) (n : Word) : State :=
  let hit := (s.core c).recsOf n
  let s := s.modCore c fun k =>
    { k with
      recs := k.recs.filter fun r => r.page.space != n
      recPend := k.recPend.map fun e => (e.1, e.2.filter fun r => r.page.space != n) }
  let s : State := { s with copies := s.copies.map fun k => if k.core = c then hit.foldl (fun k r => k.resolved r.id 0x10) k else k }
  hit.foldl (fun s r => r.waiters.foldl (fun s w =>
    if w.2 == (0 : Lanes) then s
    else match s.findGroup c w.1 with
      | none => s
      | some i =>
        match s.group c i with
        | none => s
        | some g =>
          let p := w.2.first
          let a := r.accessOf w.1 p
          let ws := recordWords 0x10 9 a.2 true false 0 0 (g.lpc.get p) a.1
            w.2 (g.tid.get p).toNat (g.home p) i.val c.val 0 (s.gridSpace c w.1 r.page.space) (r.page.space.setWidth 64) 0
          ((s.pushRecord c ws none).modGroup c i fun x => x.exitLanes (w.2 &&& x.inState .parked)).parkEnded c i n) s) s

/-- The accesses of a retired space that a core holds end in a SPACE fault (R314): those at a frozen entry or on a record, and the stores
in its replay queue. A thread is delivered for one of them, and one whose park ends is not. [DEDUCED, log 45] -/
def State.endHeld (s : State) (c : Fin 128) (n : Word) : State :=
  let mine := s.reqs.filter fun r => r.core == c && r.space == n && (match r.phase with
    | .frozen | .faulted _ => true
    | _ => false)
  let s := (mine.filter fun r => r.tids.isEmpty).foldl (fun s r => s.refuseAccess r [r] 0x10 (spaceDetail n)) s
  let told := ((s.core c).recsOf n).flatMap (s.parkedThreads c)
  let s := s.refuseHeld c (mine.filter fun r => !r.tids.isEmpty) 0x10 (spaceDetail n) told
  let told := told ++ mine.flatMap fun r => r.tids.map fun l => (r.team, l)
  let old := (s.core c).replay.filter fun r => r.page.space == n
  let s := s.modCore c fun k => { k with replay := k.replay.filter fun r => r.page.space != n }
  (old.foldl (fun a r => (a.1 ++ r.threads.map fun l => (r.team, l.1), a.2.refuseReplay c r 0x10 (spaceDetail n) a.1)) (told, s)).2

/-- A QUOTED quotation of a space of a partition becomes VOID (R326). -/
def State.voidQuotes (s : State) (f : Quote → Bool) : State :=
  { s with quotes := s.quotes.map fun q => if q.state = .quoted ∧ f q then { q with state := .void } else q }

/-- A graph of a space that is being retired (R292): its control block reads SPACE, and a rebind or an unbind that waits
completes with SPACE. [DEDUCED, log 78] -/
def State.retireGraph (s : State) (g : Graph) : State :=
  let s := s.frontForce g.die g.space (g.ctl + 0x20) (leBytes 8 0x10)
  let s := match g.swap with
    | some x => s.forceAt x.2 (statusWord 0x10 0 0 0)
    | none => s
  let s := match g.unbind with
    | some a => s.forceAt a (statusWord 0x10 0 0 0)
    | none => s
  s.modGraph g.id fun x => { x with swap := none, unbind := none }

/-- The counters of the XLINVs in flight that were issued in a space translated, as its retirement begins (R314). -/
def State.settleXlinvs (s : State) (part : Fin 4) (n : Word) : State :=
  (s.xlinvs.filter fun v => v.space == n && s.inPart part v.core && v.pa.isNone).foldl (fun s v =>
    match s.translate v.core v.space v.counter .store .host with
    | (.ok pa _, s) => { s with xlinvs := s.xlinvs.map fun y => if y.id = v.id then { y with pa := some pa } else y }
    | (_, s) => s) s

/-- SPRETIRE's effect (R314, R350): RET set on every die of the partition, parked lanes and held accesses ended, waiting work
and saves discarded, and each grid of the space reported ended. A further write adds one to what completion will count. -/
def State.startRetire (s : State) (d : Fin 4) (n : Word) : State :=
  let part := (s.die d).part
  if s.isRetiring part n then
    { s with retiring := s.retiring.map fun r => if r.space = n ∧ r.part = part then { r with writes := r.writes ++ [d] } else r }
  else
    let ids := s.gridsOf part n
    let s := (s.graphs.filter fun g => g.space == n && (s.die g.die).part == part).foldl State.retireGraph s
    let s := ids.foldl (fun s id => match s.grid id with
      | some g => match g.stat with
        | some a => (s.forceAt a (statusWord 0x10 0 0 0)).modGrid id fun x => { x with stat := none, placed := x.teams }
        | none => s.modGrid id fun x => { x with placed := x.teams }
      | none => s) s
    let s := (s.dropSaves ids).settleXlinvs part n
    let s : State := { s with
      retiring := s.retiring ++ [⟨n, part, [d]⟩]
      claims := s.claims.filter fun k => !ids.contains k.grid }
    let s := (s.diesOf part).foldl (fun s x => s.setRet n x) s
    let s := (allCores.filter (s.inPart part)).foldl (fun s c => (s.endHeld c n).endParks c n) s
    s.voidQuotes fun q => q.space == n && (s.die q.die).part == part

/-- SPRETIRE: a write starts the retirement of a space (R314). -/
def execSpretire (die : Fin 4) (space : Word) (s : State) : Host.Outcome State Fault Refusal := .next (s.startRetire die space)

/-- Whether an access translated in a space has still to perform (R314), the adds of XLINVs in flight among them. -/
def State.spaceBusy (s : State) (part : Fin 4) (n : Word) : Bool :=
  (s.reqs.any fun r => r.space == n && s.inPart part r.core && r.open_)
    || (s.copies.any fun k => k.space == n && s.inPart part k.core && k.phase != .done)
    || s.xlinvs.any fun v => v.space == n && s.inPart part v.core && v.pa.isSome

/-- RETIREMENT_COMPLETE: every access translated in the space has performed (R314, R350): the space's teams leave, its
grids end, its graphs and running quotations settle, and the counter at RETCNT takes one for each write. -/
def execRetirementComplete (die : Fin 4) (space : Word) (s : State) : Host.Outcome State Fault Refusal :=
  let part := (s.die die).part
  .next (match s.retiring.find? fun r => r.space == space && r.part == part with
  | none => s
  | some r =>
    if s.spaceBusy part space then s
    else
      let ids := s.gridsOf part space
      let graphs := s.graphs.filter fun g => g.space == space && (s.die g.die).part == part
      let s := s.dropTeams ids
      let s := ids.foldl (fun s id => s.finishGrid id 0x10 0) s
      let s := graphs.foldl (fun s g => g.plan.qid.elim s fun q => s.settleQuote q 0) s
      let s : State := { s with
        graphs := s.graphs.filter fun g => !(g.space == space && (s.die g.die).part == part)
        reqs := s.reqs.filter fun q => !(q.space == space && s.inPart part q.core)
        retiring := s.retiring.filter fun q => !(q.space == space && q.part == part) }
      let s := (s.diesOf part).foldl (fun s x =>
        (s.setRet space x).modDie x fun y => { y with xlreqs := y.xlreqs.filter fun q => q.space != space }) s
      r.writes.foldl (fun s d => (s.counterAdd (frontCore d) .sys 0 ((s.die d).retcnt.toNat / 8 * 8) 1 none).2) s)

end Sys2Proof.Machine
end

