-- ==== Sys2Proof/Machine/Place.lean ====
section
/-! DEFINITION. The work distributor (R337 to R343), the stop and save of a team (R343 to R349), and the forward-progress
swap (R341). -/
namespace Sys2Proof.Machine

/-! ### Asking a team to stop -/

/-- A group asked to stop with its team: at a safe point, or at an instruction boundary. -/
def Group.askStop (g : Group) (safe : Bool) : Group :=
  { g with stop := match g.stop with
    | .none => if safe then .atSafePoint else .requested false
    | .atSafePoint => if safe then .atSafePoint else .requested false
    | x => x }

/-- A half of a team asked to stop; a second request joins the first, and an instruction boundary prevails (R343). -/
def State.askHalf (s : State) (c : Fin 128) (slot : Fin 16) (safe : Bool) (span : Option (Nat × Nat)) (suspend : Bool) : State :=
  match s.team c slot with
  | none => s
  | some t =>
    let stop : TeamStop := match t.stop with
      | some x => { x with safePoint := x.safePoint && safe, span := if x.span.isSome then x.span else span, suspend := x.suspend && suspend }
      | none => ⟨safe, 0, span, suspend⟩
    let s := s.setTeam c slot (some { t with stop := some stop })
    let s := (s.teamGroups c slot).foldl (fun s x => s.setGroup c x.1 (some (x.2.askStop stop.safePoint))) s
    if stop.safePoint then s
    else [false, true].foldl (fun s copy => match (s.core c).stream copy with
      | some st => if st.team = slot then s.setStream c copy (some { st with stopped := true }) else s
      | none => s) s

/-- The halves of a team, the even core's first. -/
def Team.halves (t : Team) (c : Fin 128) (slot : Fin 16) : List (Fin 128 × Fin 16) :=
  if t.paired then (if t.odd then [(partner c, t.mate), (c, slot)] else [(c, slot), (partner c, t.mate)]) else [(c, slot)]

/-- The span that a half's save would need now: where it would start, and its length; none when the area has no room
(R349). -/
def State.spanFor (s : State) (c : Fin 128) (slot : Fin 16) (safe : Bool) : Option (Nat × Nat) :=
  match s.team c slot with
  | none => none
  | some t =>
    match s.grid t.grid with
    | none => none
    | some grid =>
      let n := s.saveBound c slot t grid safe
      ((s.core c).findSpan n).map fun a => (a, n)

/-- A team asked to stop for a save (R342 to R349): its span is set aside first; with no room the team is not stopped. A team
already being stopped keeps the span it has. -/
def State.askTeam (s : State) (c : Fin 128) (slot : Fin 16) (t : Team) (safe : Bool) : Option State :=
  let halves := t.halves c slot
  let need := halves.filter fun h => ((s.team h.1 h.2).bind fun x => x.stop.bind TeamStop.span).isNone
  let spans := need.map fun h => (h, s.spanFor h.1 h.2 safe)
  if spans.any fun x => x.2.isNone then none
  else
    let s := spans.foldl (fun s x => match x.2 with
      | some (a, n) => s.takeSpan x.1.1 a n t.grid
      | none => s) s
    some (halves.foldl (fun s h => s.askHalf h.1 h.2 safe (((spans.find? fun x => x.1 == h).map Prod.snd).join) false) s)

/-- Whether the groups of a half have all stopped and no stream of it runs (R344). -/
def State.halfHalted (s : State) (c : Fin 128) (slot : Fin 16) : Bool :=
  (s.teamGroups c slot).all (fun x => x.2.halted || x.2.stop == .doubleFault)
    && [false, true].all fun copy => match (s.core c).stream copy with
      | some st => st.team != slot
      | none => true

/-- Whether the window of a stop at safe points has passed, FPWIN.N core cycles or 65,536 when that is 0, and the team has not stopped
(R344). -/
def State.stopOverdue (s : State) (c : Fin 128) (slot : Fin 16) (t : Team) : Bool :=
  let n := (s.core c).fpwin.toNat
  (t.stop.any fun x => x.safePoint && decide (((if n = 0 then 65536 else n : Nat) : Int) ≤ x.elapsed))
    && !(t.halves c slot).all fun h => s.halfHalted h.1 h.2

/-- SAFE_POINT_TIMEOUT: a stop at safe points not reached within its window is made at an instruction boundary instead (R344). -/
def execSafePointTimeout (core : Fin 128) (slot : Fin 16) (s : State) : Host.Outcome State Fault Refusal :=
  .next (match s.team core slot with
  | none => s
  | some t =>
    match t.stop with
    | none => s
    | some x =>
      if s.awake core && s.stopOverdue core slot t then
        (t.halves core slot).foldl (fun s h => s.askHalf h.1 h.2 false none x.suspend) s
      else s)

/-! ### The save of a stopped team -/

/-- Whether a half's groups have all stopped, its streams are as its stop asks, and nothing of its threads is under way
(R306, R344, R347). -/
def State.halfStopped (s : State) (c : Fin 128) (slot : Fin 16) (safe : Bool) : Bool :=
  (s.teamGroups c slot).all (fun x => (x.2.halted || x.2.stop == .doubleFault) && !s.saveWaits c x.2)
    && [false, true].all (fun copy => match (s.core c).stream copy with
      | some st => st.team != slot || (!safe && st.stopped && !st.engHeld && st.tok == 0 && !(s.reqs.any fun r => r.core == c && r.uid == st.uid && !r.spent)
          && !((s.core c).replay.any fun r => r.uid == st.uid))
      | none => true)
    && !(s.copies.any fun k => k.core == c && k.slot == slot && k.phase != .done)

/-- Whether a team has stopped as asked. -/
def State.teamStopped (s : State) (c : Fin 128) (slot : Fin 16) (t : Team) (safe : Bool) : Bool :=
  !t.exited && (t.halves c slot).all fun h => s.halfStopped h.1 h.2 safe

/-- The contexts of a half written from an address up, the team section after the last (R306, R347). -/
def State.saveGroups (s : State) (c : Fin 128) (slot : Fin 16) (t : Team) (grid : Grid) : Nat → List (Fin 128 × Group) →
    List SavedPart × State
  | _, [] => ([], s)
  | a, (gid, _) :: rest =>
    let s := s.endPending c gid
    match s.group c gid with
    | none => s.saveGroups c slot t grid a rest
    | some g =>
      let (bs, part) := s.groupContext c gid g t grid rest.isEmpty a
      let (parts, s) := ((s.pstore a bs).removeGroup c gid g).saveGroups c slot t grid (a + bs.length) rest
      (part :: parts, s)

/-- A half saved at an instruction boundary into its span. A half with no group left has its team section alone. [DEDUCED, log 46] -/
def State.saveHalf (s : State) (c : Fin 128) (slot : Fin 16) (t : Team) (grid : Grid) (a : Nat) : SavedHalf × State :=
  let gs := s.teamGroups c slot
  if gs.isEmpty then
    let bs := padTo 256 (s.teamSection c slot t grid true)
    (⟨c, a, bs.length, [], s.streamHolds c slot t.odd⟩, s.pstore a bs)
  else
    let waits := s.streamHolds c slot t.odd
    let (parts, s) := s.saveGroups c slot t grid a gs
    (⟨c, a, (parts.map SavedPart.size).sum, parts, waits⟩, s)

/-- A team saved as one continuation into its even core's span (R345). -/
def State.saveCont (s : State) (c : Fin 128) (slot : Fin 16) (t : Team) (grid : Grid) (a : Nat) : List SavedHalf × State :=
  let halves := t.halves c slot
  let gs := halves.flatMap fun h => (s.teamGroups h.1 h.2).map Prod.snd
  let sections := halves.flatMap fun h => (s.team h.1 h.2).elim [] fun x => s.teamSection h.1 h.2 x grid false
  let (bs, check) := sealContext s.pkg.boots (contBytes gs t.nthr grid.kern (contextId t grid) ++ sections)
  let s := halves.foldl (fun s h => (s.teamGroups h.1 h.2).foldl (fun s x => s.removeGroup h.1 x.1 x.2) s) (s.pstore a bs)
  let first := (halves.head?.map Prod.fst).getD c
  (⟨first, a, bs.length, [⟨0, a, bs.length, check, Tab.replicate 64 0, [], gs.flatMap Group.metTags⟩], []⟩
    :: (halves.drop 1).map (fun h => ⟨h.1, 0, 0, [], []⟩), s)

/-- A stopped team saved into the spans set aside for it, and gone from its unit; `hot` names the die of an emergency save.
What the save left unused of a span stays with it until the team resumes. -/
def State.saveTeam (s : State) (c : Fin 128) (slot : Fin 16) (t : Team) (grid : Grid) (hot : Option (Fin 4)) : State :=
  let halves := t.halves c slot
  let safe := (t.stop.elim false TeamStop.safePoint) && grid.qid.isNone
    && halves.all fun h => (s.teamGroups h.1 h.2).all fun x => x.2.stop == .stopped false true
  let spanOf (s : State) (h : Fin 128 × Fin 16) : Nat := ((s.team h.1 h.2).bind fun x => x.stop.bind TeamStop.span).elim 0 Prod.fst
  let starts := halves.map fun h => (h, spanOf s h)
  let (saved, s) := if safe then
      s.saveCont c slot t grid ((starts.head?.map Prod.snd).getD 0)
    else starts.foldl (fun (acc : List SavedHalf × State) x =>
      match acc.2.team x.1.1 x.1.2 with
      | none => acc
      | some y =>
        let (h, s) := acc.2.saveHalf x.1.1 x.1.2 y grid x.2
        (acc.1 ++ [h], s)) ([], s)
  let (id, s) := s.newId
  let whole := saved.map fun h => { h with base := ((starts.find? fun x => x.1.1 == h.core).map Prod.snd).getD h.base }
  let s : State := { s with saved := s.saved ++ [⟨id, grid.id, t.index, t.admitted, safe, false, whole, hot, hot.isNone⟩] }
  halves.head?.elim s fun h => match s.team h.1 h.2 with
    | some y => (s.removeTeam h.1 h.2 y).acceptsDone
    | none => s

/-- TEAM_SAVE: a team that has stopped is written into the save area (R345, R347). Teams stopped for a suspend are not
written (R374). -/
def execTeamSave (core : Fin 128) (slot : Fin 16) (s : State) : Host.Outcome State Fault Refusal :=
  .next (match s.team core slot with
  | none => s
  | some t =>
    match t.stop, s.grid t.grid with
    | some x, some grid =>
      if x.suspend || s.pkg.suspPhase != 0 || t.odd || x.span.isNone || s.isRetiring (s.die grid.die).part grid.space || (s.die (dieOf core)).esave || !s.teamStopped core slot t x.safePoint then s
      else s.saveTeam core slot t grid none
    | _, _ => s)

/-! ### Who waits -/

/-- A team that waits for a unit (R338): a save, or a new team of a grid. -/
structure Waiting where
  grid : Grid
  team : Nat
  save : Option Saved
  deriving DecidableEq, Repr

/-- The unit that acceptance fixed for a bound grid's team, with its W: team j is on unit j mod C (R321, R328). [DEDUCED, log 76] -/
def Grid.boundUnit (g : Grid) (team : Nat) : Option (Fin 128 × Nat) := g.units[team % max 1 g.units.length]?

/-- The wave of a bound grid's team on its unit (R322). -/
def Grid.wave (g : Grid) (team : Nat) : Nat :=
  team / max 1 g.units.length / max 1 ((g.boundUnit team).elim 1 Prod.snd)

/-- Whether a bound team may be placed now (R322, R328): the swap-out of its acceptance is done, and every team of an earlier
wave of its unit has exited. -/
def State.waveOpen (s : State) (g : Grid) (team : Nat) : Bool :=
  match g.boundUnit team with
  | none => false
  | some (c, _) =>
    (s.quotes.all fun q => some q.qid != g.qid || q.pend.isNone)
      && (s.core c).teamList.all fun t => !s.isOpen t && (t.grid != g.id || g.wave t.index == g.wave team)

/-- The new teams of a grid that wait, in ascending index: the next one of open work, and of bound work the next one for each
unit. -/
def Grid.newWaiting (g : Grid) : List Waiting :=
  match g.qid with
  | none => if g.placed < g.teams then [⟨g, g.placed, none⟩] else []
  | some _ =>
    let n := max 1 g.units.length
    (List.range (min n g.teams)).filterMap fun u =>
      let done := (g.admits.filter fun a => a.1 % n == u).length
      if u + done * n < g.teams && decide (g.finished < g.teams) then some ⟨g, u + done * n, none⟩ else none

/-- Whether a grid's space is being retired. -/
def State.gridRetiring (s : State) (g : Grid) : Bool := s.isRetiring (s.die g.die).part g.space

/-- The teams that wait, in the order of R338: by PRIO, saved before new, oldest save first, then by the order in which their
commands were taken and by team index. -/
def State.waiting (s : State) : List Waiting :=
  let saved := s.saved.filterMap fun x =>
    if x.software || !x.committed then none
    else match s.grid x.grid with
      | some g => if s.gridRetiring g then none else some (Waiting.mk g x.team (some x))
      | none => none
  let news := (sortBy Grid.taken (s.grids.filter fun g => !s.gridRetiring g)).flatMap Grid.newWaiting
  sortBy (fun w : Waiting => w.grid.prio) (saved ++ news)

/-- Whether a die may take a team: the package runs, the die has no emergency, and a team that an emergency save took waits
until its die is below 100 °C (R380). A save waits until its space is valid there, as CTXLD would (R307). -/
def State.dieTakes (s : State) (w : Waiting) (c : Fin 128) : Bool :=
  let cool := match w.save.bind Saved.hot with
    | some d => decide ((s.die d).tmax.toNat < 100)
    | none => true
  cool && s.pkg.mbstate == .running && s.pkg.suspPhase == 0 && !(s.die (dieOf c)).esave
    && (w.save.isNone || (s.spaceRoot (dieOf c) w.grid.space).isSome)

/-- Whether a unit has room for a waiting team. -/
def State.roomFor (s : State) (w : Waiting) (c : Fin 128) : Bool :=
  match w.save with
  | some x => s.canResume c w.grid x
  | none => s.canAdmit c w.grid

/-- Whether a unit is claimed for another waiting team (R342). -/
def State.claimed (s : State) (w : Waiting) (c : Fin 128) : Bool :=
  let cores (k : Claim) : List (Fin 128) := if (s.grid k.grid).any Grid.paired then [k.core, partner k.core] else [k.core]
  s.claims.any fun k => (cores k).any (fun x => x == c || (w.grid.paired && x == partner c)) && !(k.grid == w.grid.id && k.team == w.team)

/-- Whether a unit is eligible for a waiting team (R337): open work takes units that no quotation holds, bound work the unit
that acceptance fixed. -/
def State.eligible (s : State) (w : Waiting) (c : Fin 128) : Bool :=
  s.dieTakes w c && !s.claimed w c && s.roomFor w c
    && (match w.grid.qid with
      | none => s.unitFree w.grid c
      | some _ => (w.grid.boundUnit w.team).elim false (fun u => u.1 == c) && (w.save.isSome || s.waveOpen w.grid w.team))

/-- A unit's load. -/
def State.unitLoad (s : State) (g : Grid) (c : Fin 128) : Nat := s.load c + (if g.paired then s.load (partner c) else 0)

/-- The core that a graph's firing is placed on first (R289): that of the vault that holds the buffer of its lowest-numbered
in-edge, or out-edge. [DEDUCED, log 76] -/
def State.preferred (s : State) (g : Grid) : Option (Fin 128) :=
  match g.firing with
  | none => none
  | some (gr, f) =>
    match s.graphOf gr with
    | none => none
    | some x =>
      match x.firings.find? fun y => y.id == f with
      | none => none
      | some y =>
        let ins := sortBy GEdge.id (x.plan.edges.filter fun e => e.dst == y.stage)
        let outs := sortBy GEdge.id (x.plan.edges.filter fun e => e.src == y.stage)
        (ins ++ outs).head?.map fun e => Fin.ofNat 128 (field e.addr 55 2 * 32 + field e.addr 49 5)

/-- The eligible unit that a waiting team takes: the preferred one of a firing, else the least loaded, the lower core on a
tie (R289, R337). -/
def State.unitFor (s : State) (w : Waiting) : Option (Fin 128) :=
  let us := (s.units w.grid).filter fun c => s.eligible w c
  let best := us.foldl (fun (a : Option (Fin 128)) c => match a with
    | none => some c
    | some x => if s.unitLoad w.grid c < s.unitLoad w.grid x then some c else some x) none
  match s.preferred w.grid with
  | some c =>
    let u := if w.grid.paired then evenCore c else c
    if us.contains u then some u else best
  | none => best

/-- A waiting team placed on a unit. -/
def State.placeTeam (s : State) (w : Waiting) (c : Fin 128) : State :=
  let s := { s with claims := s.claims.filter fun k => !(k.grid == w.grid.id && k.team == w.team) }
  match w.save with
  | some x => s.resumeTeam c w.grid x
  | none => (s.admitTeam c w.grid w.team).modGrid w.grid.id fun g => { g with placed := g.placed + 1 }

/-! ### Priority pre-emption (R342) -/

/-- The open teams on a unit whose queue's PRIO is above p, with their places: the greatest PRIO first and, within one, the
youngest first. -/
def State.victims (s : State) (g : Grid) (c : Fin 128) (p : Nat) : List (Fin 128 × Fin 16 × Team × Grid) :=
  let cores := if g.paired then [c, partner c] else [c]
  let all := cores.flatMap fun c => (List.finRange 16).filterMap fun i => match s.team c i with
    | none => none
    | some t => match s.grid t.grid with
      | some x => if x.qid.isNone && decide (p < x.prio) && !t.exited then some (c, i, t, x) else none
      | none => none
  (sortBy (fun x : Fin 128 × Fin 16 × Team × Grid => x.2.2.2.prio * 2 ^ 64 + x.2.2.1.admitted) all).reverse

/-- A team taken out, to see what would fit without it. -/
def State.without (s : State) (x : Fin 128 × Fin 16 × Team × Grid) : State :=
  let s := (x.2.2.1.halves x.1 x.2.1).foldl (fun s h => (s.teamGroups h.1 h.2).foldl (fun s g => s.setGroup h.1 g.1 none) s) s
  s.removeTeam x.1 x.2.1 x.2.2.1

/-- The victims to stop, in order, until the waiting team would fit. -/
def State.victimsNeeded (s : State) (w : Waiting) (c : Fin 128) :
    List (Fin 128 × Fin 16 × Team × Grid) → Option (List (Fin 128 × Fin 16 × Team × Grid))
  | [] => if s.roomFor w c then some [] else none
  | v :: vs =>
    if s.roomFor w c then some []
    else ((s.without v).victimsNeeded w c vs).map fun l => v :: l

/-- The unit on which a team pre-empts: the one that holds the greatest PRIO above its own, the lower core on a tie. -/
def State.preemptOn (s : State) (w : Waiting) : Option (Fin 128 × List (Fin 128 × Fin 16 × Team × Grid)) :=
  let found := (s.units w.grid).filterMap fun c =>
    let vs := s.victims w.grid c w.grid.prio
    if s.unitFree w.grid c && s.dieTakes w c && !s.claimed w c && !vs.isEmpty then
      ((s.victimsNeeded w c vs).map fun l => (c, (vs.head?.elim 0 fun v => v.2.2.2.prio), l))
    else none
  (found.foldl (fun (a : Option (Fin 128 × Nat × List (Fin 128 × Fin 16 × Team × Grid))) x => match a with
    | none => some x
    | some y => if y.2.1 < x.2.1 then some x else some y) none).map fun x => (x.1, x.2.2)

/-- Pre-emption requested for a waiting team, if it can be: every victim's span is set aside, or none is stopped. -/
def State.preempt (s : State) (w : Waiting) : Option State :=
  if w.grid.qid.isSome || (s.claims.any fun k => k.grid == w.grid.id && k.team == w.team) then none
  else match s.preemptOn w with
    | none => none
    | some (c, vs) =>
      let asked := vs.foldl (fun (a : Option State) v => a.bind fun s =>
        match s.team v.1 v.2.1 with
        | some t => s.askTeam v.1 v.2.1 t (!v.2.2.2.imm && !w.grid.imm)
        | none => some s) (some s)
      asked.map fun s => { s with claims := s.claims ++ [⟨c, w.grid.id, w.team⟩] }

/-- The core map of a grid taken within its queue's partition (R338). -/
def State.mapOf (s : State) (g : Grid) : List (Fin 128) := allCores.filter fun c => s.inMap g c

/-- The first waiting team that has an eligible unit is placed; one that has none may pre-empt, and blocks later teams of the
same map (R338, R342). `maps` are those blocked. -/
def State.distribute (s : State) (maps : List (List (Fin 128))) : List Waiting → State
  | [] => s
  | w :: ws =>
    let m := s.mapOf w.grid
    if w.grid.qid.isNone && maps.contains m then s.distribute maps ws
    else match s.unitFor w with
      | some c => s.placeTeam w c
      | none =>
        match s.preempt w with
        | some s' => s'
        | none => s.distribute (if w.grid.qid.isNone then m :: maps else maps) ws

/-- TEAM_PLACEMENT: the distributor places the first waiting team that has an eligible unit (R337, R338), or asks for the
pre-emption that lets one in (R342). -/
def execTeamPlacement (s : State) : Host.Outcome State Fault Refusal := .next (s.distribute [] s.waiting)

/-! ### Forward progress (R341) -/

/-- The youngest open team on a core that is not being stopped. -/
def State.youngestOpen (s : State) (c : Fin 128) : Option (Fin 16 × Team × Grid) :=
  let all := (List.finRange 16).filterMap fun i => match s.team c i with
    | none => none
    | some t => match s.grid t.grid with
      | some g => if g.qid.isNone && !t.exited then some (i, t, g) else none
      | none => none
  ((sortBy (fun x : Fin 16 × Team × Grid => x.2.1.admitted) all).reverse).head?

/-- Whether a team of open work waits that a core could admit (R341). -/
def State.openFits (s : State) (c : Fin 128) : Bool :=
  s.waiting.any fun w => w.grid.qid.isNone
    && (s.units w.grid).any fun u => (u == c || (w.grid.paired && u == evenCore c)) && s.eligible w u

/-- The swap of R341, when it is due: no resident group has issued for FPWIN.N core cycles, and a team of open work waits that the core
could admit without its youngest open team, which is asked to stop at an instruction boundary. A stop at safe points that the team is
asked for already becomes one (R343). -/
def State.swapDue (s : State) (core : Fin 128) : Option State :=
  let k := s.core core
  if k.fpwin = 0 ∨ k.idleCount < (k.fpwin.toNat : Int) then none
  else match s.youngestOpen core with
    | none => none
    | some (i, t, g) =>
      if (t.stop.any fun x => !x.safePoint) || !(s.without (core, i, t, g)).openFits core then none
      else s.askTeam core i t false

/-- FORWARD_PROGRESS_SWAP: the swap is made when it is due; a core that is gated wakes first (R341, R369). -/
def execForwardProgressSwap (core : Fin 128) (s : State) : Host.Outcome State Fault Refusal :=
  .next (if s.awake core then (s.swapDue core).getD s else s)

/-- The forward-progress window written: the count starts again (R341). -/
def State.writeFpwin (s : State) (c : Fin 128) (n : Word) : State := s.modCore c fun k => { k with fpwin := n, idleCount := min k.idleCount 0 }

/-- FPWIN: a write of the window restarts the core's idle count (R341). -/
def execFpwinWrite (core : Fin 128) (n : Word) (s : State) : Host.Outcome State Fault Refusal := .next (s.writeFpwin core n)

end Sys2Proof.Machine
end

