-- ==== Sys2Proof/Machine/Power.lean ====
section
/-! DEFINITION. Clocks and frequency steps (R363 to R365), the envelope (R367), core power states (R368 to R370), suspend and
resume (R372 to R376), throttle, emergency save and hard trip (R377 to R381). -/
namespace Sys2Proof.Machine

/-! ### Frequency steps -/

/-- The cores of a die. -/
def coresOf (d : Fin 4) : List (Fin 128) := (List.range 32).map fun i => Fin.ofNat 128 (d.val * 32 + i)

/-- Whether a die holds a core of an ACCEPTED or RUNNING quotation (R364). -/
def State.dieHeld (s : State) (d : Fin 4) : Bool := (coresOf d).any s.coreHeld

/-- Whether the package's average power exceeds 1,800 W over the last millisecond or 1,400 W over the last second (R364). [DESIGN CHOICE, log 84] -/
def Pkg.overPower (p : Pkg) : Bool := decide (1800000000 < p.msLast) || decide (1400000000000 < p.sLast)

/-- The ratio that a die would run at: min(REQ, CAP), at least 50; 50 while a quotation holds a core of it; and a unit lower than it runs
at, but not below 50, while the power limits are exceeded (R364). [DESIGN CHOICE, log 84] -/
def State.target (s : State) (d : Fin 4) : Nat :=
  let x := s.die d
  if s.dieHeld d then 50
  else
    let want := min x.req.toNat x.cap.toNat
    max 50 (if s.pkg.overPower then min want (x.cur.toNat - 1) else want)

/-- A count of a deadline as a step rescales it: what remains becomes its share of the new ratio, rounded up (R363). -/
def rescale (new old bound : Nat) (count : Int) : Int :=
  let r := (bound : Int) - count
  bound - (r * new + (old - 1 : Nat)) / (old : Nat)

/-- The wait timer of a group or stream rescaled, if its site has a bound. -/
def rescaleWait (new old : Nat) (bound : Word → Option Nat) (w : Wait) : Wait :=
  match bound w.site with
  | some b => { w with elapsed := rescale new old b w.elapsed }
  | none => w

/-- The deadlines of a core rescaled (R363): wait timers, BRM windows, the forward-progress count and safe-point windows.
A timer paused in a handler bank is the group's too. -/
def State.rescaleCore (s : State) (new old : Nat) (c : Fin 128) : State :=
  let k := s.core c
  let gridOf (t : Fin 16) : Option Grid := (k.teams.get t).bind fun t => s.grid t.grid
  let declared (t : Fin 16) (site : Word) : Option Nat :=
    (gridOf t).bind fun g => (g.kern.waits.find? fun e => e.1 == site.toNat).map Prod.snd
  let window := if k.fpwin = 0 then 65536 else k.fpwin.toNat
  let group (i : Fin 128) (g : Group) : Group :=
    let bound (site : Word) : Option Nat := (gridOf g.team).bind fun x => s.waitBound c i g x site
    { g with
      wait := g.wait.map (rescaleWait new old bound)
      brm := g.brm.map fun b => { b with elapsed := rescale new old 256 b.elapsed } }
  let stream (x : Stream) : Stream := { x with wait := x.wait.map (rescaleWait new old (declared x.team)) }
  let bank (b : Bank) : Bank :=
    { b with snap := { b.snap with wait := b.snap.wait.map (rescaleWait new old (declared b.snap.team)) } }
  let team (t : Team) : Team :=
    { t with stop := t.stop.map fun x => if x.safePoint then { x with elapsed := rescale new old window x.elapsed } else x }
  s.setCore c { k with
    groups := Tab.ofFn fun i => (k.groups.get i).map (group i)
    matrixStream := k.matrixStream.map stream
    copyStream := k.copyStream.map stream
    banks := k.banks.map fun b => b.map bank
    teams := k.teams.map fun t => t.map team
    idleCount := if k.fpwin = 0 then k.idleCount else rescale new old k.fpwin.toNat k.idleCount }

/-- A step record written and TAIL advanced; with BASE 0 only TAIL advances (R363). -/
def State.logStep (s : State) (d : Fin 4) (old new cause : Nat) : State :=
  let x := s.die d
  let w := [s.reft, x.cyc, BitVec.ofNat 64 (old + new * 2 ^ 8 + cause * 2 ^ 16), BitVec.ofNat 64 x.fslogt.toNat]
  let s := if ringBase x.fslog = 0 then s
    else s.pstore (ringBase x.fslog + 32 * (x.fslogt.toNat % ringSize x.fslog)) (dwordBytes w)
  s.modDie d fun y => { y with fslogt := y.fslogt + 1 }

/-- A frequency step (R363): clocks stop, deadlines are rescaled, the step is logged, and the relock takes 80 ticks. -/
def State.stepTo (s : State) (d : Fin 4) (new cause : Nat) : State :=
  let old := (s.die d).cur.toNat
  let s := (coresOf d).foldl (fun s c => s.rescaleCore new old c) s
  (s.logStep d old new cause).modDie d fun x =>
    { x with cur := BitVec.ofNat 7 new, cycLeft := 0, relock := some (s.reft + 80), lastStep := some s.reft }

/-- Whether a die may step now for a cause other than throttle: 100 µs after its last step (R364), and never up while TMAX
is at or above 103 °C (R379). -/
def State.mayStep (s : State) (d : Fin 4) (new : Nat) : Bool :=
  let x := s.die d
  x.relock.isNone && x.cur.toNat != new && !x.throt
    && x.lastStep.elim true (fun t => decide (10000 ≤ (s.reft - t).toNat))
    && (decide (new < x.cur.toNat) || decide (x.tmax.toNat < 103))

/-- One step of a die that throttles: every 10 µs it steps down by one ratio unit, to 25 at the lowest (R379). -/
def State.throttleStep (s : State) (die : Fin 4) : State :=
  let x := s.die die
  if x.throt && x.relock.isNone && decide (x.throttleAt.toNat ≤ s.reft.toNat) then
    let s := s.modDie die fun x => { x with throttleAt := s.reft + 1000 }
    if 25 < x.cur.toNat then s.stepTo die (x.cur.toNat - 1) 1 else s
  else s

/-- FREQUENCY_STEP: a die steps to its target, for the cause given (0 request, 1 throttle, 2 ceiling, 3 acceptance). A throttle's step is
made in its time alone. [DESIGN CHOICE, log 84] -/
def execFrequencyStep (die : Fin 4) (cause : Fin 4) (s : State) : Host.Outcome State Fault Refusal :=
  .next (if cause = 1 then s.throttleStep die
  else if s.mayStep die (s.target die) then s.stepTo die (s.target die) cause.val else s)

/-- RELOCK_COMPLETE: the PLL has relocked, 80 ticks after the step, and clocks resume (R363). -/
def execRelockComplete (die : Fin 4) (s : State) : Host.Outcome State Fault Refusal :=
  .next (match (s.die die).relock with
  | some t => if t.toNat ≤ s.reft.toNat then (s.modDie die fun x => { x with relock := none }).acceptsDone else s
  | none => s)

/-- The ticks of the last microsecond that a relock took. -/
def Die.lostTicks (x : Die) (now : DWord) : Nat := min 80 (180 - x.lastStep.elim 180 fun t => (now - t).toNat)

/-- Whether one more stretched cycle keeps to 3% of the duration of the cycles that a die has delivered in the microsecond that ends now
(R365). [DESIGN CHOICE, log 28] -/
def Die.mayStretch (x : Die) (now : DWord) : Bool :=
  let n := x.stretches.length + 1
  decide (n * 100 ≤ 3 * (x.cur.toNat * (100 - x.lostTicks now) / 4 - n))

/-- DROOP_STRETCH: one core cycle of a die is stretched: the die delivers one cycle fewer in this tick (R365). Inside the envelope no more
than 3% of a microsecond's cycles stretch; what stretches beyond that is a device cause for the bound work of the die. [DESIGN CHOICE, log 28] -/
def execDroopStretch (die : Fin 4) (s : State) : Host.Outcome State Fault Refusal :=
  let x := s.die die
  let far := !x.mayStretch s.reft
  .next (if far && x.live == 0 then s
  else
    let s := s.modDie die fun x => { x with cycLeft := x.cycLeft - 1, stretches := x.stretches ++ [s.reft] }
    if far then
      { s with quotes := s.quotes.map fun q =>
          if q.state == .running && (coresOf die).any (fun c => q.cores.getLsbD c.val) then { q with devCause := 0x23 } else q }
    else s)

/-- The ceiling that wear leaves (R365). -/
def capOf (wear : Tab (BitVec 48) 12) : Nat := max 50 (72 - wear.val.foldl (fun m w => max m (w.toNat / 2 ^ 38)) 0)

/-- CAP_CHANGE: accumulated wear lowers the boost ceiling (R365). -/
def execCapChange (die : Fin 4) (s : State) : Host.Outcome State Fault Refusal :=
  .next (s.modDie die fun x => { x with cap := BitVec.ofNat 7 (min x.cap.toNat (capOf x.wear)) })

/-- ENVELOPE_CHANGE: the conditions outside the declared envelope now; the sticky bits remember them (R361, R367). -/
def execEnvelopeChange (die : Fin 4) (live : BitVec 4) (s : State) : Host.Outcome State Fault Refusal :=
  .next (s.modDie die fun x => { x with live := live, sticky := x.sticky ||| live })

/-- CLKRAT's requested ratio written (R364). -/
def State.writeReq (s : State) (d : Fin 4) (req : BitVec 7) : State := s.modDie d fun x => { x with req := req }

/-- CLKRAT_REQ: the requested ratio sets the die's target (R364). -/
def execClkratReq (die : Fin 4) (req : BitVec 7) (s : State) : Host.Outcome State Fault Refusal := .next (s.writeReq die req)

/-! ### Core power states -/

/-- Whether a group keeps its core from clock-gating (R368): it is neither idle nor blocked. A group that GSTOP asks to stop
counts as blocked (R299). -/
def State.groupBlocked (s : State) (c _gid : Fin 128) (g : Group) : Bool :=
  if g.idle then !g.woken
  else if g.away then (s.core c).missing g.uid != 0
  else
    (match g.stop with
      | .none | .atSafePoint => false
      | .requested b => b
      | _ => true)
    || (match g.wait, s.team c g.team with
      | some w, some t =>
        let h := teamHome c g.team t
        g.issueAddr == some w.site && !s.satisfied c h.1 h.2 t g.team (s.spaceOf c g) g.q.get g.tok (fun _ => false) w.on
      | _, _ => false)

/-- Whether a core has nothing to do: every resident group is idle or blocked, and no stream runs. -/
def State.coreQuiet (s : State) (c : Fin 128) : Bool :=
  (s.core c).matrixStream.isNone && (s.core c).copyStream.isNone
    && (List.finRange 128).all fun i => match s.group c i with
      | some g => s.groupBlocked c i g
      | none => true

/-- The grid of a team on a core. -/
def State.gridAt (s : State) (c : Fin 128) (slot : Fin 16) : Option Grid := (s.team c slot).bind fun t => s.grid t.grid

/-- Whether a deadline of a core has expired (R363, R369): the bound of a wait, the window of a BRM, that of a stop at safe points, or the
count of R341, when its swap is due. -/
def State.deadlineDue (s : State) (c : Fin 128) : Bool :=
  let k := s.core c
  ((List.finRange 128).any fun i => match s.group c i with
      | none => false
      | some g => (g.wait.any fun w => ((s.gridAt c g.team).bind fun x => s.waitBound c i g x w.site).any fun b => decide ((b : Int) ≤ w.elapsed))
          || g.brm.any fun b => decide (256 ≤ b.elapsed))
    || ([false, true].any fun copy => match k.stream copy with
      | none => false
      | some st => st.wait.any fun w => (((s.gridAt c st.team).bind fun x => x.kern.waits.find? fun e => e.1 == w.site.toNat).map Prod.snd).any
          fun b => decide ((b : Int) ≤ w.elapsed))
    || ((List.finRange 16).any fun i => (s.team c i).any (s.stopOverdue c i))
    || (s.swapDue c).isSome

/-- Whether something wakes a gated core: work that may go on, a latched event, or a suspend that must stop its teams; a core that runs has
its expired deadlines to serve too (R368 to R374). -/
def State.coreWakes (s : State) (c : Fin 128) : Bool :=
  !s.coreQuiet c || (s.die (dieOf c)).chive.any (fun e => e.1 == c) || s.pkg.suspPhase == 1
    || ((s.core c).power == .active && s.deadlineDue c)

/-- BREAK_EVEN_HOLD: 50 µs clock-gated without a wake (R368). -/
def execBreakEvenHold (core : Fin 128) (s : State) : Host.Outcome State Fault Refusal :=
  let k := s.core core
  .next (match k.power with
  | .clockGated since =>
    if 5000 ≤ s.reft.toNat - since ∧ k.pwrst.getLsbD 2 = false ∧ s.coreHeld core = false ∧ s.coreWakes core = false
        ∧ k.resident.all (fun g => g.wait.isNone) then
      s.modCore core fun k => { k with power := .held s.reft.toNat }
    else s
  | _ => s)

/-- POWER_GATE: the hold ends without a wake (R368). [DEDUCED, log 79] -/
def execPowerGate (core : Fin 128) (s : State) : Host.Outcome State Fault Refusal :=
  .next (match (s.core core).power with
  | .held _ => if s.coreWakes core then s else s.modCore core fun k => { k with power := .gated }
  | _ => s)

/-- CORE_WAKE: a clock-gated or held core restarts and takes its latched events; a power-gated one waits for its quadrant's
in-rush arbiter (R368, R370, R371). -/
def execCoreWake (core : Fin 128) (s : State) : Host.Outcome State Fault Refusal :=
  .next (if !s.coreWakes core then s
  else match (s.core core).power with
    | .clockGated _ | .held _ => (s.modCore core fun k => { k with power := .active }).applyChive core
    | .gated => s.modCore core fun k => { k with power := .waking s.reft.toNat }
    | _ => s)

/-- The quadrant of a core: the positions of a die stand in four rows of eight (R365). -/
def quadOf (c : Fin 128) : Fin 4 := Fin.ofNat 4 (2 * (localOf c / 8 / 2) + localOf c % 8 / 4)

/-- INRUSH_GRANT: the arbiter of a quadrant lets the waiting core of lowest number ramp while fewer than four do (R370). -/
def execInrushGrant (die : Fin 4) (quad : Fin 4) (s : State) : Host.Outcome State Fault Refusal :=
  let ramping := (s.die die).ramps.get quad
  .next (if 4 ≤ ramping.length then s
  else match (coresOf die).find? fun c => quadOf c == quad && (match (s.core c).power with
      | .waking _ => true
      | _ => false) with
    | none => s
    | some c =>
      (s.modCore c fun k => { k with power := .ramping 200 }).modDie die fun x => { x with ramps := x.ramps.set quad (ramping ++ [c]) })

/-- A ramp over: the core is up and takes its latched events (R370, R371). -/
def State.endRamp (s : State) (c : Fin 128) : State :=
  let q := quadOf c
  ((s.modCore c fun k => { k with power := .active }).modDie (dieOf c) fun x =>
    { x with ramps := x.ramps.set q ((x.ramps.get q).filter fun y => y != c) }).applyChive c

/-! ### Suspend and resume -/

/-- The quotations of a device that suspends: those QUOTED become VOID, and those that run pause, also one that began meanwhile (R326,
R330). -/
def State.suspendQuotes (s : State) : State :=
  let s := s.voidQuotes fun _ => true
  { s with quotes := s.quotes.map fun q => if q.state = .running then { q with paused := true } else q }

/-- A device suspend begins (R372, R374): running quotations pause, quoted ones become VOID, and every team is asked to stop,
at an instruction boundary when its queue has IMM set. -/
def State.startSuspend (s : State) : State :=
  if s.pkg.mbstate != .running || s.pkg.suspPhase != 0 then s
  else
    let s := s.suspendQuotes.modPkg fun p => { p with suspPhase := 1 }
    (s.teamsWhere fun _ _ => true).foldl (fun s x =>
      let imm := (s.grid x.2.2.grid).elim false Grid.imm
      s.askHalf x.1 x.2.1 (!imm) none true) s

/-- SUSPCTL_GO: a write of GO starts a device suspend (R372). -/
def execSuspctlGo (s : State) : Host.Outcome State Fault Refusal := .next s.startSuspend

/-- The retention slot of a core (R373). -/
def State.slotOf (s : State) (c : Fin 128) : Nat :=
  (dieOf c).val * 2 ^ 37 + localOf c * 2 ^ 32 + 0x800000 * (s.die (dieOf c)).retoff.toNat

/-- A core's image written to its slot (R373): the pool, the scale store, and what the manual gives no layout for. Errors
that the reads meet are only logged (R390). [DESIGN CHOICE, log 22] -/
def State.writeImage (s : State) (c : Fin 128) : State :=
  let (n, s) := s.draw
  let a := s.slotOf c
  let k := s.core c
  let (_, s) := s.consume (dieOf c) 0 c 0 0x600000 none
  let (_, s) := s.consume (dieOf c) 1 c 0 0x20000 none
  let (_, s) := s.consume (dieOf c) 2 c 0 0x40000 none
  let s := s.pstore a (k.pool.bytes 0 0x600000)
  let s := s.pstore (a + 0x600000) (k.scale.bytes 0 0x20000)
  s.pstore (a + 0x620000) ((List.range 0x1E0000).map fun i => Config.imageByte n i)

/-- Whether every team has stopped for a suspend, each of its groups stopped or at a double fault and none of its engines at work, and every
core is up (R370, R374). -/
def State.allStopped (s : State) : Bool :=
  allCores.all s.awake && (s.teamsWhere fun _ t => !t.exited).all fun x =>
    let safe := x.2.2.stop.elim false TeamStop.safePoint
    s.halfStopped x.1 x.2.1 safe

/-- SUSPEND_STEP: the next step of a suspend once the one in progress has finished (R374). -/
def execSuspendStep (s : State) : Host.Outcome State Fault Refusal :=
  let dest (s : State) (n : Nat) : State := s.suspendQuotes.modPkg fun p => { p with suspPhase := BitVec.ofNat 3 n }
  .next (match s.pkg.suspPhase.toNat with
  | 1 => if s.allStopped then dest s 2 else s
  | 2 => dest { s with ports := s.ports.map fun p => { p with trained := false, confirming := false } } 3
  | 3 => dest (allCores.foldl (fun s c => s.writeImage c) s) 4
  | 4 => (dest s 5).modPkg fun p => { p with mbstate := .suspended }
  | _ => s)

/-- The cause of a lost context (R332). -/
def lostCause (env : Bool) : Nat := if env then 0x12 else 0x22

/-- The breach record of a lost context of a quotation, of KIND 3 (R332). [DEDUCED, log 47] -/
def lostWords (q : Quote) (env : Bool) : List DWord :=
  let xt := q.measured - q.time
  let xe := q.measuredE - q.energy
  let party (x : Nat) : Nat := if x = 0 then 0 else if env then 2 else 3
  [q.qid, BitVec.ofNat 64 (lostCause env + party xt * 2 ^ 8 + party xe * 2 ^ 10 + 3 * 2 ^ 12 + (if xe = 0 then 0 else lostCause env) * 2 ^ 24),
    BitVec.ofNat 64 xt, BitVec.ofNat 64 xe, BitVec.ofNat 64 q.measured, BitVec.ofNat 64 q.measuredE,
    BitVec.ofNat 64 (q.callT % 2 ^ 32 + q.envT % 2 ^ 32 * 2 ^ 32), 0]

/-- That of a lost context of open work, which has no quotation (R381). [DEDUCED, log 47] -/
def openLost (env : Bool) : List DWord := [0, BitVec.ofNat 64 (lostCause env + 3 * 2 ^ 12), 0, 0, 0, 0, 0, 0]

/-- Whether a die's coolant is outside the envelope (R367, R378). -/
def Die.coolantOut (d : Die) : Bool := d.live.getLsbD 1 || d.live.getLsbD 2

/-- The report of a lost context of a grid (R332, R381). -/
def State.reportLost (s : State) (grid : Grid) (env : Bool) : State :=
  match grid.qid.bind s.quote with
  | some q => (s.writeBreach q (lostWords q env)).modQuote q.qid fun x => { x with devCause := if env then x.devCause else 0x22 }
  | none => s.writeBreachAt (s.queueEntry grid.die grid.queue) grid.die (openLost env)

/-- A resident team lost. [DEDUCED, log 47] -/
def State.loseTeam (s : State) (t : Team) (env : Bool) : State :=
  let s := s.dropTeamsIf fun x => x.grid == t.grid && x.index == t.index
  match s.grid t.grid with
  | some g => (s.reportLost g env).teamFinished t.grid
  | none => s

/-- The stop of a suspend taken back (R375): groups and streams go on with their remaining budgets. -/
def State.endStop (s : State) (c : Fin 128) (slot : Fin 16) (t : Team) : State :=
  match t.stop with
  | some x =>
    if x.suspend then
      let s := s.setTeam c slot (some { t with stop := none })
      let s := (s.teamGroups c slot).foldl (fun s g =>
        match g.2.stop with
        | .stopped false _ | .requested false | .atSafePoint =>
          (s.setGroup c g.1 (some { g.2 with stop := .none, polled := false })).pumpDeliveries c g.1
        | _ => s) s
      [false, true].foldl (fun s copy => match (s.core c).stream copy with
        | some st => if st.team = slot then s.setStream c copy (some { st with stopped := false, polled := false }) else s
        | none => s) s
    else s
  | none => s

/-- Resume from suspend (R375): a core that fails self-test is excluded, which is a change of its health (R326), and its teams are lost;
then quotations go on, groups restart, and every core that is up takes its latched events (R371). -/
def State.resumeDevice (s : State) (failed : Fin 128 → Bool) : State :=
  let s := s.suspendQuotes
  let notified (c : Fin 128) : Bool := ((s.die (dieOf c)).chive ++ (s.die (dieOf c)).chiveHeld).contains (c, .notify)
  let s := allCores.foldl (fun s c => s.modCore c fun k =>
    { (if notified c then k.wakeIdle else k) with excluded := failed c, power := .active }) s
  let gone (c : Fin 128) (t : Team) : Bool := failed c || (t.paired && failed (partner c))
  let lost := s.teamsWhere fun c t => gone c t && !t.odd && !t.exited
  let s := lost.foldl (fun s x => s.loseTeam x.2.2 false) s
  let finished := s.teamsWhere fun c t => gone c t
  let s := s.dropTeamsIf fun t => finished.any fun x => x.2.2.grid == t.grid && x.2.2.index == t.index
  let s := (s.teamsWhere fun _ _ => true).foldl (fun s x => s.endStop x.1 x.2.1 x.2.2) s
  let s : State := { s with
    quotes := s.quotes.map fun q => { q with paused := false }
    dies := s.dies.map fun d => { d with tlb := [], chive := [], chiveHeld := [], ramps := Tab.replicate 4 [] } }
  s.modPkg fun p => { p with suspPhase := 0, mbstate := .running }

/-- PORT_RETRAIN: a port that may send retrains and gives its peer its saved receive sequence; until the peer confirms it counts as
untrained (R376, R384). -/
def execPortRetrain (port : Fin 16) (s : State) : Host.Outcome State Fault Refusal :=
  .next (if s.portsSend then
    { s with
      ports := s.ports.modify port fun p => { p with trained := false, confirming := true }
      outbox := s.outbox ++ [.sequence port (s.ports.get port).recvSeq] }
  else s)

/-- The messages that a port keeps whose last flit does not lie before a sequence number, in serial order from the oldest one kept. -/
def Port.keptFrom (p : Port) (seq : Word) : List (Word × Msg) :=
  let first := (p.sent.head?).elim p.sendSeq Prod.fst
  let ends := (p.sent.drop 1).map Prod.fst ++ [p.sendSeq]
  ((p.sent.zip ends).filter fun m => decide ((seq - first).toNat < (m.2 - first).toNat)).map Prod.fst

/-- Whether a sequence number is one that a port has sent and its peer has not yet passed, or the next it will send. -/
def Port.mayConfirm (p : Port) (seq : Word) : Bool :=
  let first := (p.sent.head?).elim p.sendSeq Prod.fst
  decide ((seq - first).toNat ≤ (p.sendSeq - first).toNat)

/-- PORT_SEQUENCE_CONFIRM: the peer confirms the sequence from which transmission restarts: the port is trained, and what it had sent from
there on it sends again (R376). Outside retraining it acknowledges the flits before the sequence, which are kept no longer (R395). A
sequence that the port has not sent confirms nothing. [DEDUCED, log 85] -/
def execPortSequenceConfirm (port : Fin 16) (seq : Word) (s : State) : Host.Outcome State Fault Refusal :=
  let p := s.ports.get port
  let left := p.keptFrom seq
  .next (if s.portsSend && p.mayConfirm seq then
    if p.confirming then
      { s with
        ports := s.ports.modify port fun p => { p with trained := true, confirming := false, sent := left }
        outbox := s.outbox ++ left.map Prod.snd }
    else { s with ports := s.ports.modify port fun p => { p with sent := left } }
  else s)

/-! ### Thermal -/

/-- TMAX as the sensors give it. -/
def State.setTmax (s : State) (d : Fin 4) (t : Byte) : State := s.modDie d fun x => { x with tmax := t }

/-- The teams of a die in the order of an emergency save (R380): bound ones by QID, then open ones by PRIO and admission. -/
def State.emergencyOrder (s : State) (d : Fin 4) : List (Fin 128 × Fin 16 × Team × Grid) :=
  let all := (s.teamsWhere fun c t => dieOf c == d && !t.odd && !t.exited).filterMap fun x =>
    (s.grid x.2.2.grid).map fun g => (x.1, x.2.1, x.2.2, g)
  let bound := all.filter fun x => x.2.2.2.qid.isSome
  let opens := all.filter fun x => x.2.2.2.qid.isNone
  sortBy (fun x : Fin 128 × Fin 16 × Team × Grid => (x.2.2.2.qid.getD 0).toNat * 2 ^ 64 + x.2.2.1.admitted) bound
    ++ sortBy (fun x : Fin 128 × Fin 16 × Team × Grid => x.2.2.2.prio * 2 ^ 64 + x.2.2.1.admitted) opens

/-- An emergency save begins (R380): every resident team of the die stops at an instruction boundary, in the order of R380, each with a
span of its core's save area; a team without room is lost. -/
def State.startEmergency (s : State) (die : Fin 4) : State :=
  let env := (s.die die).coolantOut
  let s := s.modDie die fun x => { x with esave := true }
  (s.emergencyOrder die).foldl (fun s x =>
    match s.team x.1 x.2.1 with
    | none => s
    | some t =>
      match s.askTeam x.1 x.2.1 t false with
      | some s' => s'.modDie die fun y => { y with esqueue := y.esqueue ++ [(x.1, x.2.1)] }
      | none => s.loseTeam t env) s

/-- The save-list entry of a team's save written, and ESMARK advanced (R380). That of a pair names its even core's part, and counts the bytes
and the contexts of both. [DEDUCED, log 47] -/
def State.listSave (s : State) (d : Fin 4) (grid : Grid) (y : Saved) : State :=
  let x := s.die d
  let base := (y.halves.head?).elim 0 SavedHalf.base
  let size := (y.halves.map SavedHalf.size).sum
  let parts := (y.halves.map fun h => h.parts.length).sum
  let w := [BitVec.ofNat 64 base, BitVec.ofNat 64 (size + grid.space.toNat * 2 ^ 32), grid.qid.getD 0,
    BitVec.ofNat 64 (parts + grid.die.val * 2 ^ 16 + grid.queue * 2 ^ 18)]
  (s.pstore (ringBase x.eslist + 32 * (x.esmark.toNat % ringSize x.eslist)) (dwordBytes w)).modDie d fun y =>
    { y with esmark := y.esmark + 1 }

/-- EMERGENCY_SAVE_COMMIT: the first team of the emergency save has been written, its entry is listed, and ESMARK advances
(R380). The save ends with the last team. [DEDUCED, log 47] -/
def execEmergencySaveCommit (die : Fin 4) (s : State) : Host.Outcome State Fault Refusal :=
  let pop (s : State) : State := s.modDie die fun y => { y with esqueue := y.esqueue.drop 1, esave := decide (1 < y.esqueue.length) }
  .next (match (s.die die).esqueue with
  | [] => s.modDie die fun y => { y with esave := false }
  | (c, slot) :: _ =>
    match s.team c slot with
    | none => pop s
    | some t =>
      match s.grid t.grid with
      | none => pop s
      | some grid =>
        if t.exited || s.isRetiring (s.die grid.die).part grid.space then pop s
        else if !s.teamStopped c slot t false then s
        else
          let s := s.saveTeam c slot t grid (some die)
          match s.saved.getLast? with
          | none => pop s
          | some x =>
            let s := s.listSave die grid x
            pop { s with saved := s.saved.map fun y => if y.id = x.id then { y with committed := true } else y })

/-- The record of a context of a grid that a cut-off loses (R332, R381). -/
def State.lostReport (s : State) (env : Bool) (g : Grid) : LostReport :=
  match g.qid.bind s.quote with
  | some q => ⟨s.queueEntry q.die q.queue, q.die, lostWords q env⟩
  | none => ⟨s.queueEntry g.die g.queue, g.die, openLost env⟩

/-- The records of contexts that a cut-off loses, for the next start: of the resident teams and of the saves that no save list names (R332,
R381). [DEDUCED, log 47] -/
def State.lostReports (s : State) (env : Bool) : List LostReport :=
  let here := (s.teamsWhere fun _ t => !t.odd && !t.exited).filterMap fun x => s.grid x.2.2.grid
  let kept := (s.saved.filter fun x => !(x.hot.isSome && x.committed) && !x.software).filterMap fun x => s.grid x.grid
  (here ++ kept).map (s.lostReport env)

/-- What power loss leaves (R381): the vaults and the flash, and, of the work, the committed emergency saves with what the
restart reads of them. [DEDUCED, log 47] -/
def State.powerLoss (s : State) : State :=
  let saved := s.saved.filter fun x => x.hot.isSome && x.committed
  let left (g : Grid) : Nat := (saved.filter fun x => x.grid == g.id).length
  let grids := (s.grids.filter fun g => left g != 0).map fun g =>
    { g with placed := g.teams, finished := g.teams - left g, firing := none, admits := (List.range g.teams).map fun i => (i, 0) }
  let alive (q : DWord) : Bool := grids.any fun g => g.qid == some q
  let spans (c : Fin 128) : List Span := saved.flatMap fun x => x.halves.filterMap fun h =>
    if h.core = c then some ⟨h.base, h.size, x.grid⟩ else none
  { State.reset with
    mem := s.mem
    cores := Tab.ofFn fun c => { Core.reset with spans := spans c }
    dies := Tab.ofFn fun d => { Die.reset d with
      part := (s.die d).part, tripped := true, eslist := (s.die d).eslist, esmark := (s.die d).esmark }
    pkg := { Pkg.reset with flash := s.pkg.flash, boots := s.pkg.boots, quoteSeq := s.pkg.quoteSeq }
    saved := saved
    grids := grids
    quotes := s.quotes.filter fun q => alive q.qid
    files := s.files.filter fun f => grids.any fun g => g.handle == f.handle
    outbox := s.outbox
    nextId := s.nextId
    fresh := s.fresh
    picks := s.picks
    agenda := s.agenda }

/-- The cut-off at 118 °C: it removes the package's power with the vaults in self-refresh; contexts that were not committed are lost and
reported at the next start (R332, R381). -/
def State.trip (s : State) (die : Fin 4) : State :=
  let reports := s.lostReports (s.die die).coolantOut
  s.powerLoss.modPkg fun p => { p with lost := s.pkg.lost ++ reports }

/-- What a die does at a temperature (R377): it trips at 118 °C, saves its teams at 110 °C, throttles at 105 °C, its first step 10 µs later,
and no longer throttles below 103 °C (R379). [DESIGN CHOICE, log 28] -/
def State.thermal (s : State) (die : Fin 4) (t : Nat) : State :=
  if 118 ≤ t then s.trip die
  else
    let s := if t < 103 then s.modDie die fun x => { x with throt := false }
      else if 105 ≤ t ∧ (s.die die).throt = false then
        s.modDie die fun x => { x with throt := true, throttleAt := s.reft + 1000 }
      else s
    if 110 ≤ t ∧ (s.die die).esave = false ∧ (s.emergencyOrder die).isEmpty = false then s.startEmergency die else s

/-- A die senses a temperature, and acts on it. [DESIGN CHOICE, log 28] -/
def State.sensed (s : State) (die : Fin 4) (t : Byte) : State := (s.setTmax die t).thermal die t.toNat

/-- THROTTLE: at 105 °C the die starts throttling (R377, R379). -/
def execThrottle (die : Fin 4) (tmax : Byte) (s : State) : Host.Outcome State Fault Refusal := .next (s.sensed die tmax)

/-- THROTTLE_STEP: the throttling die's next step, until TMAX is below 103 °C (R379). -/
def execThrottleStep (die : Fin 4) (tmax : Byte) (s : State) : Host.Outcome State Fault Refusal :=
  .next ((s.sensed die tmax).throttleStep die)

/-- EMERGENCY_SAVE: at 110 °C the die saves its resident teams (R377, R380). -/
def execEmergencySave (die : Fin 4) (tmax : Byte) (s : State) : Host.Outcome State Fault Refusal := .next (s.sensed die tmax)

/-- HARD_TRIP: at 118 °C the cut-off trips (R377, R381). -/
def execHardTrip (die : Fin 4) (tmax : Byte) (s : State) : Host.Outcome State Fault Refusal := .next (s.sensed die tmax)

end Sys2Proof.Machine
end

