-- ==== Sys2Proof/Machine/Boot.lean ====
section
/-! DEFINITION. Bring-up (R382 to R384) and the mailbox's commands (R385 to R388). -/
namespace Sys2Proof.Machine

/-! ### Start and measurement -/

/-- The image of a stage as the flash holds it (R382). [DESIGN CHOICE, log 14] -/
def Pkg.stageImage (p : Pkg) (n : Fin 4) : List Byte :=
  if p.flash.isEmpty then Config.factoryImage n else Config.flashStage p.flash n

/-- The safe state entered with a FAILCODE (R384). -/
def State.enterSafe (s : State) (code : Nat) : State :=
  s.modPkg fun p => { p with mbstate := .safe, failcode := BitVec.ofNat 8 code }

/-- A digest recorded in a measurement slot (R382). -/
def State.measure (s : State) (slot : Fin 8) (image : List Byte) : State :=
  s.modPkg fun p => { p with slots := p.slots.set slot (sha512 image) }

/-- Stages verified, measured and run in order; none when a stage's signature fails and the device is safe. [DEDUCED, log 48] -/
def State.runStages (s : State) : List (Fin 4) → State × Bool
  | [] => (s, true)
  | n :: rest =>
    let image := s.pkg.stageImage n
    if Config.stageVerifies image then (s.measure (Fin.ofNat 8 n.val) image).runStages rest
    else (s.enterSafe (0x10 + n.val), false)

/-- The cores that fail the items of one core in self-test number `n` (R383). -/
def coreFails (n item : Nat) (c : Fin 128) : Bool := !Config.selfTestPasses n item c.val

/-- The first item of self-test number `n` that fails anywhere (R383). -/
def selfTestFails (n : Nat) : Option Nat :=
  [1, 2, 3, 4, 5].find? fun item =>
    if item ≤ 2 then allCores.any (coreFails n item) else !Config.selfTestPasses n item 0

/-- The records of contexts that the last cut-off lost, written at the next start (R332, R381). -/
def State.writeLost (s : State) : State :=
  let reports := s.pkg.lost
  (reports.foldl (fun s r => s.writeBreachAt r.entry r.die r.words) s).modPkg fun p => { p with lost := [] }

/-- A start (R382, R383): stages M0 to M2, the self-test, and stage M3. [DEDUCED, log 48] -/
def State.start (s : State) : State :=
  let s := s.modPkg fun p => { p with boots := p.boots + 1, failcode := 0, slots := Tab.replicate 8 (List.replicate 64 0) }
  match s.runStages [0, 1, 2] with
  | (s, false) => s
  | (s, true) =>
    let (n, s) := s.draw
    match selfTestFails n with
    | some item => s.enterSafe item
    | none =>
      match s.runStages [3] with
      | (s, false) => s
      | (s, true) => (s.modPkg fun p => { p with mbstate := .running }).writeLost

/-- BOOT: at power-on or reload the boot ROM of die 0 runs the stages (R382). -/
def execBoot (s : State) : Host.Outcome State Fault Refusal :=
  .next (if s.pkg.mbstate = .booting then s.start else s)

/-- PARTITION_START: a partition's system image is verified, measured into its slot, and started (R382). [DEDUCED, log 48] -/
def execPartitionStart (part : Fin 4) (image : List Byte) (s : State) : Host.Outcome State Fault Refusal :=
  .next (if s.pkg.mbstate != .running then s
  else if Config.stageVerifies image then s.measure (Fin.ofNat 8 (4 + part.val)) image
  else s.enterSafe (0x14 + part.val))

/-! ### The mailbox -/

/-- MBSTAT.STATE as a number (R385). -/
def MbState.number : MbState → Nat
  | .booting => 0
  | .running => 1
  | .safe => 2
  | .suspended => 3

/-- A command completed (R385): MBDONE, then MSI-X vector 0. -/
def State.mbDone (s : State) (cmd : Nat) (status : Nat) : State :=
  let s := s.modPkg fun p =>
    { p with doneCmd := BitVec.ofNat 8 cmd, doneStatus := BitVec.ofNat 8 status, doneSeq := p.doneSeq + 1 }
  { s with outbox := s.outbox ++ [.msix 0] }

/-- Bytes written to host memory (R385). [DESIGN CHOICE, log 15] -/
def State.hostWrite (s : State) (a : DWord) (bs : List Byte) : State := { s with outbox := s.outbox ++ [.hostWrite a bs] }

/-- Bytes read from host memory: whatever it holds. [DESIGN CHOICE, log 15] -/
def State.hostRead (s : State) (a : DWord) (n : Nat) : List Byte × State :=
  let (k, s) := s.draw
  ((List.range n).map fun i => Config.hostByte k (a + BitVec.ofNat 64 i), s)

/-- Whether the state accepts the commands of a running or safe device (R386). -/
def State.mbAwake (s : State) : Bool := s.pkg.mbstate == .running || s.pkg.mbstate == .safe

/-- Whether the command buffer's address is a multiple of 4 KiB (R385). -/
def State.mbAligned (s : State) : Bool := decide (s.pkg.mbarg.toNat % 4096 = 0)

/-- A command of a running or safe device with a buffer of at least `need` bytes, refused with its status otherwise. [DEDUCED, log 49] -/
def State.mbGuard (s : State) (cmd len need : Nat) (run : State → State) : State :=
  if !s.mbAwake then s.mbDone cmd 1
  else if !s.mbAligned || decide (len < need) then s.mbDone cmd 2
  else (run s).mbDone cmd 0

/-- The resumption of a suspended device (R375, R383): a core that fails an item of its own is excluded; any other failure
leaves the device safe. [DEDUCED, log 49] -/
def State.mbResume (s : State) : State :=
  if s.pkg.mbstate != .suspended then s.mbDone 1 1
  else
    let (n, s) := s.draw
    match [3, 4, 5].find? fun item => !Config.selfTestPasses n item 0 with
    | some item => (s.enterSafe item).mbDone 1 0
    | none => (s.resumeDevice fun c => coreFails n 1 c || coreFails n 2 c).mbDone 1 0

/-- The bytes of an attestation report that its signature covers (R387). -/
def State.reportBody (s : State) (nonce : List Byte) : List Byte :=
  let excluded := allCores.foldl (fun a c => a + (s.core c).excluded.toNat * 2 ^ c.val) 0
  leBytes 4 0x54415451 ++ leBytes 2 1 ++ leBytes 2 0 ++ leBytes 8 s.reft.toNat ++ nonce
    ++ (List.range 16).map Config.serial ++ leBytes 8 (s.pkg.mbstate.number + s.pkg.failcode.toNat * 2 ^ 8)
    ++ leBytes 16 excluded ++ leBytes 8 0 ++ s.pkg.slots.val.flatten

/-- A signed report (R387): 1,152 bytes. -/
def State.report (s : State) (nonce : List Byte) : List Byte :=
  let body := s.reportBody nonce
  body ++ (List.range 512).map (Config.reportSignature body)

/-- The attestation command. -/
def State.mbAttest (s : State) (len : Nat) : State :=
  s.mbGuard 2 len 1216 fun s =>
    let (nonce, s) := s.hostRead s.pkg.mbarg 64
    s.hostWrite (s.pkg.mbarg + 64) (s.report nonce)

/-- A suspend without retention, or the end of a device in the safe state (R386): every running quotation settles as the device's, and no work, no core state and no
vault contents remain. What the always-on domain and the links hold stays. [DEDUCED, log 50] -/
def State.clearDevice (s : State) : State :=
  let s := (s.quotes.filter fun q => q.state == .running).foldl (fun s q =>
    let xt := q.measured - q.time
    let xe := q.measuredE - q.energy
    if xt = 0 ∧ xe = 0 then s
    else
      let ws := breachWords { q with devCause := 0x23, callT := 0, envT := 0, callE := 0, envE := 0 } 0 xt xe 0
      s.writeBreach q (ws.set 6 (BitVec.ofNat 64 (q.callT % 2 ^ 32 + q.envT % 2 ^ 32 * 2 ^ 32)))) s
  { State.reset with
    dies := Tab.ofFn fun d => { Die.reset d with part := (s.die d).part }
    links := s.links, pkg := s.pkg, reft := s.reft, outbox := s.outbox, nextId := s.nextId, fresh := s.fresh, picks := s.picks, agenda := s.agenda }

/-- The reload command (R382, R386): a device that runs is suspended without retention first; then every stage of the image is verified, the
flash written, and the device restarted. With STATUS 3 the device stays as it is then. [DEDUCED, log 50] -/
def State.mbReload (s : State) (len : Nat) : State :=
  if !s.mbAwake then s.mbDone 3 1
  else if !s.mbAligned then s.mbDone 3 2
  else
    let s := if s.pkg.mbstate == .running then s.clearDevice.modPkg fun p => { p with mbstate := .suspended, suspPhase := 5 } else s
    let (image, s) := s.hostRead s.pkg.mbarg len
    if !((List.finRange 4).all fun n => Config.stageVerifies (Config.flashStage image n)) then s.mbDone 3 3
    else
      (s.clearDevice.modPkg fun p => { p with flash := image, mbstate := .booting, suspPhase := 0 }).mbDone 3 0

/-- The entries that a die's error-log ring still holds, oldest first (R391, R392). -/
def State.errorLog (s : State) (d : Fin 4) : List Byte :=
  let reg := (s.die d).errlogb
  let tail := (s.die d).errlogt.toNat
  let n := min tail (ringSize reg)
  if ringBase reg = 0 then []
  else (List.range n).flatMap fun i => s.mem.bytes (ringBase reg + 32 * ((tail - n + i) % ringSize reg)) 32

/-- The errors that reading a die's error log meets, which nothing consumes (R390). -/
def State.readErrorLog (s : State) (d : Fin 4) : State :=
  let reg := (s.die d).errlogb
  if ringBase reg = 0 ∨ (s.die d).errlogt = 0 then s
  else
    let a := ringBase reg
    (s.consumeVault (vaultDie a) a (32 * min (s.die d).errlogt.toNat (ringSize reg)) none).2

/-- The log command. [DEDUCED, log 49] -/
def State.mbLogdump (s : State) (len : Nat) : State :=
  s.mbGuard 4 len 0 fun s => (allDies.foldl State.readErrorLog s).hostWrite s.pkg.mbarg ((allDies.flatMap s.errorLog).take len)

/-- The length of the identity certificate, at most 4,096 bytes (R388). [DESIGN CHOICE, log 14] -/
def certLength : Nat := Config.certificateLength % 4097

/-- The certificate command. -/
def State.mbIdcert (s : State) (len : Nat) : State :=
  s.mbGuard 5 len (8 + certLength) fun s =>
    s.hostWrite s.pkg.mbarg (leBytes 8 certLength ++ (List.range certLength).map Config.certificateByte)

/-- A mailbox command carried out (R386). A number that names no command is a bad argument. [DEDUCED, log 49] -/
def State.mbCommand (s : State) (v : DWord) : State :=
  let len := v.toNat / 256
  match v.toNat % 256 with
  | 1 => s.mbResume
  | 2 => s.mbAttest len
  | 3 => s.mbReload len
  | 4 => s.mbLogdump len
  | 5 => s.mbIdcert len
  | n => s.mbDone n 2

/-- A write of MBDOOR (R385): the command begins, or completes at once with STATUS 4 while another runs. [DEDUCED, log 49] -/
def State.mbDoor (s : State) (v : DWord) : State :=
  if s.pkg.cmd.isSome then s.mbDone (v.toNat % 256) 4 else s.modPkg fun p => { p with cmd := some v }

/-- The mailbox carries out the command that runs. [DEDUCED, log 49] -/
def State.mbRun (s : State) : State :=
  match s.pkg.cmd with
  | some v => (s.modPkg fun p => { p with cmd := none }).mbCommand v
  | none => s

/-- A doorbell whose command is carried out at once, unless another runs (R385). -/
def State.mbNow (s : State) (cmd : Nat) (len : BitVec 56) : State :=
  if s.pkg.cmd.isSome then s.mbDone cmd 4 else s.mbCommand (BitVec.ofNat 64 (cmd + len.toNat * 256))

/-- RESUME (R375, R386). -/
def execMbResume (len : BitVec 56) (s : State) : Host.Outcome State Fault Refusal := .next (s.mbNow 1 len)

/-- ATTEST (R386, R387). -/
def execMbAttest (len : BitVec 56) (s : State) : Host.Outcome State Fault Refusal := .next (s.mbNow 2 len)

/-- RELOAD (R386). -/
def execMbReload (len : BitVec 56) (s : State) : Host.Outcome State Fault Refusal := .next (s.mbNow 3 len)

/-- LOGDUMP: every die's error log copied to the buffer, up to LEN bytes (R386). -/
def execMbLogdump (len : BitVec 56) (s : State) : Host.Outcome State Fault Refusal := .next (s.mbNow 4 len)

/-- IDCERT (R386, R388). -/
def execMbIdcert (len : BitVec 56) (s : State) : Host.Outcome State Fault Refusal := .next (s.mbNow 5 len)

end Sys2Proof.Machine
end

