-- ==== Sys2Proof/Machine/Uniform.lean ====
section
/-! DEFINITION. Uniform arithmetic, constants, uniform pool access and lane reads (R166 to R172). -/
namespace Sys2Proof.Machine

/-- A uniform instruction of a group or a stream (R166, R269): S[d] takes a value computed from the uniform registers
before the write. -/
def State.uniform (s : State) (st : Nat) (d : Fin 128) (srcs : List (Fin 128)) (f : (Fin 128 → DWord) → DWord) :
    Host.Outcome State Fault Refusal :=
  let sh : Shape := ⟨true, st, d :: srcs, srcs.map keyS, [(keyS d, 2)], .other⟩
  if s.byStream then s.issueStream sh fun y s => s.finishStream y sh { y.st with s := y.st.s.set d (f y.st.s.get) } (y.st.pc + 4)
  else s.plain sh fun x _ => x.g.writeS d (f x.g.s.get)

/-- The relation word of SCMP (R168). -/
def relation (a b : DWord) : DWord :=
  BitVec.ofNat 64 ((a == b).toNat + (a.slt b).toNat * 2 + (a.ult b).toNat * 4 + (b.slt a).toNat * 8 + (b.ult a).toNat * 16)

/-- The high half of a signed 64-bit product (R167). -/
def mulHigh (a b : DWord) : DWord := ((a.signExtend 128 * b.signExtend 128) >>> 64).setWidth 64

/-- The zero bits above the highest set bit (R169, R199). -/
def leadingZeros {w : Nat} (a : BitVec w) : Nat :=
  (List.range w).foldl (fun n i => if a.getLsbD i then w - 1 - i else n) w

/-- SADD: the wrapping sum (R167). -/
def execSadd (d a b : Fin 128) (st : Fin 8) (s : State) : Host.Outcome State Fault Refusal :=
  s.uniform st.val d [a, b] fun S => S a + S b

/-- SSUB: the wrapping difference (R167). -/
def execSsub (d a b : Fin 128) (st : Fin 8) (s : State) : Host.Outcome State Fault Refusal :=
  s.uniform st.val d [a, b] fun S => S a - S b

/-- SMUL: the low 64 bits of the product (R167). -/
def execSmul (d a b : Fin 128) (st : Fin 8) (s : State) : Host.Outcome State Fault Refusal :=
  s.uniform st.val d [a, b] fun S => S a * S b

/-- SMULH: bits [127:64] of the signed product (R167). -/
def execSmulh (d a b : Fin 128) (st : Fin 8) (s : State) : Host.Outcome State Fault Refusal :=
  s.uniform st.val d [a, b] fun S => mulHigh (S a) (S b)

/-- SAND: bitwise AND (R167). -/
def execSand (d a b : Fin 128) (st : Fin 8) (s : State) : Host.Outcome State Fault Refusal :=
  s.uniform st.val d [a, b] fun S => S a &&& S b

/-- SOR: bitwise OR (R167). -/
def execSor (d a b : Fin 128) (st : Fin 8) (s : State) : Host.Outcome State Fault Refusal :=
  s.uniform st.val d [a, b] fun S => S a ||| S b

/-- SXOR: bitwise XOR (R167). -/
def execSxor (d a b : Fin 128) (st : Fin 8) (s : State) : Host.Outcome State Fault Refusal :=
  s.uniform st.val d [a, b] fun S => S a ^^^ S b

/-- SSHL: left by S[b][5:0] (R167). -/
def execSshl (d a b : Fin 128) (st : Fin 8) (s : State) : Host.Outcome State Fault Refusal :=
  s.uniform st.val d [a, b] fun S => S a <<< ((S b).toNat % 64)

/-- SSHR: right by S[b][5:0], zeros entering (R167). -/
def execSshr (d a b : Fin 128) (st : Fin 8) (s : State) : Host.Outcome State Fault Refusal :=
  s.uniform st.val d [a, b] fun S => S a >>> ((S b).toNat % 64)

/-- SSRA: right by S[b][5:0], copies of bit 63 entering (R167). -/
def execSsra (d a b : Fin 128) (st : Fin 8) (s : State) : Host.Outcome State Fault Refusal :=
  s.uniform st.val d [a, b] fun S => (S a).sshiftRight ((S b).toNat % 64)

/-- SMIN.I64: the smaller as signed (R167). -/
def execSminI64 (d a b : Fin 128) (st : Fin 8) (s : State) : Host.Outcome State Fault Refusal :=
  s.uniform st.val d [a, b] fun S => if (S a).slt (S b) then S a else S b

/-- SMAX.I64: the larger as signed (R167). -/
def execSmaxI64 (d a b : Fin 128) (st : Fin 8) (s : State) : Host.Outcome State Fault Refusal :=
  s.uniform st.val d [a, b] fun S => if (S a).slt (S b) then S b else S a

/-- SMIN.N64: the smaller as unsigned (R167). -/
def execSminN64 (d a b : Fin 128) (st : Fin 8) (s : State) : Host.Outcome State Fault Refusal :=
  s.uniform st.val d [a, b] fun S => if (S a).ult (S b) then S a else S b

/-- SMAX.N64: the larger as unsigned (R167). -/
def execSmaxN64 (d a b : Fin 128) (st : Fin 8) (s : State) : Host.Outcome State Fault Refusal :=
  s.uniform st.val d [a, b] fun S => if (S a).ult (S b) then S b else S a

/-- SCMP: the relation word (R168). -/
def execScmp (d a b : Fin 128) (st : Fin 8) (s : State) : Host.Outcome State Fault Refusal :=
  s.uniform st.val d [a, b] fun S => relation (S a) (S b)

/-- SSEL: S[a] if the old S[d] is not 0, else S[b] (R167). -/
def execSsel (d a b : Fin 128) (st : Fin 8) (s : State) : Host.Outcome State Fault Refusal :=
  s.uniform st.val d [a, b, d] fun S => if S d != 0 then S a else S b

/-- SMOV: a copy (R169). -/
def execSmov (d a : Fin 128) (st : Fin 8) (s : State) : Host.Outcome State Fault Refusal :=
  s.uniform st.val d [a] fun S => S a

/-- SPOPC: the number of set bits (R169). -/
def execSpopc (d a : Fin 128) (st : Fin 8) (s : State) : Host.Outcome State Fault Refusal :=
  s.uniform st.val d [a] fun S => BitVec.ofNat 64 (popcount (S a))

/-- SCLZ: the zero bits above the highest set bit, 64 for 0 (R169). -/
def execSclz (d a : Fin 128) (st : Fin 8) (s : State) : Host.Outcome State Fault Refusal :=
  s.uniform st.val d [a] fun S => BitVec.ofNat 64 (leadingZeros (S a))

/-- SLI: a sign-extended 14-bit constant (R170). -/
def execSli (d : Fin 128) (imm : BitVec 14) (st : Fin 8) (s : State) : Host.Outcome State Fault Refusal :=
  s.uniform st.val d [] fun _ => imm.signExtend 64

/-- SLIH: the register shifted left by 14 with a constant in its low bits (R170). -/
def execSlih (d : Fin 128) (imm : BitVec 14) (st : Fin 8) (s : State) : Host.Outcome State Fault Refusal :=
  s.uniform st.val d [d] fun S => (S d <<< 14) ||| imm.setWidth 64

/-- SRDL: one lane's register, or 0 when its position is beyond GRANT or its lane exited or vacant (R172). -/
def execSrdl (d : Fin 128) (a : Fin 64) (b : Fin 128) (st : Fin 8) (s : State) : Host.Outcome State Fault Refusal :=
  s.plain ⟨true, st.val, [d, b], [keyV a, keyS b], [(keyS d, 4)], .other⟩ fun x _ =>
    let p := Fin.ofNat 64 ((x.g.s.get b).toNat % 64)
    let gone := decide (x.g.grant.lanes ≤ p.val) || x.g.lst.get p == .exited || x.g.lst.get p == .vacant
    x.g.writeS d (if gone then 0 else (x.g.readV a p).setWidth 64)

/-- The pool address of SLD and SST: S[a] plus the signed immediate in units of 8 bytes (R171). -/
def uniformAddr (g : Group) (a : Fin 128) (imm : BitVec 7) : DWord := g.s.get a + imm.signExtend 64 * 8

/-- The checks of SLD and SST (R171): PERM outside scratch, ahead of ALIGN (R9). -/
def uniformFault (x : Ctx) (a : DWord) : Option Byte :=
  if x.grid.scratchBytes < a.toNat + 8 then some 0x08
  else if a.toNat % 8 ≠ 0 then some 0x0A
  else none

/-- What a paired team's access to the partner core's half adds to the group's next issue (R66). -/
def farHold (s : State) (x : Ctx) (o : Nat) : Nat := if s.scratchFar x.c x.t o then 16 else 0

/-- SLD: 8 bytes of scratch into a uniform register (R171). -/
def execSld (d a : Fin 128) (imm : BitVec 7) (st : Fin 8) (s : State) : Host.Outcome State Fault Refusal :=
  let sh : Shape := ⟨true, st.val, [d, a], [keyS a], [(keyS d, 6)], .load⟩
  s.issue sh fun x s =>
    let addr := uniformAddr x.g a imm
    if s.acquiring x then s.hold x
    else match uniformFault x addr with
      | some code => s.faultAll x sh code addr (plainDetail code) 0
      | none =>
        let l := s.scratchLoc x.c x.t addr.toNat
        match s.consume (dieOf x.c) 0 l.1 l.2 8 (some (x.gid.val, x.grid.space)) with
        | (true, s) => s.faultAll x sh 0x11 addr 0 0
        | (false, s) =>
          let sh := { sh with st := sh.st + farHold s x addr.toNat }
          s.finish x sh ((s.noteSpan x addr.toNat 8 x.g).writeS d (BitVec.ofNat 64 (s.scratchNum x.c x.t addr.toNat 8))) (fun _ => x.pc + 4) []

/-- SST: a uniform register into 8 bytes of scratch (R171). -/
def execSst (d a : Fin 128) (imm : BitVec 7) (st : Fin 8) (s : State) : Host.Outcome State Fault Refusal :=
  let sh : Shape := ⟨true, st.val, [d, a], [keyS a, keyS d], [], .store⟩
  s.issue sh fun x s =>
    let addr := uniformAddr x.g a imm
    if s.acquiring x then s.hold x
    else match uniformFault x addr with
      | some code => s.faultAll x sh code addr (plainDetail code) 0
      | none =>
        let sh := { sh with st := sh.st + farHold s x addr.toNat }
        ((s.scratchPut x.c x.t addr.toNat 8 (x.g.s.get d).toNat).tagSpan x addr.toNat 8).finish x sh x.g (fun _ => x.pc + 4) []

end Sys2Proof.Machine
end

