-- ==== Sys2Proof/Machine/Known.lean ====
section
/-! DEFINITION. The values that Rennet knows at quotation (R402): what uniform registers and tile shapes hold along every
path that reaches an instruction. -/
namespace Sys2Proof.Machine

/-- What is known before an instruction: S0 to S127, then TSH0 to TSH15. -/
abbrev Known := List (Option DWord)

/-- A known register, a known shape, and one of them replaced. -/
def Known.s (k : Known) (r : Nat) : Option DWord := (k[r]?).join
def Known.tsh (k : Known) (t : Fin 16) : Option Word := (k.s (128 + t.val)).map fun v => v.setWidth 32
def Known.put (k : Known) (r : Nat) (v : Option DWord) : Known := k.set r v

/-- What two paths agree on. -/
def Known.meet (a b : Known) : Known := List.zipWith (fun x y => if x = y then x else none) a b

/-- Nothing known. -/
def Known.nothing : Known := List.replicate 144 none

/-- What a kernel starts with: the argument words of the launch record, and 0 elsewhere (R53, R319). [DEDUCED, log 62] -/
def Known.start (args : List DWord) : Known :=
  (List.range 144).map fun i => some (if i < 128 then args.getD i 0 else 0)

/-- The identity values fixed for a team (R182, R402): its grid coordinates and its core. -/
structure Ident where
  coord : Nat × Nat × Nat
  core : Fin 128
  deriving DecidableEq, Repr

/-- A coordinate by axis. -/
def Ident.axis (i : Ident) (a : Fin 3) : Nat := if a = 0 then i.coord.1 else if a = 1 then i.coord.2.1 else i.coord.2.2

/-- The shape that TTRN gives its destination (R260). -/
def transposed (t : Word) : Word :=
  BitVec.ofNat 32 (field t.toNat 0 3 + field t.toNat 8 12 / 16 % 16 * 2 ^ 4 + 16 * field t.toNat 4 4 * 2 ^ 8)

/-- The value that a uniform instruction makes of known ones, with its destination; none for any other instruction. -/
def uniformValue (who : Ident) (k : Known) (i : Instr) : Option (Nat × Option DWord) :=
  let two (d a b : Fin 128) (f : DWord → DWord → DWord) : Option (Nat × Option DWord) :=
    some (d.val, (k.s a.val).bind fun x => (k.s b.val).map (f x))
  let one (d a : Fin 128) (f : DWord → DWord) : Option (Nat × Option DWord) := some (d.val, (k.s a.val).map f)
  match i with
  | .sadd d a b _ => two d a b (· + ·)
  | .ssub d a b _ => two d a b (· - ·)
  | .smul d a b _ => two d a b (· * ·)
  | .smulh d a b _ => two d a b mulHigh
  | .sand d a b _ => two d a b (· &&& ·)
  | .sor d a b _ => two d a b (· ||| ·)
  | .sxor d a b _ => two d a b (· ^^^ ·)
  | .sshl d a b _ => two d a b fun x y => x <<< (y.toNat % 64)
  | .sshr d a b _ => two d a b fun x y => x >>> (y.toNat % 64)
  | .ssra d a b _ => two d a b fun x y => x.sshiftRight (y.toNat % 64)
  | .sminI64 d a b _ => two d a b fun x y => if x.slt y then x else y
  | .smaxI64 d a b _ => two d a b fun x y => if x.slt y then y else x
  | .sminN64 d a b _ => two d a b fun x y => if x.ult y then x else y
  | .smaxN64 d a b _ => two d a b fun x y => if x.ult y then y else x
  | .scmp d a b _ => two d a b relation
  | .ssel d a b _ => some (d.val, (k.s d.val).bind fun c => (k.s a.val).bind fun x => (k.s b.val).map fun y => if c != 0 then x else y)
  | .smov d a _ => one d a fun x => x
  | .spopc d a _ => one d a fun x => BitVec.ofNat 64 (popcount x)
  | .sclz d a _ => one d a fun x => BitVec.ofNat 64 (leadingZeros x)
  | .sli d imm _ => some (d.val, some (imm.signExtend 64))
  | .slih d imm _ => one d d fun x => (x <<< 14) ||| imm.setWidth 64
  | .grid d axis _ => some (d.val, some (BitVec.ofNat 64 (who.axis axis)))
  | .core d _ => some (d.val, some (BitVec.ofNat 64 who.core.val))
  | .die d _ => some (d.val, some (BitVec.ofNat 64 (dieOf who.core).val))
  | .tcfg t a _ => some (128 + t.val, (k.s a.val).map fun v => (v.setWidth 32).setWidth 64)
  | .ttrn tx ty _ => some (128 + tx.val, (k.tsh ty).map fun v => (transposed v).setWidth 64)
  | _ => none

/-- What is known after a site. -/
def knownStep (who : Ident) (k : Known) (x : Site) : Known :=
  match x.code.bind (uniformValue who k) with
  | some (r, v) => k.put r v
  | none => x.info.sw.foldl (fun k r => k.put r none) k

/-- What is known before each site that the starts reach. -/
def knownFrom (who : Ident) (g : Graphed) (starts : List (Nat × Known)) : List (Nat × Known) :=
  let meetAt (m : List (Nat × Known)) (a : Nat) (v : Known) : List (Nat × Known) :=
    match m.find? fun e => e.1 == a with
    | none => (a, v) :: m
    | some e => let w := e.2.meet v; if w = e.2 then m else putValue m a w
  settled (fun m => g.foldl (fun m e => match m.find? fun y => y.1 == e.1.off with
      | none => m
      | some y => let out := knownStep who y.2 e.1; e.2.foldl (fun m a => meetAt m a out) m) m)
    (145 * g.length + 1) starts

/-- What is known before each site of a kernel. A stream starts with the registers of the group that forked it (R268). [DEDUCED, log 62] -/
def knownAt (who : Ident) (k : Kern) (g : Graphed) (args : List DWord) : List (Nat × Known) :=
  let init := Known.start args
  let main := knownFrom who g [(k.entry.toNat, init)]
  let forks := g.filterMap fun e => match e.1.code with
    | some (.fork ..) => (main.find? fun y => y.1 == e.1.off).map Prod.snd
    | _ => none
  let base := match forks with
    | [] => init
    | v :: vs => vs.foldl Known.meet v
  let streams := knownFrom who g ((k.strms.map fun e => (e.1, base)).eraseDups)
  streams.foldl (fun m e => match m.find? fun y => y.1 == e.1 with
    | none => e :: m
    | some y => putValue m e.1 (y.2.meet e.2)) main

end Sys2Proof.Machine
end

