-- ==== Sys2Proof/Machine/Charge.lean ====
section
/-! DEFINITION. What Rennet charges one instruction (R47, R49, R66, R68, R191, R220, R252, R275, R402): cycles and energy. -/
namespace Sys2Proof.Machine

/-- Core cycles and femtojoules. -/
abbrev Charge := Nat × Nat

/-- The sum of two charges, a charge several times over, and the costlier: more cycles, or more energy with as many. [DEDUCED, log 66] -/
def Charge.add (a b : Charge) : Charge := (a.1 + b.1, a.2 + b.2)
def Charge.times (n : Nat) (a : Charge) : Charge := (n * a.1, n * a.2)
def Charge.worse (a b : Charge) : Charge := if a.1 < b.1 ∨ (a.1 = b.1 ∧ a.2 < b.2) then b else a

/-- What the walk of a group or a stream is told (R322, R402): the kernel and its sites, the format slots, the threads of
the group (0 for a stream), whether the team is paired, the launch record's figures, the extra cycles of each matrix
instruction (R322), what is known before each site, and the class of the frame at a known pinned address. -/
structure Walk where
  kern : Kern
  ss : List Site
  full : Graphed
  waits : List Nat
  fmt : Tab Word 8
  lanes : Nat
  paired : Bool
  extlat : Nat
  extfj : Nat
  extra : Nat
  known : List (Nat × Known)
  frame : DWord → Option Nat

/-- Words of 4 bytes that hold `n` bytes. -/
def words4 (n : Nat) : Nat := (n + 3) / 4

/-- Energy of a vault access of a class per 4 bytes, in fJ (R49, R252): own vault, same die, other die, CXL or peer. -/
def classEnergy (extfj cls : Nat) : Nat :=
  match cls with
  | 0 => 48000
  | 1 => 52000
  | 2 => 72000
  | _ => extfj

/-- The class charged for an address that is not known: other die, or CXL or peer when that costs more (R402). -/
def farClass (extfj : Nat) : Nat := if 72000 < extfj then 3 else 2

/-- The bound of a latency class (R48, R323). -/
def classBound (extlat cls : Nat) : Nat :=
  match cls with
  | 0 => 640
  | 1 => 800
  | 2 => 1200
  | _ => extlat

/-- The declared class of a queue (R159). -/
def queueClass (k : Kern) (q : Fin 8) : Nat := field (k.queues.get q).toNat 7 2

/-! ### The engines (R275) -/

/-- The bytes of a tile by its shape; the largest tile when it is not known (R258). -/
def Walk.tileBytes (w : Walk) (t : Option Word) : Nat :=
  t.elim 16384 fun t => tshRows t * tshCols t * slotWidth (w.fmt.get (tshSlot t)) / 8

/-- Energy of a multiply-accumulate by operand width, in fJ (R49). -/
def macEnergy (width : Nat) : Nat := if width = 4 then 60 else if width = 8 then 120 else 480

/-- Cycles and energy of MMA and MMAS by the shapes of their tiles (R263, R264, R275). [DEDUCED, log 63] -/
def Walk.product (w : Walk) (tx ty : Option Word) (sparse : Bool) : Charge :=
  let desc (t : Option Word) : Option Word := t.map fun t => w.fmt.get (tshSlot t)
  let width := match desc tx, desc ty with
    | some d, _ => slotWidth d
    | none, some d => slotWidth d
    | none, none => 16
  let m := tx.elim 128 tshRows
  let n := ty.elim 128 tshRows
  let k := match tx, ty with
    | some t, _ => if sparse then 2 * tshCols t else tshCols t
    | none, some t => tshCols t
    | none, none => if sparse then 128 else 64
  let macs := if sparse then m * n * k / 2 else m * n * k
  let scales (d : Option Word) (rows : Nat) : Nat := match d with
    | some d => if slotSck d = 1 then (if blockSize d = 0 then 0 else rows * (k / blockSize d)) else 0
    | none => rows * (k / 16)
  let extra := if sparse then m * (k / 4) else 0
  (ceilDiv macs (macRate width),
    macs * macEnergy width + 2500 * words4 (w.tileBytes tx + w.tileBytes ty + extra) + 2 * 2500 * (m * n)
      + 500 * (scales (desc tx) m + scales (desc ty) n))

/-- E and the energy of a matrix instruction, and of FORK (R275), beside 0.6 pJ and its issue; none for any other instruction. [DEDUCED, log 63] -/
def Walk.engine (w : Walk) (k : Known) (i : Instr) : Option Charge :=
  let len (r : Nat) (bits most : Nat) : Nat := (k.s r).elim most fun v => field v.toNat 32 bits
  match i with
  | .tcfg _ a _ => some (2, 2500 * words4 (w.tileBytes ((k.s a.val).map fun v => v.setWidth 32)))
  | .tzero t _ => some (2, 2500 * words4 (w.tileBytes (k.tsh t)))
  | .tld t _ _ | .tst t _ _ => let b := w.tileBytes (k.tsh t); some (4 + ceilDiv b 256, 2 * 2500 * words4 b)
  | .ttrn _ ty _ => let b := w.tileBytes (k.tsh ty); some (4 + ceilDiv b 256, 2 * 2500 * words4 b)
  | .scld a _ => let n := len (a.val + 1) 18 0x20000; some (4 + ceilDiv n 256, 2500 * words4 n + 500 * n)
  | .mma tx ty _ _ => some (w.product (k.tsh tx) (k.tsh ty) false)
  | .mmas tx ty _ _ => some (w.product (k.tsh tx) (k.tsh ty) true)
  | .accz a _ => let n := len a.val 23 0x400000; some (4 + ceilDiv n 1024, 2500 * words4 n)
  | .accld a _ => let n := len a.val 23 0x400000; some (4 + ceilDiv n 256, 2 * 2500 * words4 n)
  | .accst fs a _ =>
    let (rows, cols) := (k.s a.val).elim (128, 128) fun v => (field v.toNat 32 8, field v.toNat 40 8)
    some (8 + ceilDiv (rows * cols * 4) 256,
      2500 * (rows * cols) + 2500 * words4 (rows * (cols * slotWidth (w.fmt.get fs) / 8)) + 800 * (rows * cols))
  | .mfrd .. | .fork .. => some (2, 0)
  | _ => none

/-- Whether an instruction is a matrix instruction (R253). -/
def matrixKind (i : Instr) : Bool :=
  match i with
  | .tcfg .. | .tld .. | .tst .. | .tzero .. | .ttrn .. | .scld .. | .mma .. | .mmas .. | .accz .. | .accld .. | .accst ..
  | .mfrd .. => true
  | _ => false

/-! ### Energy by address (R252, R402) -/

/-- The class of a counter's address. -/
def Walk.counterClass (w : Walk) (va : Option DWord) : Nat := (va.bind w.frame).getD (farClass w.extfj)

/-- Bytes that a bulk or peer transfer is charged: those of its site's XFER entry, or the largest. [DEDUCED, log 63] -/
def Walk.transfer (w : Walk) (off most : Nat) : Nat := ((w.kern.xfers.find? fun e => e.1 == off).map Prod.snd).getD most

/-- The energy of `n` bytes of a copy from an address up, each 64 KiB piece at the class of its frame (R402); there are two at most. -/
def Walk.copySide (w : Walk) (n : Nat) (va : Option DWord) : Nat :=
  let piece (va : Option DWord) (n : Nat) : Nat := words4 n * classEnergy w.extfj ((va.bind w.frame).getD (farClass w.extfj))
  let first := va.elim n fun v => min n (65536 - v.toNat % 65536)
  piece va first + piece (va.map fun v => v + BitVec.ofNat 64 first) (n - first)

/-- One lane's copy: its bytes at both sides (R241, R252). A side that adds the lane's index register has no known address; one that
adds TID × STRIDE has one when STRIDE is known to be 0. [DEDUCED, log 63] -/
def Walk.copyLane (w : Walk) (k : Known) (b : Nat) (srcFixed dstFixed : Bool) : Nat :=
  let (n, sp, dp) := (k.s (b + 2)).elim (4096, false, false) fun v =>
    (field v.toNat 0 13, field v.toNat 13 1 == 1, field v.toNat 14 1 == 1)
  let base (fixed : Bool) (r : Nat) : Option DWord := if fixed && k.s (b + 3) == some 0 then k.s r else none
  let side (pool fixed : Bool) (r : Nat) : Nat := if pool then 2500 * words4 n else w.copySide n (base fixed r)
  side sp srcFixed b + side dp dstFixed (b + 1)

/-- The energy of an instruction that depends on what it accesses, in fJ. -/
def Walk.accessEnergy (w : Walk) (k : Known) (off : Nat) (i : Instr) : Nat :=
  let far := classEnergy w.extfj (farClass w.extfj)
  let queue (q : Fin 8) : Nat := classEnergy w.extfj (queueClass w.kern q)
  match i with
  | .sld .. | .sst .. => 5000
  | .pld .. | .pst .. => 2500 * w.lanes
  | .pldw x4 .. | .pstw x4 .. => 2500 * wideWords x4 * w.lanes
  | .patom .. => 5000 * w.lanes
  | .qld q .. | .qst q .. => queue q * w.lanes
  | .qatom _ _ _ q .. => 2 * queue q * w.lanes
  | .qpop .. => 2500 * w.lanes
  | .qpf q .. => 16 * queue q * w.lanes
  | .cpy _ _ sb .. => w.copyLane k sb.val false false * w.lanes
  | .cpyg _ _ sb .. => w.copyLane k sb.val false true * w.lanes
  | .cpys _ _ sb .. => w.copyLane k sb.val true false * w.lanes
  | .cbulk .. => words4 (w.transfer off ((2 ^ 32 - 1) * (2 ^ 32 - 1))) * (2 * far)
  | .rput .. | .rget .. => words4 (w.transfer off (2 ^ 24 - 4)) * (far + w.extfj)
  | .cntadd _ a _ _ | .cntwait _ a _ _ => 2 * classEnergy w.extfj (w.counterClass (k.s a.val))
  | .wqpop .. | .wqpush .. | .grec .. | .gemit .. => 16 * 48000
  | .ctxsv .. | .ctxld .. => 48000 * words4 Config.contextTraffic
  | _ => 0

/-- The words of scratch of a copy instruction's lanes: those of its sides in scratch, none without such a side. Of a block that is not
known, whose sides are charged as vault accesses, the access counts alone. [DEDUCED, log 64] -/
def Walk.copyWords (w : Walk) (k : Known) (b : Nat) : Option Nat :=
  match k.s (b + 2) with
  | none => some 0
  | some v =>
    let sides := field v.toNat 13 1 + field v.toNat 14 1
    if sides = 0 then none else some (sides * words4 (field v.toNat 0 13) * w.lanes)

/-- Words of 4 bytes of pool scratch that an instruction moves, which a paired team's access carries over the mesh (R66);
none for an instruction that does not access scratch. The sides of a transfer whose descriptor lies in scratch are not known, and are
charged as vault accesses. [DEDUCED, log 64] -/
def Walk.poolWords (w : Walk) (k : Known) (i : Instr) : Option Nat :=
  match i with
  | .sld .. | .sst .. => some 2
  | .pld .. | .pst .. | .patom .. => some w.lanes
  | .pldw x4 .. | .pstw x4 .. => some (wideWords x4 * w.lanes)
  | .tld t _ _ | .tst t _ _ => some (words4 (w.tileBytes (k.tsh t)))
  | .scld a _ => some (words4 ((k.s (a.val + 1)).elim 0x20000 fun v => field v.toNat 32 18))
  | .accld a _ => some (words4 ((k.s a.val).elim 0x400000 fun v => field v.toNat 32 23))
  | .accst fs a _ =>
    let (rows, cols) := (k.s a.val).elim (128, 128) fun v => (field v.toNat 32 8, field v.toNat 40 8)
    some (words4 (rows * (cols * slotWidth (w.fmt.get fs) / 8)))
  | .cpy _ _ sb .. | .cpyg _ _ sb .. | .cpys _ _ sb .. => w.copyWords k sb.val
  | .cbulk .. | .rput .. | .rget .. => some 0
  | _ => none

/-! ### QPOP (R47) -/

/-- What a path brings to a site: the pushes that stand in the queue, the oldest first, and how often it has branched back at the BRB
of each loop that counts. -/
structure QPath where
  pushes : List Nat
  backs : List (Nat × Nat)
  deriving DecidableEq, Repr

/-- Whether every way on of the second path is open to the first: it has branched back no more often. -/
def QPath.covers (p r : QPath) : Bool := p.pushes == r.pushes && p.backs.all fun e => decide (e.2 ≤ valueAt 0 r.backs e.1)

/-- What a site makes of a queue's entries; none where a path finds no room or nothing to pop. [DEDUCED, log 65] -/
def queueStep (q : Fin 8) (depth : Nat) (x : Site) (l : List Nat) : Option (List Nat) :=
  match x.code with
  | some (.qld p ..) | some (.qatom _ _ _ p ..) =>
    if p = q then (if l.length < depth then some (l ++ [x.off]) else none) else some l
  | some (.qpop _ p _) => if p = q then (if l.isEmpty then none else some (l.drop 1)) else some l
  | _ => some l

/-- The loops whose bodies move a queue's entries: the others may be taken any number of times to no effect. -/
def Walk.movers (w : Walk) (q : Fin 8) : List Nat :=
  let moves (x : Site) : Bool := match x.code with
    | some (.qld p ..) | some (.qatom _ _ _ p ..) | some (.qpop _ p _) => p == q
    | _ => false
  w.ss.filterMap fun x => match x.code with
    | some (.brb d _ lid _) =>
      let body := reachFrom w.full (offsetIn (targetOf x.off d))
      if w.ss.any fun y => moves y && body.contains y.off && (reachFrom w.full [y.off]).contains x.off then some lid.val else none
    | _ => none

/-- A path over the way from a site to one that follows it: LENTER starts its loop's count, and a BRB branches back less often than its
bound (R47). -/
def Walk.qstep (w : Walk) (q : Fin 8) (movers : List Nat) (x : Site) (next : Nat) (p : QPath) : Option QPath :=
  (queueStep q (field (w.kern.queues.get q).toNat 0 7) x p.pushes).bind fun l => match x.code with
    | some (.lenter lid _) => some ⟨l, p.backs.filter fun e => e.1 != lid.val⟩
    | some (.brb _ _ lid _) =>
      let n := valueAt 0 p.backs lid.val + 1
      if next = x.next || !movers.contains lid.val then some ⟨l, p.backs⟩
      else if n < valueAt (2 ^ 32 - 1) w.kern.loops lid.val then some ⟨l, putValue p.backs lid.val n⟩ else none
    | _ => some ⟨l, p.backs⟩

/-- What the paths from the kernel's entry, with the queue empty, bring to each site. A path that another covers is not followed, so the
walk ends, and `fuel` is more than its steps. [DEDUCED, log 65] -/
def Walk.contents (w : Walk) (q : Fin 8) : List (Nat × List QPath) :=
  let movers := w.movers q
  let fuel := (w.ss.length + 2) ^ 66 * 2 ^ (32 * (movers.length + 1))
  let add (old : List QPath) (p : QPath) : List QPath :=
    if old.any fun o => o.covers p then old else p :: old.filter fun o => !p.covers o
  settled (fun m => w.full.foldl (fun m e =>
      let here := valueAt [] m e.1.off
      e.2.foldl (fun m a =>
        let old := valueAt [] m a
        let new := (here.filterMap (w.qstep q movers e.1 a)).foldl add old
        if new = old then m else putValue m a new) m) m)
    fuel [(w.kern.entry.toNat, [⟨[], []⟩])]

/-- The one push whose entry a QPOP removes, if the code's structure fixes it. -/
def Walk.matching (w : Walk) (off : Nat) (q : Fin 8) : Option Nat :=
  match ((valueAt [] (w.contents q) off).filterMap fun p => p.pushes.head?).eraseDups with
  | [a] => some a
  | _ => none

/-- The least distances from a site, by the weight of each site that a path leaves. -/
def distances (g : Graphed) (weight : Site → Nat) (start : Nat) : List (Nat × Nat) :=
  settled (fun m => g.foldl (fun m e => match m.find? fun y => y.1 == e.1.off with
      | none => m
      | some y =>
        let d := y.2 + weight e.1
        e.2.foldl (fun m a => match m.find? fun z => z.1 == a with
          | none => (a, d) :: m
          | some z => if d < z.2 then putValue m a d else m) m) m)
    (g.length + 1) [(start, 0)]

/-- The sections's graph with each call as one instruction. -/
def Walk.flat (w : Walk) : Graphed := w.ss.map fun x => (x, flatSuccessors w.ss x)

/-- The least issue time of a called path, from a target to the RET that ends it, `n` calls deep; waits count 0. -/
def Walk.through (w : Walk) : Nat → Nat → Nat
  | 0, _ => 0
  | n + 1, target =>
    let weight (x : Site) : Nat :=
      let own := if w.waits.contains x.off then 0 else 1 + x.info.st
      let ts := match x.code.map (flowOf x.off) with
        | some (.call t) => offsetIn t
        | some .calli => targetsAt w.kern x.off
        | _ => []
      own + ((ts.map (w.through n)).min?).getD 0
    let ds := distances w.flat weight target
    let ends := w.ss.filterMap fun x => match x.code with
      | some (.ret _) => (ds.find? fun y => y.1 == x.off).map fun y => y.2 + weight x
      | _ => none
    (ends.min?).getD 0

/-- E of a QPOP (R47): the least issue time from its push to it, calls and returns followed as they match, or along the
whole graph where the two stand in different routines. [DEDUCED, log 64] -/
def Walk.issueTime (w : Walk) (off : Nat) (q : Fin 8) : Nat :=
  match w.matching off q with
  | none => 0
  | some push =>
    let own (x : Site) : Nat := if w.waits.contains x.off then 0 else 1 + x.info.st
    let called (x : Site) : Nat :=
      let ts := match x.code.map (flowOf x.off) with
        | some (.call t) => offsetIn t
        | some .calli => targetsAt w.kern x.off
        | _ => []
      own x + ((ts.map (w.through (w.kern.depth + 1))).min?).getD 0
    match (distances w.flat called push).find? fun y => y.1 == off with
    | some y => y.2
    | none => valueAt 0 (distances w.full own push) off

/-! ### Bank writes (R49) -/

/-- Whether every path after a site reads a register with LAST within its next `n` instructions, before it writes it, or ends
there, so that the result never leaves the window (R49, R58). -/
def Walk.readLast (w : Walk) (r : Nat) : Nat → List Nat → Bool
  | 0, next => next.isEmpty
  | n + 1, next =>
    next.all fun a => match w.full.find? fun e => e.1.off == a with
      | none => false
      | some e => (e.1.info.marks.any fun m => m.2.1 && m.2.2.contains r)
          || (!e.1.info.vw.contains r && w.readLast r n e.2)

/-- The bank writes of a site: its results that are still live when it leaves the forwarding window. [DEDUCED, log 66] -/
def Walk.bankWrites (w : Walk) (x : Site) : Nat :=
  let next := ((w.full.find? fun e => e.1.off == x.off).map Prod.snd).getD []
  (x.info.vw.eraseDups.filter fun r => !w.readLast r 7 next).length

/-! ### One instruction -/

/-- What a wait site is charged beside the instruction (R47). -/
def Walk.waitCharge (w : Walk) (off : Nat) : Nat :=
  if w.waits.contains off then ((w.kern.waits.find? fun e => e.1 == off).map Prod.snd).getD 0 else 0

/-- Results of the compact instructions just passed, with the cycles of latency that they leave (R46, R47). -/
abbrev Run := List (Nat × Nat)

/-- The hold of a site that reads a result of the run, and the run after it. The reads of one instruction wait together, so it is
charged the longest of their holds. [DEDUCED, log 103] -/
def Walk.hold (w : Walk) (x : Site) (run : Run) : Nat × Run :=
  let reads := x.reads w.kern
  let held := (run.filter fun e => reads.contains e.1).foldl (fun m e => max m e.2) 0
  if x.wide then (held, [])
  else
    let old := (run.filter fun e => !x.writes.contains e.1 && decide (1 < e.2)).map fun e => (e.1, e.2 - 1)
    (held, old ++ (x.writes.filter fun _ => decide (1 < x.info.lat)).map fun r => (r, x.info.lat - 1))

/-- What a FENCE is charged beside its issue (R234): the latency of a uniform instruction, and the bound of the slowest class of the
writes that lead to it and that it waits for: those of .rel and .ar at a scope that the core's own order does not meet. [DEDUCED, log 103] -/
def Walk.fenceWait (w : Walk) (off : Nat) (ord : FenceOrd) (sc : Scope) : Nat :=
  if ord == .acq || !(scopeWide sc || (w.paired && sc == .team)) then 2
  else
    let before := w.full.filter fun e => (reachFrom w.full e.2).contains off
    before.foldl (fun m e => max m (match e.1.code with
      | some (.qst q ..) | some (.qatom _ _ _ q ..) => classBound w.extlat (queueClass w.kern q)
      | some (.cntadd _ a _ _) => classBound w.extlat (w.counterClass ((valueAt Known.nothing w.known e.1.off).s a.val))
      | _ => 0)) 0 + 2

/-- The charge of one instruction, without its callee and without a hold. -/
def Walk.charge (w : Walk) (x : Site) : Charge :=
  match x.code with
  | none => (1, 0)
  | some i =>
    let k := valueAt Known.nothing w.known x.off
    let base := 1 + x.info.st
    let pool := w.poolWords k i
    let eng := w.engine k i
    let cycles := match eng with
      | some e => max base e.1 + (if matrixKind i then w.extra else 0)
      | none => base
    let more := match i with
      | .brm .. => 256
      | .fence ord sc _ => w.fenceWait x.off ord sc
      | .qpop _ q _ => classBound w.extlat (queueClass w.kern q) - w.issueTime x.off q
      | _ => if poolKind i then ((w.kern.passes.find? fun e => e.1 == x.off).map Prod.snd).getD 64 - 1 else 0
    let bridge := if w.paired && pool.isSome then 16 else 0
    (cycles + more + bridge + w.waitCharge x.off,
      2000 + x.info.eg + x.info.el * w.lanes + w.accessEnergy k x.off i + eng.elim 0 Prod.snd
        + (if w.paired then 4000 * pool.getD 0 else 0) + 300 * w.lanes * w.bankWrites x)

end Sys2Proof.Machine
end

