-- ==== Sys2Proof/Machine/Churn.lean ====
section
/-! DEFINITION. Churn's work on a graph's declaration: its rates (R284), its firing order and capacities (R286, R287), the
places of its buffers (R287) and the bytes of its table (R288). -/
namespace Sys2Proof.Machine

/-! ### Rates (R284) -/

/-- An edge as the ports declare it: from stage id to stage id. -/
structure RawEdge where
  id : Nat
  src : Nat
  dst : Nat
  p : Nat
  c : Nat
  deriving DecidableEq, Repr

/-- The edges of a declaration, in ascending edge id. -/
def GraphDecl.edges (g : GraphDecl) : List RawEdge :=
  sortBy RawEdge.id (g.ports.filterMap fun o =>
    if o.out then (g.ports.find? fun i => !i.out && i.edge == o.edge).map fun i => ⟨o.edge, o.stage, i.stage, o.rate, i.rate⟩
    else none)

/-- A positive fraction. -/
abbrev Frac := Nat × Nat

/-- A fraction in its lowest terms. -/
def lowest (f : Frac) : Frac :=
  let g := max 1 (Nat.gcd f.1 f.2)
  (f.1 / g, f.2 / g)

/-- The fractions known of the stages. -/
abbrev Fracs := List (Nat × Frac)

/-- What is known of a stage. -/
def fracOf (m : Fracs) (i : Nat) : Option Frac := (m.find? fun x => x.1 == i).map Prod.snd

/-- The fractions that follow over one edge. -/
def overEdge (m : Fracs) (e : RawEdge) : Fracs :=
  match fracOf m e.src, fracOf m e.dst with
  | some a, none => (e.dst, lowest (a.1 * e.p, a.2 * e.c)) :: m
  | none, some b => (e.src, lowest (b.1 * e.c, b.2 * e.p)) :: m
  | _, _ => m

/-- The fractions of all stages joined to those known, in `n` rounds. -/
def spreadRates (es : List RawEdge) : Nat → Fracs → Fracs
  | 0, m => m
  | n + 1, m => spreadRates es n (es.foldl overEdge m)

/-- The smallest whole numbers in the proportion of fractions. -/
def wholeRates (m : Fracs) : List (Nat × Nat) :=
  let l := m.foldl (fun a x => Nat.lcm a x.2.2) 1
  let ns := m.map fun x => (x.1, x.2.1 * (l / x.2.2))
  let g := max 1 (ns.foldl (fun a x => Nat.gcd a x.2) 0)
  ns.map fun x => (x.1, x.2 / g)

/-- The repetition counts of the stages, one list for each set of stages that edges join. -/
def joinedRates (es : List RawEdge) (count : Nat) : Nat → List Nat → List (List (Nat × Nat))
  | 0, _ => []
  | _ + 1, [] => []
  | n + 1, x :: xs =>
    let part := spreadRates es count [(x, (1, 1))]
    wholeRates part :: joinedRates es count n (xs.filter fun y => (fracOf part y).isNone)

/-- The repetition count of a stage. -/
def countOf (q : List (Nat × Nat)) (i : Nat) : Nat := ((q.find? fun x => x.1 == i).map Prod.snd).getD 0

/-- Whether repetition counts satisfy every edge. -/
def ratesHold (es : List RawEdge) (q : List (Nat × Nat)) : Bool :=
  es.all fun e => countOf q e.src * e.p == countOf q e.dst * e.c

/-- The stages in topological order, the lowest stage id first among those that are ready; none if the edges form a cycle. -/
def stageOrder (es : List RawEdge) : Nat → List Nat → Option (List Nat)
  | 0, rest => if rest.isEmpty then some [] else none
  | n + 1, rest =>
    match (sortBy id rest).find? fun i => es.all fun e => e.dst != i || !rest.contains e.src with
    | none => if rest.isEmpty then some [] else none
    | some i => (stageOrder es n (rest.filter fun j => j != i)).map fun l => i :: l

/-! ### The firing order (R286) -/

/-- Whether a stage has its input records, `made` being an edge's occupancy. -/
def stageReady (es : List GEdge) (i : Nat) : Bool := es.all fun e => e.dst != i || decide (e.c ≤ e.made)

/-- The occupancies after a firing of a stage, `cap` being an edge's peak. -/
def afterFiring (i : Nat) (es : List GEdge) : List GEdge :=
  es.map fun e =>
    let m := if e.dst = i then e.made - e.c else e.made
    if e.src = i then { e with made := m + e.p, cap := max e.cap (m + e.p) } else { e with made := m }

/-- The stages' repetition counts and how often each has fired. -/
abbrev Fired := List (Nat × Nat)

/-- The ready stage of the highest index that has a firing left. -/
def highestReady (es : List GEdge) (qs : Fired) : Option Nat :=
  ((List.range qs.length).reverse).find? fun i => (qs[i]?.any fun x => decide (x.2 < x.1)) && stageReady es i

/-- The simulation of one period: `n` firings at most. -/
def simulate : Nat → List GEdge → Fired → List GEntry × List GEdge
  | 0, es, _ => ([], es)
  | n + 1, es, qs =>
    match highestReady es qs with
    | none => ([], es)
    | some i =>
      let (q, fired) := qs[i]?.getD (0, 0)
      let r := simulate n (afterFiring i es) (qs.set i (q, fired + 1))
      (⟨i, fired, fired + 1 == q⟩ :: r.1, r.2)

/-! ### Buffers (R287) -/

/-- The base of a vault's window (R70). -/
def windowBase (d : Fin 4) (v : Nat) : Nat := 2 ^ 54 + d.val * 2 ^ 55 + v * 2 ^ 49

/-- Buffers placed in the permitted vaults, edge number `i` first; `ends` is where the buffers of each vault end. None if a
buffer does not fit, or no vault is permitted. [DESIGN CHOICE, log 114] -/
def placeBuffers (d : Fin 4) (vaults : List Nat) (off len : Nat) : Nat → List (Nat × Nat) → List GEdge → Option (List GEdge)
  | _, _, [] => some []
  | i, ends, e :: es =>
    match vaults[i % max 1 vaults.length]? with
    | none => none
    | some v =>
      let start := ((ends.find? fun x => x.1 == v).map Prod.snd).getD ((off + 0xFFFF) / 0x10000 * 0x10000)
      let stop := start + (64 * e.cap + 0xFFFF) / 0x10000 * 0x10000
      if off + len < stop then none
      else (placeBuffers d vaults off len (i + 1) ((v, stop) :: ends.filter fun x => x.1 != v) es).map fun l =>
        { e with addr := windowBase d v + start } :: l

/-! ### A solved graph -/

/-- What Churn finds of a declaration, or the REASON for which the bind fails (R285). The stages come in order of their index,
each with its id and its repetition count. -/
structure Solved where
  stages : List (Nat × Nat)
  edges : List GEdge
  table : List GEntry
  deriving DecidableEq, Repr

/-- The place of a stage id in the order of indices. -/
def indexIn (order : List Nat) (i : Nat) : Nat := (order.findIdx? fun x => x == i).getD 0

/-- A declaration solved (R284 to R287). `teams` is the stages' team counts by stage id, and `room` NMAX. [DEDUCED, log 73] -/
def churn (g : GraphDecl) (teams : List (Nat × Nat)) (room : Nat) (d : Fin 4) (vaults : List Nat) (off len : Nat) :
    Except Nat Solved :=
  let ids := g.stages.map Prod.fst
  let es := g.edges
  let parts := joinedRates es ids.length ids.length ids
  let q := parts.flatten
  let total := (q.map Prod.snd).sum
  if ratesHold es q = false then .error 1
  else match stageOrder es ids.length ids with
    | none => .error 2
    | some order =>
      if parts.length ≠ 1 then .error 3
      else if 64 < ids.length ∨ (q.any fun x => decide (65535 < x.2)) ∨ (teams.any fun x => decide (65535 < x.2)) ∨ room < total then
        .error 4
      else
        let edges := es.map fun e =>
          (⟨e.id, indexIn order e.src, indexIn order e.dst, e.p, e.c, countOf q e.src * e.p, 0, 0, 0, 0⟩ : GEdge)
        let (table, peaks) := simulate total edges (order.map fun i => (countOf q i, 0))
        let sized := peaks.map fun e => { e with cap := e.cap + e.n, made := 0 }
        match placeBuffers d vaults off len 0 [] sized with
        | none => .error 5
        | some edges => .ok ⟨order.map fun i => (i, countOf q i), edges, table⟩

/-- The lowest-numbered in-edge or out-edge of a stage. -/
def firstEdge (es : List GEdge) (stage : Nat) (out : Bool) : Option GEdge :=
  (sortBy GEdge.id (es.filter fun e => (if out then e.src else e.dst) == stage)).head?

/-- The 16 bytes of a table entry (R288). -/
def entryBytes16 (p : GPlan) (e : GEntry) : List Byte :=
  let st := p.stages[e.stage]?
  let offset (out : Bool) : Nat := (firstEdge p.edges e.stage out).elim 0xFFFFFFFF fun x => e.fire * (if out then x.p else x.c)
  leBytes 2 (st.elim 0 GStage.id) ++ leBytes 2 (st.elim 0 GStage.teams) ++ leBytes 2 e.fire
    ++ leBytes 1 (if e.last then e.stage else 0xFF) ++ leBytes 1 0 ++ leBytes 4 (offset false) ++ leBytes 4 (offset true)

/-- The bytes of a firing table. -/
def GPlan.tableBytes (p : GPlan) : List Byte := p.table.flatMap (entryBytes16 p)

end Sys2Proof.Machine
end

