-- ==== Sys2Proof/Machine/Front.lean ====
section
/-! DEFINITION. A die's front end: its launch queues and their commands (R315 to R317), and LOAD and UNLOAD (R318). -/
namespace Sys2Proof.Machine

/-! ### Launch queues -/

/-- A launch queue's entry as a die's front end sees it (R316): valid, below COUNT, and naming a die of the same partition. -/
def State.liveQueue (s : State) (d : Fin 4) (q : Nat) : Option Nat :=
  let e := s.queueEntry d q
  let w := s.pnum (e + 0x10) 8
  if q < field (s.die d).lqtab.toNat 0 8 ∧ field w 37 1 = 1
      ∧ (s.die (Fin.ofNat 4 (field w 38 2))).part = (s.die d).part then some e
  else none

/-- Whether a die's front end has a command to take from a queue: HEAD has not reached the tail that its doorbell gave. -/
def State.hasCommand (s : State) (d : Fin 4) (q : Nat) : Bool :=
  match s.liveQueue d q with
  | none => false
  | some e =>
    field (s.pnum (e + 0x10) 8) 38 2 == d.val
      && ((s.die d).tails.find? fun t => t.1 == q).any fun t => t.2.toNat != s.pnum (e + 0x08) 4

/-- The queue whose command a die's front end takes next: the highest priority, then the lowest number (R317). -/
def State.nextQueue (s : State) (d : Fin 4) : Option Nat :=
  let prio (q : Nat) := field (s.pnum (s.queueEntry d q + 0x14) 4) 0 3
  ((List.range 255).filter (s.hasCommand d)).foldl (fun a q => match a with
    | none => some q
    | some x => if prio q < prio x then some q else some x) none

/-- A command as the front end reads it (R317), with what its queue's entry says of it (R316). -/
structure Command where
  die : Fin 4
  queue : Nat
  space : Word
  prio : Nat
  imm : Bool
  sys : Bool
  opc : Nat
  a0 : DWord
  a1 : DWord
  a2 : DWord
  stat : DWord
  zero : Bool
  deriving DecidableEq, Repr

/-- The command at the head of a queue. -/
def State.commandOf (s : State) (d : Fin 4) (q : Nat) : Command :=
  let e := s.queueEntry d q
  let ring := s.pnum e 8
  let w := s.pnum (e + 0x10) 8
  let a := field ring 6 42 * 64 + 64 * (s.pnum (e + 0x08) 4 % 2 ^ (min (field ring 0 4) 12 + 2))
  let word (i : Nat) := BitVec.ofNat 64 (s.pnum (a + 8 * i) 8)
  { die := d, queue := q, space := BitVec.ofNat 32 w, prio := field w 32 3, imm := field w 35 1 == 1, sys := field w 36 1 == 1
    opc := s.pnum a 1, a0 := word 1, a1 := word 2, a2 := word 3, stat := word 4
    zero := field (s.pnum a 8) 8 56 == 0 && s.pnum (a + 0x28) 24 == 0 }

/-- The head of a queue moved past its command. -/
def State.advanceQueue (s : State) (c : Command) : State :=
  let e := s.queueEntry c.die c.queue
  s.pput (e + 0x08) 4 ((s.pnum (e + 0x08) 4 + 1) % 2 ^ 32)

/-- A command completed with a status (R317). -/
def State.complete (s : State) (c : Command) (code : Byte) (reason value detail : Nat) : State :=
  s.writeStatus c.die c.space c.stat (statusWord code reason value detail)

/-- A command completed with a code whose REASON the manual does not give. [DESIGN CHOICE, log 18] -/
def State.completeOpen (s : State) (c : Command) (code : Byte) : State :=
  let (n, s) := s.draw
  s.complete c code (Config.statusReason n).toNat 0 0

/-- A command with operation code `opc` taken from a queue and carried out, if it is the one that the front end takes next
(R317). A command with a set reserved bit completes with ILLOP; one that has to wait at a frozen page (`none`) is not
taken yet (R116). [DESIGN CHOICE, log 18; DESIGN CHOICE, log 27; DEDUCED, log 60; DEDUCED, log 61] -/
def State.runCommand (s : State) (d : Fin 4) (q : Byte) (opc : Nat) (f : State → Command → Option State) : State :=
  let c := s.commandOf d q.toNat
  if s.pkg.mbstate != .running || s.nextQueue d != some q.toNat || c.opc != opc then s
  else if c.zero = false then (s.advanceQueue c).complete c 0x05 1 0 0
  else if (s.spaceRoot d c.space).isNone && opc != 1 then (s.advanceQueue c).completeOpen c 0x10
  else (f (s.advanceQueue c) c).getD s

/-- A command with a reserved operation code taken from a queue: it completes with ILLOP and REASON 1 (R317). -/
def State.refuseCommand (s : State) (d : Fin 4) (q : Byte) : State :=
  let c := s.commandOf d q.toNat
  if s.pkg.mbstate != .running || s.nextQueue d != some q.toNat || (decide (1 ≤ c.opc) && decide (c.opc ≤ 8)) then s
  else (s.advanceQueue c).complete c 0x05 1 0 0

/-! ### LOAD and UNLOAD (R318) -/

/-- A load handle from 1 that names no file, as the device picks it (R318); 0 when every handle names one. [DESIGN CHOICE, log 59] -/
def State.freeHandle (s : State) : Nat × State :=
  let free := (List.range' 1 65535).filter fun h => !s.files.any fun x => x.handle == h
  let (i, s) := s.pick free.length
  (free.getD i 0, s)

/-- The finaliser over the kernels of a file, in section order: each with its final bytes and code digest (R164), or the
status of the rejection. [DEDUCED, log 58] -/
def finaliseAll (f : List Byte) : List (Kern × Sect) → Except (Byte × Nat × Nat) (List (Kern × Sect × List Byte))
  | [] => .ok []
  | (k, x) :: rest =>
    if 256 < k.pins.length then .error (0x01, 4, 0)
    else match finalise k (x.body f) with
      | .error (.encoding a) => .error (0x05, 3, a)
      | .error (.limit a) => .error (0x01, 4, a)
      | .ok bs => match finaliseAll f rest with
        | .error e => .error e
        | .ok l => .ok (({ k with digest := sha512Low bs }, x, bs) :: l)

/-- The kernels of a file in the order of their sections. -/
def insertKern (e : Kern × Sect) : List (Kern × Sect) → List (Kern × Sect)
  | [] => [e]
  | y :: ys => if e.2.idx < y.2.idx then e :: y :: ys else y :: insertKern e ys

/-- What a file comes to before anything is written: its structure and its finished kernels, or a status (R164, R318). [DEDUCED, log 58] -/
def loadPlan (f : List Byte) (base : Nat) : Except (Byte × Nat × Nat) (Bof × List (Kern × Sect × List Byte)) :=
  match bofOf f base with
  | .error i => .error (0x05, 1, i)
  | .ok b =>
    match wrongDigest f b with
    | some i => .error (0x05, 2, i)
    | none =>
      if b.kerns.any fun k => k.1.base.toNat % 0x10000 != 0 then .error (0x01, 4, 0)
      else match finaliseAll f (b.kerns.foldr insertKern []) with
        | .error e => .error e
        | .ok ks => .ok (b, ks)

/-- Finished bytes written back where the file holds them. The file's own pages need not permit writes. [DEDUCED, log 57] -/
def State.writeBack (s : State) (c : Command) (base : Nat) : Nat → Nat → List Byte → State
  | 0, _, _ => s
  | n + 1, off, bs =>
    if bs.isEmpty then s
    else
      let k := pieceLen (base + off) bs.length
      match s.frontXlate c.die c.space (BitVec.ofNat 64 (base + off)) .load with
      | (.ok pa _, s) => (s.frontWrite pa (bs.take k)).writeBack c base n (off + k) (bs.drop k)
      | (_, s) => s

/-- The section of a kernel finished in place: its bytes, and PORT cleared in its entry of the section table, which marks it native
(R143, R318). [DEDUCED, log 57] -/
def State.finishSection (s : State) (c : Command) (f : List Byte) (x : Sect) (bs : List Byte) : State :=
  let s := s.writeBack c c.a0.toNat (bs.length / 65536 + 2) x.off bs
  if x.flags % 2 = 1 then s.writeBack c c.a0.toNat 2 (fnum f 12 4 + 32 * x.idx + 2) [BitVec.ofNat 8 (x.flags - 1)] else s

/-- The DATA sections written at their addresses, in section order (R154); the code and the section of a failure. -/
def State.writeData (c : Command) (f : List Byte) : List Sect → State → Except (FrontErr × Nat) Unit × State
  | [], s => (.ok (), s)
  | x :: xs, s => match s.frontStore c.die c.space (BitVec.ofNat 64 x.va) (x.body f) with
    | (.ok (), s) => State.writeData c f xs s
    | (.error e, s) => (.error (e.1, x.idx), s)

/-- LOAD carried out (R164, R318); none while a page that it meets is frozen. A byte of the file that a read faults on has REASON 6
where it has no translation. [DESIGN CHOICE, log 18] -/
def State.load_ (s : State) (c : Command) : Option State :=
  if (s.spaceRoot c.die c.space).isNone then some (s.complete c 0x10 5 0 0)
  else match s.frontRead c.die c.space c.a0 c.a1.toNat with
    | (.error .held, _) => none
    | (.error (.fault code va), s) =>
      some (if code = 0x07 then s.complete c 0x07 6 0 (va - c.a0.toNat) else s.completeOpen c code)
    | (.ok f, s) =>
      match loadPlan f c.a0.toNat with
      | .error (code, reason, detail) => some (s.complete c code reason 0 detail)
      | .ok (b, ks) =>
        let s := ks.foldl (fun s k => s.finishSection c f k.2.1 k.2.2) s
        match State.writeData c f (ofType b.sects 2) s with
        | (.error (.held, _), _) => none
        | (.error (.fault code _, i), s) => some (s.complete c code 7 0 i)
        | (.ok (), s) =>
          let (h, s) := s.freeHandle
          let finished (k : Kern × Sect) : Kern := ((ks.find? fun y => y.2.1.idx == k.2.idx).map Prod.fst).getD k.1
          let s : State := { s with files := s.files ++ [⟨h, c.space, b.kerns.map finished, b.graphs⟩] }
          some (s.complete c 0 0 h 0)

/-- LOAD: a BOF file is read, checked, finalised and digested, and its data sections are written (R164, R318). -/
def execCmdLoad (die : Fin 4) (queue : Byte) (s : State) : Host.Outcome State Fault Refusal :=
  .next (s.runCommand die queue 1 State.load_)

/-- UNLOAD carried out (R318). -/
def State.unload (s : State) (c : Command) : Option State :=
  let h := c.a0.toNat
  let mine (x : File) : Bool := x.handle == h && x.space == c.space
  some (
    if !s.files.any mine then s.complete c 0x01 2 0 0
    else if (s.quotes.any fun q => q.handle == h && (q.state == .accepted || q.state == .running))
        || (s.grids.any fun g => g.handle == h && decide (g.finished < g.teams)) then s.complete c 0x01 1 0 0
    else
      let s : State := { s with
        files := s.files.filter fun x => !mine x
        quotes := s.quotes.map fun q => if q.handle = h ∧ q.state = .quoted then { q with state := .void } else q }
      s.complete c 0 0 0 0)

/-- UNLOAD: a file is unloaded, and its quotations in state QUOTED become VOID (R318). -/
def execCmdUnload (die : Fin 4) (queue : Byte) (s : State) : Host.Outcome State Fault Refusal :=
  .next (s.runCommand die queue 2 State.unload)

end Sys2Proof.Machine
end

