-- ==== Sys2Proof/Machine/Rennet.lean ====
section
/-! DEFINITION. Rennet's walk: the costliest path of a group or a stream through a kernel (R47, R49), and the cycles that no
BRB bounds (R320). -/
namespace Sys2Proof.Machine

/-! ### Cycles without a bound (R47, REASON 12 of R320) -/

/-- The offsets among `nodes` that a site of `nodes` reaches, one or more edges on. -/
def reachedWithin (g : Graphed) (nodes : List Nat) (a : Nat) : List Nat :=
  let sub := (g.filter fun e => nodes.contains e.1.off).map fun e => (e.1, e.2.filter fun b => nodes.contains b)
  reachFrom sub (((sub.find? fun e => e.1.off == a).map Prod.snd).getD [])

/-- The nodes that may lie on a cycle in which every BRB passed has its LENTER passed: of some nodes, those on a cycle, and
of BRBs those whose LENTER stands on a cycle with them. -/
def unboundedStep (g : Graphed) (nodes : List Nat) : List Nat :=
  let reach := nodes.map fun a => (a, reachedWithin g nodes a)
  let same (a b : Nat) : Bool := (valueAt [] reach a).contains b && (valueAt [] reach b).contains a
  nodes.filter fun a => (valueAt [] reach a).contains a && match (g.find? fun e => e.1.off == a).bind fun e => e.1.code with
    | some (.brb _ _ lid _) => g.any fun e => match e.1.code with
      | some (.lenter l _) => l == lid && same a e.1.off
      | _ => false
    | _ => true

/-- Whether a section holds a cycle that no BRB bounds. [DEDUCED, log 67] -/
def unboundedCycle (ss : List Site) : Bool :=
  let g := ss.map fun x => (x, flatSuccessors ss x)
  !(settled (unboundedStep g) (ss.length + 1) (ss.map Site.off)).isEmpty

/-! ### Loops -/

/-- An edge that closes a cycle: it leads to its own or a lower address, from which its source is reached. -/
def closesCycle (g : Graphed) (u v : Nat) : Bool := decide (v ≤ u) && (reachFrom g [v]).contains u

/-- A section without the edges that close cycles: its graph, the loops that BRBs close, by first instruction, and whether
some cycle is closed by another branch. -/
structure Opened where
  graph : Graphed
  loops : List (Nat × Nat)
  odd : Bool
  reach : List (Nat × List Nat)

/-- Whether a site is a BRB that branches to an offset. -/
def closedBy (x : Site) (v : Nat) : Bool := match x.code.map (flowOf x.off) with
  | some (.loop t) => t == (v : Int) && v != x.next
  | _ => false

/-- A section opened. -/
def openLoops (g : Graphed) : Opened :=
  let closing := g.flatMap fun e => (e.2.filter fun v => closesCycle g e.1.off v).map fun v => (e.1, v)
  let cut := g.map fun e => (e.1, e.2.filter fun v => !closing.any fun c => c.1.off == e.1.off && c.2 == v)
  { graph := cut
    loops := (closing.filter fun c => closedBy c.1 c.2).map fun c => (c.2, c.1.off)
    odd := closing.any fun c => !closedBy c.1 c.2
    reach := cut.map fun e => (e.1.off, reachFrom cut [e.1.off]) }

/-- Whether one site reaches another. -/
def Opened.reaches (o : Opened) (a b : Nat) : Bool := (valueAt [] o.reach a).contains b

/-! ### The costliest path (R47) -/

/-- Where a path comes out: at its end, or at an offset with the run of compact results it brings. -/
abbrev Exit := Option (Nat × Run)
/-- The costliest way to each exit. -/
abbrev Exits := List (Exit × Charge)

/-- An exit with its charge joined to others. -/
def Exits.put (m : Exits) (e : Exit) (c : Charge) : Exits :=
  match m.find? fun y => y.1 == e with
  | none => (e, c) :: m
  | some y => if y.2.worse c = y.2 then m else (e, c) :: m.filter fun z => z.1 != e

/-- Exits that a path reaches after a charge, joined to others. -/
def Exits.join (m : Exits) (base : Charge) (more : Exits) : Exits := more.foldl (fun m e => m.put e.1 (base.add e.2)) m

/-- The costliest of exits. -/
def Exits.worst (m : Exits) : Charge := m.foldl (fun c e => c.worse e.2) (0, 0)

/-- What the walk has found already: the exits from a site, with the site where the walk stops, the calls made and the run. -/
abbrev Memo := List ((Nat × Option Nat × Nat × Run) × Exits)

/-- The BRBs of the loops that begin at a site and are to be taken whole: those that close within the stretch to `stop`. -/
def Opened.loopsAt (o : Opened) (a : Nat) (stop : Option Nat) : List Nat :=
  (o.loops.filter fun l => l.1 == a && o.reaches a l.2 && match stop with
    | none => true
    | some b => l.2 != b && !o.reaches b l.2).map Prod.snd

/-- Targets of a call site. -/
def Walk.callees (w : Walk) (x : Site) : List Nat :=
  match x.code.map (flowOf x.off) with
  | some (.call t) => offsetIn t
  | some .calli => targetsAt w.kern x.off
  | _ => []

/-- The costliest paths from a site to `stop`, to each place where a path leaves the way to it, and to their end. A loop
closed by a BRB is taken whole: its bound times its costliest pass, and then the BRB's fall-through, or the way from its
first instruction through a forward exit (R47). `n` bounds the recursion. [DEDUCED, log 66] -/
def Walk.paths (w : Walk) (o : Opened) : Nat → Nat → Option Nat → Nat → Run → Memo → Exits × Memo
  | 0, _, _, _, _, memo => ([], memo)
  | n + 1, a, stop, depth, run, memo =>
    if stop = some a then ([(some (a, run), (0, 0))], memo)
    else if stop.any fun b => !o.reaches a b then ([(some (a, run), (0, 0))], memo)
    else match memo.find? fun y => y.1 == (a, stop, depth, run) with
      | some y => (y.2, memo)
      | none =>
        match o.graph.find? fun e => e.1.off == a with
        | none => ([(none, (0, 0))], memo)
        | some e =>
          -- a site with its hold and its costliest callee
          let whole (x : Site) (run : Run) (memo : Memo) : Charge × Run × Memo :=
            let (h, run') := w.hold x run
            let own := (w.charge x).add (h, 0)
            if depth < w.kern.depth then
              let (c, memo) := (w.callees x).foldl (fun (acc : Charge × Memo) t =>
                let (ex, memo) := Walk.paths w o n t none (depth + 1) [] acc.2
                (acc.1.worse ex.worst, memo)) ((0, 0), memo)
              (own.add c, run', memo)
            else (own, run', memo)
          let onward (m : Exits) (base : Charge) (run : Run) (next : List Nat) (memo : Memo) : Exits × Memo :=
            next.foldl (fun (acc : Exits × Memo) b =>
              let (ex, memo) := Walk.paths w o n b stop depth run acc.2
              (acc.1.join base ex, memo)) (m, memo)
          let (ex, memo) :=
            match (o.loopsAt a stop).find? fun b => (o.loopsAt a stop).all fun c => c == b || !o.reaches b c with
            | some b =>
              let (body, memo) := Walk.paths w o n a (some b) depth run memo
              let closing := (o.graph.find? fun y => y.1.off == b).getD e
              let passes := body.filterMap fun y => match y.1 with
                | some (c, r) => if c = b then some (r, y.2) else none
                | none => none
              let (one, memo) := passes.foldl (fun (acc : Charge × Memo) p =>
                let (c, _, memo) := whole closing.1 p.1 acc.2
                (acc.1.worse (p.2.add c), memo)) ((0, 0), memo)
              let bound := match closing.1.code with
                | some (.brb _ _ lid _) => valueAt (2 ^ 32 - 1) w.kern.loops lid.val
                | _ => 0
              let base := Charge.times bound one
              let (ex, memo) := if closing.2.isEmpty then ([(none, base)], memo) else onward [] base [] closing.2 memo
              body.foldl (fun (acc : Exits × Memo) y => match y.1 with
                | none => (acc.1.put none (base.add y.2), acc.2)
                | some (c, r) => if c = b then acc else onward acc.1 (base.add y.2) r [c] acc.2) (ex, memo)
            | none =>
              let (c, run', memo) := whole e.1 run memo
              if e.2.isEmpty then ([(none, c)], memo) else onward [] c run' e.2 memo
          (ex, ((a, stop, depth, run), ex) :: memo)

/-- The charge of a whole path from a site (R47, R49). A kernel with a cycle that a BRB bounds without closing it is
charged an amount that the manual does not give. [DESIGN CHOICE, log 20] -/
def Walk.total (w : Walk) (start : Nat) : Charge :=
  let o := openLoops w.flat
  let n := (w.ss.length + 2) * (w.ss.length + 2) * (w.kern.depth + 2)
  let c := (w.paths o n start none 0 [] []).1.worst
  if o.odd then c.add (Config.irregularCharge w.kern.digest) else c

end Sys2Proof.Machine
end

