-- ==== Sys2Proof/Machine/Quote.lean ====
section
/-! DEFINITION. The launch record (R319, R320), Rennet's sum for a grid (R321 to R323), and the quotation record (R325). -/
namespace Sys2Proof.Machine

/-! ### The launch record (R319) -/

/-- A launch record as the front end reads it. -/
structure LaunchRec where
  handle : Nat
  kidx : Nat
  width : Nat
  narg : Nat
  priv : Bool
  schk : Bool
  shape : Nat × Nat × Nat
  dims : Nat × Nat × Nat
  part : Nat
  extlat : Word
  extfj : Word
  resv : Nat
  haltt : Bool
  halte : Bool
  cmap : BitVec 128
  fmt : Tab Word 8
  args : List DWord
  zero : Bool
  deriving DecidableEq, Repr

/-- The fields of a launch record's 256 bytes. -/
def launchRec (b : List Byte) : LaunchRec :=
  let w0 := fnum b 0 8
  let w5 := fnum b 0x28 8
  { handle := field w0 0 16, kidx := field w0 16 16, width := field w0 32 8, narg := field w0 40 5
    priv := field w0 45 1 == 1, schk := field w0 46 1 == 1
    shape := (fnum b 0x08 2, fnum b 0x0A 2, fnum b 0x0C 2)
    dims := (fnum b 0x10 4, fnum b 0x14 4, fnum b 0x18 4), part := fnum b 0x1C 4
    extlat := BitVec.ofNat 32 (fnum b 0x20 4), extfj := BitVec.ofNat 32 (fnum b 0x24 4)
    resv := field w5 0 8, haltt := field w5 8 1 == 1, halte := field w5 9 1 == 1
    cmap := BitVec.ofNat 128 (fnum b 0x30 16)
    fmt := Tab.ofFn fun n => BitVec.ofNat 32 (fnum b (0x60 + 4 * n.val) 4)
    args := (List.range (min (field w0 40 5) 16)).map fun i => BitVec.ofNat 64 (fnum b (0x80 + 8 * i) 8)
    zero := field w0 47 17 == 0 && fnum b 0x0E 2 == 0 && field w5 10 54 == 0 && fnum b 0x40 32 == 0 }

/-- The kernel that a launch record names, of a file loaded in the queue's space. -/
def State.kernelFor (s : State) (space : Word) (r : LaunchRec) : Option Kern :=
  (s.files.find? fun x => x.handle == r.handle && x.space == space).bind fun x => x.kerns[r.kidx]?

/-- The grid that a launch record describes, before it has a name. -/
def LaunchRec.grid (r : LaunchRec) (c : Command) (k : Kern) (qid : Option DWord) : Grid :=
  { id := 0, die := c.die, queue := c.queue, prio := c.prio, imm := c.imm, space := c.space, handle := r.handle, kidx := r.kidx
    kern := k, shape := r.shape, dims := r.dims, width := r.width, priv := r.priv, schk := r.schk
    regg := field r.part 0 7, scrg := field r.part 8 7, accg := field r.part 16 7, fmt := r.fmt, args := r.args, cmap := r.cmap
    extlat := r.extlat, extfj := r.extfj, qid := qid, units := [], stat := none, taken := 0, placed := 0, finished := 0, firing := none
    admits := [] }

/-- Whether a shape keeps R11. -/
def shapeOk (shape dims : Nat × Nat × Nat) : Bool :=
  let pos (x : Nat × Nat × Nat) : Bool := decide (0 < x.1) && decide (0 < x.2.1) && decide (0 < x.2.2)
  pos shape && pos dims && decide (shape.1 * shape.2.1 * shape.2.2 ≤ 4096)

/-- Every core without work, to judge what it could admit (R320, R321). [DEDUCED, log 69] -/
def State.emptied (s : State) : State := { s with cores := s.cores.map Core.emptied }

/-- The units that a grid could use if no work were resident. [DEDUCED, log 69] -/
def State.ableUnits (s : State) (g : Grid) : List (Fin 128) := (s.units g).filter fun c => s.emptied.canAdmit c g

/-- The units eligible for a quotation (R321), ascending. -/
def State.eligibleUnits (s : State) (g : Grid) : List (Fin 128) := (s.ableUnits g).filter fun c => s.unitFree g c

/-! ### Pinned ranges (R44) -/

/-- The physical address behind an address of a space, whatever its page permits and frozen or not; none without a valid translation. -/
def State.frameOf (s : State) (d : Fin 4) (space : Word) (va : Nat) : Option Nat :=
  match (s.frontXlate d space (BitVec.ofNat 64 va) .load).1 with
  | .ok pa _ => some pa
  | .frozen pa => if pa = noFrame then none else some pa
  | .fault code _ level _ frame => if code = 0x08 then some (leafPa level frame va) else none

/-- Whether a walk to one of `n` 64 KiB pages from one up has to wait at a frozen page (R116). -/
def State.pagesWait (s : State) (d : Fin 4) (space : Word) (page n : Nat) : Bool :=
  (List.range n).any fun i => (s.frontXlate d space (BitVec.ofNat 64 ((page + i) * 65536)) .load).1 == .frozen noFrame

/-- Whether an address has a valid translation, whatever its page permits. -/
def State.translates (s : State) (d : Fin 4) (space : Word) (va : Nat) : Bool :=
  match (s.frontXlate d space (BitVec.ofNat 64 va) .load).1 with
  | .fault code _ _ _ _ => code != 0x07 && code != 0x10
  | _ => true

/-- Whether each of `n` 64 KiB pages from one up has a valid translation. -/
def State.pagesValid (s : State) (d : Fin 4) (space : Word) : Nat → Nat → Bool
  | 0, _ => true
  | n + 1, page => s.translates d space (page * 65536) && s.pagesValid d space n (page + 1)

/-- The first page and the number of pages of a pinned range. -/
def pinPages (p : Nat × Nat) : Nat × Nat :=
  if p.2 = 0 then (p.1 / 65536, 0) else (p.1 / 65536, (p.1 + p.2 - 1) / 65536 + 1 - p.1 / 65536)

/-- Whether every page of pinned ranges has a valid translation. -/
def State.pinsValid (s : State) (d : Fin 4) (space : Word) (pins : List (Nat × Nat)) : Bool :=
  pins.all fun p => s.pagesValid d space (pinPages p).2 (pinPages p).1

/-- Whether a walk to a page of pinned ranges has to wait. -/
def State.pinsWait (s : State) (d : Fin 4) (space : Word) (pins : List (Nat × Nat)) : Bool :=
  pins.any fun p => s.pagesWait d space (pinPages p).1 (pinPages p).2

/-- The vaults that hold frames of pinned ranges, bit 32 d + v for vault v of die d. -/
def State.pinVaults (s : State) (d : Fin 4) (space : Word) (pins : List (Nat × Nat)) : BitVec 128 :=
  pins.foldl (fun m p => (List.range (pinPages p).2).foldl (fun m i =>
    match s.frameOf d space (((pinPages p).1 + i) * 65536) with
    | some pa => if inVault pa then m ||| (1#128 <<< (field pa 37 2 * 32 + field pa 32 5)) else m
    | none => m) m) 0

/-- The latency class of a pinned address for a core (R73, R402): none when it is not pinned or has no translation. -/
def State.pinnedClass (s : State) (d : Fin 4) (space : Word) (pins : List (Nat × Nat)) (c : Fin 128) (va : DWord) : Option Nat :=
  let a := va.toNat
  if pins.any fun p => decide (p.1 ≤ a) && decide (a < p.1 + p.2) then
    (s.frameOf d space a).map fun pa =>
      if !inVault pa then 3
      else if field pa 37 2 != (dieOf c).val then 2
      else if field pa 32 5 != localOf c then 1
      else 0
  else none

/-! ### Rejections (R320) -/

/-- Why a launch record is rejected, in the order of the table: the REASON and the code; none if it is not. The work is `bound`
for QUOTE and for a BIND under a quotation; `quoting` adds what QUOTE alone checks. `code` is the kernel's section, where QUOTE
looks for a cycle without a bound. A set reserved bit of the partition word breaks R63, and so is reported with REASON 4; the
reserved fields of REASON 1 are the launch record's own. [DESIGN CHOICE, log 102] -/
def State.launchProblem (s : State) (c : Command) (r : LaunchRec) (bound quoting : Bool) (code : List Site) :
    Option (Nat × Byte) :=
  if r.zero = false then some (1, 0x05)
  else match s.kernelFor c.space r with
    | none => some (2, 0x01)
    | some k =>
      let g := r.grid c k (if bound then some 0 else none)
      if shapeOk r.shape r.dims = false ∨ ¬(r.width = 0 ∨ r.width = 16 ∨ r.width = 32 ∨ r.width = 64) ∨ 16 < r.narg then
        some (3, 0x01)
      else if partOk r.part (if bound then 96 else 95) = false ∨ (g.paired ∧ g.scrg % 2 = 1) then some (4, 0x01)
      else if (List.finRange 8).any fun n => slotBad (r.fmt.get n)
          || (k.fmtm.getLsbD n.val && r.fmt.get n != k.fmts.getD n.val 0) then some (5, 0x0D)
      else if k.bcnt.any fun n => n != 0 && decide (g.threads < n) then some (6, 0x01)
      else if r.priv ∧ c.sys = false then some (7, 0x06)
      else if (s.ableUnits g).isEmpty then some (8, 0x01)
      else if quoting = false then none
      else if r.extlat = 0 ∧ (List.finRange 8).any fun q => field (k.queues.get q).toNat 0 7 != 0 && queueClass k q == 3 then
        some (9, 0x01)
      else if (s.eligibleUnits g).length < max r.resv 1 then some (10, 0x01)
      else if s.pinsValid c.die c.space k.pins = false then some (11, 0x07)
      else if unboundedCycle code then some (12, 0x01)
      else none

/-! ### Rennet's sum (R321 to R323) -/

/-- A quotation's figures: TIME in ns, ENERGY in nJ, the units with their W, and GRAN. -/
structure Figures where
  time : Nat
  energy : Nat
  units : List (Fin 128 × Nat)
  gran : Nat
  deriving DecidableEq, Repr

/-- Whether an instruction is a SETW, which lets groups become as narrow as 16 (R322). -/
def setwKind (i : Instr) : Bool :=
  match i with
  | .setwReg .. | .setwImm .. => true
  | _ => false

/-- Whether an instruction reads the team's place in the grid. -/
def gridKind (i : Instr) : Bool :=
  match i with
  | .grid .. => true
  | _ => false

/-- The engines that a section's FORKs name: one, or each of a pair's two (R268). -/
def forkEngines (ss : List Site) (paired : Bool) : Nat :=
  let odds := (ss.filterMap fun x => match x.code with
    | some (.fork _ odd _) => some odd
    | _ => none).eraseDups
  if paired then odds.length else min 1 odds.length

/-- The cores of a unit. -/
def Grid.unitCores (g : Grid) (c : Fin 128) : List (Fin 128) := if g.paired then [c, partner c] else [c]

/-- The width that Rennet takes for a unit (R322): the initial grant, of a pair the smaller, or 16 with a SETW. [DEDUCED, log 64] -/
def State.quotedWidth (s : State) (g : Grid) (ss : List Site) (c : Fin 128) : Nat :=
  if ss.any fun x => x.code.any setwKind then 16
  else
    let grant (c : Fin 128) (odd : Bool) : Nat := ((s.core c).initialGrant g odd).getD 16
    if g.paired then min (grant c false) (grant (partner c) true) else grant c false

/-- Teams that fit on a unit together (R322 step 4). -/
def Grid.fit (g : Grid) (w : Nat) : Nat :=
  if 1 ≤ g.accg then 1
  else
    let ng := ceilDiv (g.half false) w
    min 16 (min (128 / ng) (min (2048 / (ng * w)) (96 / (g.regg + g.scrHalf + g.accg))))

/-- Partitions in service of a core. -/
def Core.partitions (k : Core) : Nat := (k.slices.val.filter fun n => n != 0).length

/-- What the walks of one team come to: the worst group's, the matrix stream's and the copy stream's cycles, and the energy of
all its groups and streams. -/
structure TeamCharge where
  g : Nat
  gm : Nat
  gc : Nat
  energy : Nat
  deriving DecidableEq, Repr

/-- The walks of team `j` on a unit at width `w` (R322 steps 1 to 3, R323, R402). -/
def State.teamCharge (s : State) (g : Grid) (ss : List Site) (full : Graphed) (waits : List Nat) (c : Fin 128) (w j : Nat) :
    TeamCharge :=
  let walk (core : Fin 128) (lanes extra : Nat) : Walk :=
    { kern := g.kern, ss := ss, full := full, waits := waits, fmt := g.fmt, lanes := lanes, paired := g.paired
      extlat := g.extlat.toNat, extfj := g.extfj.toNat, extra := extra
      known := knownAt ⟨g.coord j, core⟩ g.kern full g.args
      frame := s.pinnedClass g.die g.space g.kern.pins core }
  let entries (copy : Bool) : List Nat := (g.kern.strms.filter fun e => e.2 == copy).map Prod.fst
  let forks := forkEngines ss g.paired
  let matrixFrom (starts : List Nat) : Bool :=
    let r := reachFrom full starts
    ss.any fun x => r.contains x.off && x.code.any matrixKind
  -- threads of the groups of each half, by core
  let halves := if g.paired then [(c, g.half false), (partner c, g.half true)] else [(c, g.half false)]
  let groups (n : Nat) : List Nat := (List.range (ceilDiv n w)).map fun q => min w (n - q * w)
  let count := (halves.map fun h => ceilDiv h.2 w).sum
  let issuers := (if matrixFrom [g.kern.entry.toNat] then count else 0)
    + (if matrixFrom (entries false) then forks else 0)
  let emax := (halves.map fun h =>
    let x := walk h.1 0 0
    ss.foldl (fun m y => match y.code.bind fun i => if matrixKind i then x.engine (valueAt Known.nothing x.known y.off) i else none with
      | some e => max m e.1
      | none => m) 0).foldl max 0
  let extra := (issuers - 1) * emax
  let charges := halves.flatMap fun h =>
    ((groups h.2).eraseDups).map fun n => ((walk h.1 n extra).total g.kern.entry.toNat, ((groups h.2).filter fun m => m == n).length)
  let stream (copy : Bool) : Charge :=
    if forks = 0 then (0, 0)
    else ((halves.flatMap fun h => (entries copy).map fun e => (walk h.1 0 extra).total e)).foldl Charge.worse (0, 0)
  { g := (charges.map fun x => x.1.1).foldl max 0
    gm := (stream false).1
    gc := (stream true).1
    energy := (charges.map fun x => x.1.2 * x.2).sum + forks * ((stream false).2 + (stream true).2) }

/-- The quoted time of cycles (R47): 0.8 ns each and 1.03 for droop, rounded up. -/
def nsOf (cycles : Nat) : Nat := ceilDiv (cycles * 824) 1000

/-- Rennet's figures for a grid on units (R321 to R323). [DEDUCED, log 66; DEDUCED, log 68] -/
def State.figures (s : State) (g : Grid) (ss : List Site) (us : List (Fin 128)) : Figures :=
  let full := ss.map fun x => (x, successors g.kern ss x)
  let waits := waitSites g.kern ss
  let n := us.length
  let perTeam := ss.any fun x => x.code.any gridKind
  -- each unit: its core, width, W, partitions, the number of its teams, and the charges of those that differ
  let rows := (List.range n).filterMap fun u => us[u]?.map fun c =>
    let w := s.quotedWidth g ss c
    let count := (g.teams + n - 1 - u) / n
    let charges := if perTeam then (List.range count).map fun i => (s.teamCharge g ss full waits c w (u + i * n), 1)
      else [(s.teamCharge g ss full waits c w u, count)]
    (c, w, g.fit w, ((g.unitCores c).map fun x => (s.core x).partitions).sum, count, charges)
  let all := rows.flatMap fun r => r.2.2.2.2.2
  let most (f : TeamCharge → Nat) : Nat := (all.map fun x => f x.1).foldl max 0
  let gc := most TeamCharge.g
  let wave (w parts m : Nat) : Nat :=
    let ng := if g.paired then ceilDiv (g.half false) w + ceilDiv (g.half true) w else ceilDiv (g.half false) w
    max (ceilDiv (m * ng) parts * gc) (max (most TeamCharge.gm) (most TeamCharge.gc))
  let unitTime (r : Fin 128 × Nat × Nat × Nat × Nat × List (TeamCharge × Nat)) : Nat :=
    let (_, w, fit, parts, count, _) := r
    let wv := max 1 fit
    let waves := ceilDiv count wv
    (count / wv) * wave w parts wv + (if count % wv = 0 then 0 else wave w parts (count % wv)) + 256 * (waves - 1)
  let cycles := 1024 + (rows.map unitTime).foldl max 0
  let time := nsOf cycles
  let dynamic := (all.map fun x => x.1.energy * x.2).sum
  let cores := (us.map fun c => (g.unitCores c).length).sum
  { time := time
    energy := ceilDiv (dynamic + 900000 * time * cores) 1000000
    units := rows.map fun r => (r.1, r.2.2.1)
    gran := (rows.map fun r => (g.regg + g.scrg + g.accg) * r.2.2.1).foldl max 0 }

/-- The units that a quotation takes (R321). -/
def State.unitsTaken (s : State) (g : Grid) (resv : Nat) : List (Fin 128) :=
  let us := s.eligibleUnits g
  us.take (if resv = 0 then min us.length g.teams else resv)

/-! ### The quotation record (R325) -/

/-- The cores of units. -/
def Grid.coreSet (g : Grid) (us : List (Fin 128)) : BitVec 128 :=
  us.foldl (fun m c => (g.unitCores c).foldl (fun m x => m ||| (1#128 <<< x.val)) m) 0

/-- The 128 bytes of a quotation record. [DEDUCED, log 68] -/
def Quote.bytes (q : Quote) : List Byte :=
  let small := (q.units.map Prod.snd).foldl min ((q.units.head?.map Prod.snd).getD 0)
  leBytes 8 q.qid.toNat ++ leBytes 8 q.digest.toNat ++ leBytes 8 q.time ++ leBytes 8 q.energy
    ++ leBytes 8 (1250 + q.units.length % 256 * 2 ^ 16 + small % 256 * 2 ^ 24 + q.gran % 128 * 2 ^ 32)
    ++ leBytes 8 q.expiry.toNat ++ leBytes 16 q.cores.toNat ++ leBytes 16 q.vaults.toNat
    ++ leBytes 8 16 ++ leBytes 8 q.clause.toNat ++ List.replicate 32 0

/-- A quotation as it begins, in state QUOTED. -/
def Quote.new (qid : DWord) (c : Command) (now : DWord) (f : Figures) : Quote :=
  { qid := qid, state := .quoted, die := c.die, queue := c.queue, handle := 0, space := c.space, digest := 0, time := f.time
    energy := f.energy, units := f.units, gran := f.gran, expiry := now + 100000, cores := 0, vaults := 0, clause := 0, pins := []
    job := none, graph := none, measured := 0, measuredE := 0, paused := false, callT := 0, envT := 0, callE := 0
    envE := 0, devCause := 0x23, pend := none, causes := [], blames := [] }

/-- A quotation record written and kept, and the QUOTE completed (R325); none while the record's page is frozen. -/
def State.issueQuote (s : State) (c : Command) (q : Quote) : Option State :=
  match s.frontStore c.die c.space c.a1 q.bytes with
  | (.error (.held, _, _), _) => none
  | (.error (.fault code _, _, _), s) => some (s.completeOpen c code)
  | (.ok (), s) =>
    let s : State := { s with quotes := s.quotes ++ [q], pkg := { s.pkg with quoteSeq := s.pkg.quoteSeq + 1 } }
    some (s.complete c 0 0 0 0)

/-- The sites of a kernel's code as it stands in memory: the finaliser's bytes, read through the space's translation. -/
def State.codeOf (s : State) (c : Command) (k : Kern) : Except FrontErr (List Site) × State :=
  match s.frontRead c.die c.space k.base k.len with
  | (.ok bs, s) => (.ok (sitesOf bs), s)
  | (.error e, s) => (.error e, s)

/-- A grid quoted: the quotation of a launch record that was not rejected. -/
def State.quoteGrid (s : State) (c : Command) (r : LaunchRec) (k : Kern) (ss : List Site) : Quote :=
  let qid := s.pkg.quoteSeq
  let g := r.grid c k (some qid)
  let us := s.unitsTaken g r.resv
  let cores := g.coreSet us
  { Quote.new qid c s.reft (s.figures g ss us) with
    handle := r.handle
    digest := k.digest
    cores := cores
    vaults := cores ||| s.pinVaults c.die c.space k.pins
    clause := BitVec.ofNat 4 (r.schk.toNat + r.haltt.toNat * 2 + r.halte.toNat * 4)
    pins := k.pins
    job := some g }

/-- A launch record read from memory: one that is not aligned to 64 bytes, or has no translation, completes the command. [DESIGN CHOICE, log 18] -/
def State.withLaunchRec (s : State) (c : Command) (f : State → LaunchRec → Option State) : Option State :=
  if c.a0.toNat % 64 ≠ 0 then some (s.completeOpen c 0x0A)
  else match s.frontRead c.die c.space c.a0 256 with
    | (.error .held, _) => none
    | (.error (.fault code _), s) => some (s.completeOpen c code)
    | (.ok b, s) => f s (launchRec b)

/-- QUOTE of a launch record (R320, R325). The kernel's code is read for the last condition of R320 alone, once no earlier one
holds; the command waits while a walk to a pinned page has to. -/
def State.quoteLaunch (s : State) (c : Command) : Option State :=
  if c.a1.toNat % 64 ≠ 0 then some (s.completeOpen c 0x0A)
  else s.withLaunchRec c fun s r =>
    match s.launchProblem c r true true [], s.kernelFor c.space r with
    | some (reason, code), _ => some (s.complete c code reason 0 0)
    | none, none => some (s.complete c 0x01 2 0 0)
    | none, some k =>
      if s.pinsWait c.die c.space k.pins then none
      else match s.codeOf c k with
        | (.error .held, _) => none
        | (.error (.fault code _), s) => some (s.completeOpen c code)
        | (.ok ss, s) =>
          if unboundedCycle ss then some (s.complete c 0x01 12 0 0) else s.issueQuote c (s.quoteGrid c r k ss)

end Sys2Proof.Machine
end

