-- ==== Sys2Proof/Machine/Commands.lean ====
section
/-! DEFINITION. The commands on quotations and grids: ACCEPT, DECLINE and LAUNCH (R317, R320, R326 to R328), the expiry of a
quotation (R326), and the end of a grid by HALTT or HALTE (R329). -/
namespace Sys2Proof.Machine

/-! ### Acceptance (R327) -/

/-- Whether a quotation holds its reservation. -/
def Quote.holds (q : Quote) : Bool := q.state == .accepted || q.state == .running

/-- The cores that quotations hold. -/
def heldCores (qs : List Quote) : BitVec 128 := qs.foldl (fun m q => m ||| q.cores) 0

/-- The set bits of a core set. -/
def coreCount (m : BitVec 128) : Nat := ((List.range 128).filter fun i => m.getLsbD i).length

/-- The power check of R327: the sum of ENERGY / TIME and of 0.9 W for each core that no quotation holds, in watts, is at most
1,400. The sum is kept as a fraction. -/
def powerFits (qs : List Quote) : Bool :=
  let free := 128 - coreCount (heldCores qs)
  let sum := qs.foldl (fun (a : Nat × Nat) q => (a.1 * q.time + q.energy * a.2, a.2 * q.time)) (9 * free, 10)
  decide (sum.1 ≤ 1400 * sum.2)

/-- Whether no vault of a quotation would carry shares above 64 of 64 with it, each share being 16. -/
def sharesFit (qs : List Quote) (q : Quote) : Bool :=
  (List.range 128).all fun v =>
    !q.vaults.getLsbD v || decide ((qs.filter fun x => x.vaults.getLsbD v).length * 16 + 16 ≤ 64)

/-- The open teams on the cores of a set, a pair's named by one half. -/
def State.openTeamsOn (s : State) (cores : BitVec 128) : List (Fin 128 × Fin 16 × Team) :=
  allCores.flatMap fun c => (List.finRange 16).filterMap fun i => match s.team c i with
    | some t =>
      if s.isOpen t && !t.exited && (t.halves c i).any (fun h => cores.getLsbD h.1.val) && !t.odd then some (c, i, t) else none
    | none => none

/-- Every open team on a set of cores asked to stop at an instruction boundary, with room for its save set aside; none when one
of them has no room (R327, R328). -/
def State.swapOut (s : State) (cores : BitVec 128) : Option State :=
  (s.openTeamsOn cores).foldl (fun (a : Option State) x => a.bind fun s => s.askTeam x.1 x.2.1 x.2.2 false) (some s)

/-- ACCEPT on a quotation in state QUOTED: the machine with the reservation in force, or none where a check of R327 fails. [DEDUCED, log 72] -/
def State.reserve (s : State) (q : Quote) (a : StatAt) : Option State :=
  let others := s.quotes.filter Quote.holds
  if heldCores others &&& q.cores ≠ 0 ∨ sharesFit others q = false ∨ s.pinsValid q.die q.space q.pins = false
      ∨ powerFits (q :: others) = false then none
  else (s.swapOut q.cores).map fun s =>
    State.acceptsDone (s.modQuote q.qid fun x => { x with state := .accepted, pend := some a })

/-- Where a command's status goes. -/
def Command.statAt (c : Command) : StatAt := ⟨c.die, c.space, c.stat⟩

/-- A quotation whose time to be accepted or launched has passed (R326). [DEDUCED, log 70] -/
def State.expired (s : State) (q : Quote) : Bool :=
  (q.state == .quoted || q.state == .accepted) && decide (q.expiry.toNat < s.reft.toNat)

/-- A quotation past its expiry becomes VOID (R326). -/
def State.expire (s : State) (qid : DWord) : State :=
  match s.quote qid with
  | some q => if s.expired q then s.modQuote qid fun x => { x with state := .void } else s
  | none => s

/-- QUOTE_EXPIRY: REFT has passed a quotation's EXPIRY (R326). [DEDUCED, log 70] -/
def execQuoteExpiry (qid : DWord) (s : State) : Host.Outcome State Fault Refusal := .next (s.expire qid)

/-- A command that names a quotation, carried out on it: an unknown one and one that is SETTLED or VOID completes with BOUND and
REASON 3 (R326). -/
def State.withQuote (s : State) (c : Command) (qid : DWord) (f : State → Quote → State) : State :=
  let s := s.expire qid
  match s.quote qid with
  | none => s.complete c 0x01 3 0 0
  | some q => if q.state == .settled || q.state == .void then s.complete c 0x01 3 0 0 else f s q

/-- ACCEPT carried out (R326 to R328). [DEDUCED, log 72] -/
def State.accept (s : State) (c : Command) : Option State :=
  some (s.withQuote c c.a0 fun s q =>
    if q.state = .quoted then
      match s.reserve q c.statAt with
      | some s => s
      | none => (s.modQuote q.qid fun x => { x with state := .void }).complete c 0x01 2 0 0
    else s.complete c 0x01 4 0 0)

/-- ACCEPT: a quotation is accepted, which reserves its cores, vault shares and save room (R326 to R328). -/
def execCmdAccept (die : Fin 4) (queue : Byte) (s : State) : Host.Outcome State Fault Refusal :=
  .next (s.runCommand die queue 4 State.accept)

/-- DECLINE carried out (R326). -/
def State.decline (s : State) (c : Command) : Option State :=
  some (s.withQuote c c.a0 fun s q =>
    if q.state = .running then s.complete c 0x01 4 0 0
    else (s.modQuote q.qid fun x => { x with state := .void }).complete c 0 0 0 0)

/-- DECLINE: a quotation is given up, and its reservation released (R326). -/
def execCmdDecline (die : Fin 4) (queue : Byte) (s : State) : Host.Outcome State Fault Refusal :=
  .next (s.runCommand die queue 5 State.decline)

/-! ### LAUNCH -/

/-- A grid that begins to wait for placement: it takes a name, and its place in the order of R338. -/
def State.addGrid (s : State) (g : Grid) : State :=
  let (id, s) := s.newId
  { s with grids := s.grids ++ [{ g with id := id, taken := id }] }

/-- LAUNCH of open work (R320). -/
def State.launchOpen (s : State) (c : Command) : Option State :=
  s.withLaunchRec c fun s r =>
    match s.launchProblem c r false false [], s.kernelFor c.space r with
    | some (reason, code), _ => some (s.complete c code reason 0 0)
    | none, none => some (s.complete c 0x01 2 0 0)
    | none, some k => some (s.addGrid { r.grid c k none with stat := some c.statAt })

/-- LAUNCH of bound work: an accepted quotation becomes RUNNING and its grid waits for the places that acceptance fixed (R326,
R328). [DEDUCED, log 71] -/
def State.launchBound (s : State) (c : Command) : State :=
  s.withQuote c c.a1 fun s q =>
    match q.state, q.job with
    | .accepted, some g =>
      let g := { g with
        die := c.die, queue := c.queue, prio := c.prio, imm := c.imm, units := q.units, stat := some c.statAt }
      (s.modQuote q.qid fun x => { x with state := .running, die := c.die, queue := c.queue }).addGrid g
    | _, _ => s.complete c 0x01 4 0 0

/-- LAUNCH carried out (R317, R326). -/
def State.launch (s : State) (c : Command) : Option State :=
  if (c.a0 = 0) = (c.a1 = 0) then some (s.complete c 0x05 1 0 0)
  else if c.a1 = 0 then s.launchOpen c
  else some (s.launchBound c)

/-- LAUNCH: a grid is launched, as open work or under an accepted quotation (R317, R320, R326). -/
def execCmdLaunch (die : Fin 4) (queue : Byte) (s : State) : Host.Outcome State Fault Refusal :=
  .next (s.runCommand die queue 6 State.launch)

/-- A quotation's measures started again, as at the beginning of a graph's period (R294). -/
def Quote.restart (q : Quote) : Quote :=
  { q with measured := 0, measuredE := 0, callT := 0, envT := 0, callE := 0, envE := 0, causes := [], blames := [] }

/-! ### HALTT and HALTE (R329) -/

/-- The grid that runs under a quotation ended: its LAUNCH completes with WAITOUT, and a positive excess makes a breach record
of kind 1. [DEDUCED, log 109] -/
def State.haltQuote (s : State) (qid : DWord) (bit : Nat) (excess : Quote → Bool) : State :=
  match s.quote qid, s.grids.find? fun g => g.qid == some qid && g.firing.isNone with
  | some q, some g => if q.state == .running && q.clause.getLsbD bit && excess q then (s.modQuote qid Quote.halted).endGrid g.id 0x03 1 else s
  | _, _ => s

/-- HALT_TIME: a grid's measured time has passed the quoted TIME under HALTT (R329). -/
def execHaltTime (qid : DWord) (s : State) : Host.Outcome State Fault Refusal :=
  .next (s.haltQuote qid 1 fun q => decide (q.time < q.measured))

/-- HALT_ENERGY: a grid's measured energy has passed the quoted ENERGY under HALTE (R329). -/
def execHaltEnergy (qid : DWord) (s : State) : Host.Outcome State Fault Refusal :=
  .next (s.haltQuote qid 2 fun q => decide (q.energy < q.measuredE))

end Sys2Proof.Machine
end

