-- ==== Sys2Proof/Machine/LaneInt.lean ====
section
/-! DEFINITION. Lane instructions on integers and bits: arithmetic, logic, bit fields, compares, selects, masks, and the
compact forms of them (R192 to R205). -/
namespace Sys2Proof.Machine

/-! ### What every lane instruction does (R192, R193) -/

/-- A lane instruction with one destination: every lane of ACT reads before any writes, the LAST marks of its sources are
made, and the flags that its lanes raise join XFLAGS. -/
def State.lane (s : State) (sh : Shape) (d : Fin 64) (last : Ctx → Group) (f : Ctx → Fin 64 → Word × Flags) :
    Host.Outcome State Fault Refusal :=
  s.issue sh fun x s => s.withSlices x sh [d] fun s =>
    let g := (last x).writeV d x.act fun p => (f x p).1
    let raised := x.act.list.foldl (fun a p => a ||| (f x p).2) 0
    s.finish x sh { g with xflags := g.xflags ||| raised } (fun _ => x.pc + sh.len) []

/-- A two-operand lane instruction: A, the mixed B, and the old destination (R193). `lat` is its fixed latency. -/
def State.laneL (s : State) (st lat : Nat) (d a : Fin 64) (b : Mixed) (la lb old : Bool) (f : Word → Word → Word → Word × Flags) :
    Host.Outcome State Fault Refusal :=
  let sh : Shape := ⟨true, st, mixedToks b, keyV a :: mixedUses b ++ (if old then [keyV d] else []), [(keyV d, lat)], .other⟩
  s.lane sh d (fun x => (x.g.lastIf a la x.pc).lastMixed b lb x.pc)
    fun x p => f (x.g.readV a p) (x.g.mixed b p) (x.g.readV d p)

/-- A one-operand lane instruction. -/
def State.laneU (s : State) (st lat : Nat) (d a : Fin 64) (la : Bool) (f : Word → Word × Flags) : Host.Outcome State Fault Refusal :=
  let sh : Shape := ⟨true, st, [], [keyV a], [(keyV d, lat)], .other⟩
  s.lane sh d (fun x => x.g.lastIf a la x.pc) fun x p => f (x.g.readV a p)

/-- A compact form: D is the destination and the first source, A is the B operand (R200). -/
def State.laneC (s : State) (lat : Nat) (d a : Fin 32) (last first : Bool) (f : Word → Word → Word × Flags) :
    Host.Outcome State Fault Refusal :=
  let d := smallV d
  let a := smallV a
  let sh : Shape := ⟨false, 0, [], keyV a :: (if first then [keyV d] else []), [(keyV d, lat)], .other⟩
  s.lane sh d (fun x => x.g.lastIf a last x.pc) fun x p => f (x.g.readV d p) (x.g.readV a p)

/-- A result that raises no flag. -/
def quiet (w : Word) : Word × Flags := (w, 0)

/-! ### Integer and logic (R195 to R199) -/

/-- Position and effective length of a bit field (R198). -/
def fieldPos (b : Word) : Nat := field b.toNat 0 5
def fieldLen (b : Word) : Nat := min (field b.toNat 8 6) (32 - fieldPos b)

/-- BFE (R198): the field, extended; an empty field gives 0. -/
def bfe (sgn : Bool) (a b : Word) : Word :=
  let v := field a.toNat (fieldPos b) (fieldLen b)
  if fieldLen b = 0 then 0
  else if sgn && decide (2 ^ (fieldLen b - 1) ≤ v) then BitVec.ofInt 32 ((v : Int) - 2 ^ fieldLen b)
  else BitVec.ofNat 32 v

/-- BFI (R198): the field of `old` replaced by the low bits of A. -/
def bfi (old a b : Word) : Word :=
  let m : Word := (BitVec.ofNat 32 (2 ^ fieldLen b - 1)) <<< fieldPos b
  (old &&& ~~~m) ||| ((a <<< fieldPos b) &&& m)

/-- IADD: the wrapping sum (R195). -/
def execIadd (d a : Fin 64) (b : Mixed) (la lb : Bool) (st : Fin 8) (s : State) : Host.Outcome State Fault Refusal :=
  s.laneL st.val 2 d a b la lb false fun a b _ => quiet (a + b)

/-- ISUB: the wrapping difference (R195). -/
def execIsub (d a : Fin 64) (b : Mixed) (la lb : Bool) (st : Fin 8) (s : State) : Host.Outcome State Fault Refusal :=
  s.laneL st.val 2 d a b la lb false fun a b _ => quiet (a - b)

/-- IMUL: the low half of the product (R195). -/
def execImul (d a : Fin 64) (b : Mixed) (la lb : Bool) (st : Fin 8) (s : State) : Host.Outcome State Fault Refusal :=
  s.laneL st.val 2 d a b la lb false fun a b _ => quiet (a * b)

/-- IMULH.I32: the high half of the signed product (R195). -/
def execImulhI32 (d a : Fin 64) (b : Mixed) (la lb : Bool) (st : Fin 8) (s : State) : Host.Outcome State Fault Refusal :=
  s.laneL st.val 2 d a b la lb false fun a b _ => quiet (((a.signExtend 64 * b.signExtend 64) >>> 32).setWidth 32)

/-- IMULH.N32: the high half of the unsigned product (R195). -/
def execImulhN32 (d a : Fin 64) (b : Mixed) (la lb : Bool) (st : Fin 8) (s : State) : Host.Outcome State Fault Refusal :=
  s.laneL st.val 2 d a b la lb false fun a b _ => quiet (((a.setWidth 64 * b.setWidth 64) >>> 32).setWidth 32)

/-- LEA: the address of word B of an array at A (R195). -/
def execLea (d a : Fin 64) (b : Mixed) (la lb : Bool) (st : Fin 8) (s : State) : Host.Outcome State Fault Refusal :=
  s.laneL st.val 2 d a b la lb false fun a b _ => quiet (a + 4 * b)

/-- IMIN.I32: the smaller as signed (R195). -/
def execIminI32 (d a : Fin 64) (b : Mixed) (la lb : Bool) (st : Fin 8) (s : State) : Host.Outcome State Fault Refusal :=
  s.laneL st.val 2 d a b la lb false fun a b _ => quiet (if b.slt a then b else a)

/-- IMIN.N32: the smaller as unsigned (R195). -/
def execIminN32 (d a : Fin 64) (b : Mixed) (la lb : Bool) (st : Fin 8) (s : State) : Host.Outcome State Fault Refusal :=
  s.laneL st.val 2 d a b la lb false fun a b _ => quiet (if b.ult a then b else a)

/-- IMAX.I32: the larger as signed (R195). -/
def execImaxI32 (d a : Fin 64) (b : Mixed) (la lb : Bool) (st : Fin 8) (s : State) : Host.Outcome State Fault Refusal :=
  s.laneL st.val 2 d a b la lb false fun a b _ => quiet (if a.slt b then b else a)

/-- IMAX.N32: the larger as unsigned (R195). -/
def execImaxN32 (d a : Fin 64) (b : Mixed) (la lb : Bool) (st : Fin 8) (s : State) : Host.Outcome State Fault Refusal :=
  s.laneL st.val 2 d a b la lb false fun a b _ => quiet (if a.ult b then b else a)

/-- AND: bitwise AND (R195). -/
def execAnd (d a : Fin 64) (b : Mixed) (la lb : Bool) (st : Fin 8) (s : State) : Host.Outcome State Fault Refusal :=
  s.laneL st.val 2 d a b la lb false fun a b _ => quiet (a &&& b)

/-- OR: bitwise OR (R195). -/
def execOr (d a : Fin 64) (b : Mixed) (la lb : Bool) (st : Fin 8) (s : State) : Host.Outcome State Fault Refusal :=
  s.laneL st.val 2 d a b la lb false fun a b _ => quiet (a ||| b)

/-- XOR: bitwise XOR (R195). -/
def execXor (d a : Fin 64) (b : Mixed) (la lb : Bool) (st : Fin 8) (s : State) : Host.Outcome State Fault Refusal :=
  s.laneL st.val 2 d a b la lb false fun a b _ => quiet (a ^^^ b)

/-- SHL: left by B[5:0]; 32 or more gives 0 (R195). -/
def execShl (d a : Fin 64) (b : Mixed) (la lb : Bool) (st : Fin 8) (s : State) : Host.Outcome State Fault Refusal :=
  s.laneL st.val 2 d a b la lb false fun a b _ => quiet (a <<< (b.toNat % 64))

/-- SHR: right by B[5:0], zeros entering; 32 or more gives 0 (R195). -/
def execShr (d a : Fin 64) (b : Mixed) (la lb : Bool) (st : Fin 8) (s : State) : Host.Outcome State Fault Refusal :=
  s.laneL st.val 2 d a b la lb false fun a b _ => quiet (a >>> (b.toNat % 64))

/-- SRA: right by B[5:0], copies of bit 31 entering (R195). -/
def execSra (d a : Fin 64) (b : Mixed) (la lb : Bool) (st : Fin 8) (s : State) : Host.Outcome State Fault Refusal :=
  s.laneL st.val 2 d a b la lb false fun a b _ => quiet (a.sshiftRight (b.toNat % 64))

/-- ROT: left rotation by B[4:0] (R195). -/
def execRot (d a : Fin 64) (b : Mixed) (la lb : Bool) (st : Fin 8) (s : State) : Host.Outcome State Fault Refusal :=
  s.laneL st.val 2 d a b la lb false fun a b _ => quiet (a.rotateLeft (b.toNat % 32))

/-- BFE.I32: the field sign-extended (R198). -/
def execBfeI32 (d a : Fin 64) (b : Mixed) (la lb : Bool) (st : Fin 8) (s : State) : Host.Outcome State Fault Refusal :=
  s.laneL st.val 2 d a b la lb false fun a b _ => quiet (bfe true a b)

/-- BFE.N32: the field zero-extended (R198). -/
def execBfeN32 (d a : Fin 64) (b : Mixed) (la lb : Bool) (st : Fin 8) (s : State) : Host.Outcome State Fault Refusal :=
  s.laneL st.val 2 d a b la lb false fun a b _ => quiet (bfe false a b)

/-- IMAD: the product plus the old destination (R195). -/
def execImad (d a : Fin 64) (b : Mixed) (la lb : Bool) (st : Fin 8) (s : State) : Host.Outcome State Fault Refusal :=
  s.laneL st.val 2 d a b la lb true fun a b c => quiet (a * b + c)

/-- BFI: the old destination with a field replaced (R198). -/
def execBfi (d a : Fin 64) (b : Mixed) (la lb : Bool) (st : Fin 8) (s : State) : Host.Outcome State Fault Refusal :=
  s.laneL st.val 2 d a b la lb true fun a b c => quiet (bfi c a b)

/-- MOV: operand B (R196). -/
def execMov (d : Fin 64) (b : Mixed) (lb : Bool) (st : Fin 8) (s : State) : Host.Outcome State Fault Refusal :=
  s.lane ⟨true, st.val, mixedToks b, mixedUses b, [(keyV d, 2)], .other⟩ d (fun x => x.g.lastMixed b lb x.pc)
    fun x p => quiet (x.g.mixed b p)

/-- IADD64: the wrapping sum of 64-bit values in register pairs (R197). -/
def execIadd64 (d a : Fin 64) (b : Mixed) (la lb : Bool) (st : Fin 8) (s : State) : Host.Outcome State Fault Refusal :=
  let more := match b with
    | .v r => [keyV (nextV r 1)]
    | .s _ => []
  let sh : Shape := ⟨true, st.val, mixedToks b, keyV a :: keyV (nextV a 1) :: mixedUses b ++ more,
    [(keyV d, 2), (keyV (nextV d 1), 2)], .other⟩
  s.issue sh fun x s => s.withSlices x sh [d, nextV d 1] fun s =>
    let sum (p : Fin 64) : DWord := (x.g.readV (nextV a 1) p ++ x.g.readV a p) + x.g.mixed64 b p
    let g := (x.g.lastIf a la x.pc).lastIf (nextV a 1) la x.pc
    let g := match b with
      | .v r => (g.lastIf r lb x.pc).lastIf (nextV r 1) lb x.pc
      | .s _ => g
    let g := (g.writeV d x.act fun p => (sum p).setWidth 32).writeV (nextV d 1) x.act fun p => (sum p >>> 32).setWidth 32
    s.finish x sh g (fun _ => x.pc + 4) []

/-- IABS: the magnitude; −2^31 gives 0x80000000 (R199). -/
def execIabs (d a : Fin 64) (la : Bool) (st : Fin 8) (s : State) : Host.Outcome State Fault Refusal :=
  s.laneU st.val 2 d a la fun a => quiet (if a.slt 0 then -a else a)

/-- INEG: the negation (R199). -/
def execIneg (d a : Fin 64) (la : Bool) (st : Fin 8) (s : State) : Host.Outcome State Fault Refusal :=
  s.laneU st.val 2 d a la fun a => quiet (-a)

/-- NOT: the complement (R199). -/
def execNot (d a : Fin 64) (la : Bool) (st : Fin 8) (s : State) : Host.Outcome State Fault Refusal :=
  s.laneU st.val 2 d a la fun a => quiet (~~~a)

/-- POPC: the number of set bits (R199). -/
def execPopc (d a : Fin 64) (la : Bool) (st : Fin 8) (s : State) : Host.Outcome State Fault Refusal :=
  s.laneU st.val 2 d a la fun a => quiet (BitVec.ofNat 32 (popcount a))

/-- CLZ: the zero bits above the highest set bit (R199). -/
def execClz (d a : Fin 64) (la : Bool) (st : Fin 8) (s : State) : Host.Outcome State Fault Refusal :=
  s.laneU st.val 2 d a la fun a => quiet (BitVec.ofNat 32 (leadingZeros a))

/-- BREV: the bits reversed (R199). -/
def execBrev (d a : Fin 64) (la : Bool) (st : Fin 8) (s : State) : Host.Outcome State Fault Refusal :=
  s.laneU st.val 2 d a la fun a => quiet (a.reverse)

/-! ### Compares, votes, selects and masks (R201 to R205) -/

/-- An instruction that writes a mask in the lanes of ACT: the bit of each, and the flags it raises. -/
def State.maskL (s : State) (sh : Shape) (kd : Fin 7) (last : Ctx → Group) (f : Ctx → Fin 64 → Bool × Flags) :
    Host.Outcome State Fault Refusal :=
  s.plain sh fun x _ =>
    let g := (last x).writeK kd x.act (Lanes.ofFn fun p => (f x p).1)
    { g with xflags := x.act.list.foldl (fun a p => a ||| (f x p).2) g.xflags }

/-- A compare of A with the mixed B (R201, R203). -/
def State.compare (s : State) (st lat : Nat) (kd : Fin 7) (a : Fin 64) (b : Mixed) (la lb : Bool) (f : Word → Word → Bool × Flags) :
    Host.Outcome State Fault Refusal :=
  s.maskL ⟨true, st, mixedToks b, keyV a :: mixedUses b, [(keyK kd.val, lat)], .other⟩ kd
    (fun x => (x.g.lastIf a la x.pc).lastMixed b lb x.pc) fun x p => f (x.g.readV a p) (x.g.mixed b p)

/-- An integer condition (R201). -/
def intTest (sgn : Bool) (cnd : ICnd) (a b : Word) : Bool :=
  let lt (x y : Word) : Bool := if sgn then x.slt y else x.ult y
  match cnd with
  | .eq => a == b
  | .ne => a != b
  | .lt => lt a b
  | .le => !lt b a
  | .gt => lt b a
  | .ge => !lt a b

/-- ICMP.I32 (R201). -/
def execIcmpI32 (kd : Fin 7) (cnd : ICnd) (a : Fin 64) (b : Mixed) (la lb : Bool) (st : Fin 8) (s : State) :
    Host.Outcome State Fault Refusal :=
  s.compare st.val 2 kd a b la lb fun a b => (intTest true cnd a b, 0)

/-- ICMP.N32 (R201). -/
def execIcmpN32 (kd : Fin 7) (cnd : ICnd) (a : Fin 64) (b : Mixed) (la lb : Bool) (st : Fin 8) (s : State) :
    Host.Outcome State Fault Refusal :=
  s.compare st.val 2 kd a b la lb fun a b => (intTest false cnd a b, 0)

/-- FCMP (R203). -/
def execFcmp (kd : Fin 7) (cnd : FCnd) (a : Fin 64) (b : Mixed) (la lb : Bool) (st : Fin 8) (s : State) :
    Host.Outcome State Fault Refusal :=
  s.compare st.val 4 kd a b la lb fun a b => f32Test cnd a b

/-- VOTE: whether the register is not 0 (R202). -/
def execVote (kd : Fin 7) (a : Fin 64) (la : Bool) (st : Fin 8) (s : State) : Host.Outcome State Fault Refusal :=
  s.maskL ⟨true, st.val, [], [keyV a], [(keyK kd.val, 4)], .other⟩ kd (fun x => x.g.lastIf a la x.pc)
    fun x p => (x.g.readV a p != 0, 0)

/-- A select: B in the lanes of ACT whose mask bit is 1; the others keep the destination (R204). With no such lane the
destination is mapped all the same. [DESIGN CHOICE, log 113] -/
def State.select (s : State) (st lat : Nat) (d : Fin 64) (k : Fin 8) (b : Mixed) (lb : Bool) : Host.Outcome State Fault Refusal :=
  s.lane ⟨true, st, mixedToks b, keyV d :: keyK k.val :: mixedUses b, [(keyV d, lat)], .other⟩ d
    (fun x => x.g.lastMixed b lb x.pc) fun x p => quiet (if (x.g.mask k).has p then x.g.mixed b p else x.g.readV d p)

/-- ISEL (R204). -/
def execIsel (d : Fin 64) (k : Fin 8) (b : Mixed) (lb : Bool) (st : Fin 8) (s : State) : Host.Outcome State Fault Refusal :=
  s.select st.val 2 d k b lb

/-- FSEL (R204). -/
def execFsel (d : Fin 64) (k : Fin 8) (b : Mixed) (lb : Bool) (st : Fin 8) (s : State) : Host.Outcome State Fault Refusal :=
  s.select st.val 4 d k b lb

/-- A mask operation at the positions of ACT (R205). -/
def State.maskOp (s : State) (st : Nat) (kd : Fin 7) (srcs : List (Fin 8)) (f : Group → Lanes) : Host.Outcome State Fault Refusal :=
  s.plain ⟨true, st, [], srcs.map fun k => keyK k.val, [(keyK kd.val, 2)], .other⟩ fun x _ => x.g.writeK kd x.act (f x.g)

/-- KAND (R205). -/
def execKand (kd : Fin 7) (ka kb : Fin 8) (st : Fin 8) (s : State) : Host.Outcome State Fault Refusal :=
  s.maskOp st.val kd [ka, kb] fun g => g.mask ka &&& g.mask kb

/-- KOR (R205). -/
def execKor (kd : Fin 7) (ka kb : Fin 8) (st : Fin 8) (s : State) : Host.Outcome State Fault Refusal :=
  s.maskOp st.val kd [ka, kb] fun g => g.mask ka ||| g.mask kb

/-- KXOR (R205). -/
def execKxor (kd : Fin 7) (ka kb : Fin 8) (st : Fin 8) (s : State) : Host.Outcome State Fault Refusal :=
  s.maskOp st.val kd [ka, kb] fun g => g.mask ka ^^^ g.mask kb

/-- KNOT (R205). -/
def execKnot (kd : Fin 7) (ka : Fin 8) (st : Fin 8) (s : State) : Host.Outcome State Fault Refusal :=
  s.maskOp st.val kd [ka] fun g => ~~~g.mask ka

/-- KMOV (R205). -/
def execKmov (kd : Fin 7) (ka : Fin 8) (st : Fin 8) (s : State) : Host.Outcome State Fault Refusal :=
  s.maskOp st.val kd [ka] fun g => g.mask ka

/-- KPOPC: the number of positions of ACT whose mask bit is 1 (R205). -/
def execKpopc (sd : Fin 128) (ka : Fin 8) (st : Fin 8) (s : State) : Host.Outcome State Fault Refusal :=
  s.plain ⟨true, st.val, [sd], [keyK ka.val], [(keyS sd, 2)], .other⟩ fun x _ =>
    x.g.writeS sd (BitVec.ofNat 64 (popcount (x.g.mask ka &&& x.act)))

/-! ### Compact forms (R200) -/

/-- Compact MOV (R200). -/
def execMovCompact (d a : Fin 32) (last : Bool) (s : State) : Host.Outcome State Fault Refusal :=
  s.laneC 2 d a last false (fun _ b => quiet b)

/-- Compact IADD (R200). -/
def execIaddCompact (d a : Fin 32) (last : Bool) (s : State) : Host.Outcome State Fault Refusal :=
  s.laneC 2 d a last true (fun a b => quiet (a + b))

/-- Compact ISUB (R200). -/
def execIsubCompact (d a : Fin 32) (last : Bool) (s : State) : Host.Outcome State Fault Refusal :=
  s.laneC 2 d a last true (fun a b => quiet (a - b))

/-- Compact IMUL (R200). -/
def execImulCompact (d a : Fin 32) (last : Bool) (s : State) : Host.Outcome State Fault Refusal :=
  s.laneC 2 d a last true (fun a b => quiet (a * b))

/-- Compact AND (R200). -/
def execAndCompact (d a : Fin 32) (last : Bool) (s : State) : Host.Outcome State Fault Refusal :=
  s.laneC 2 d a last true (fun a b => quiet (a &&& b))

/-- Compact OR (R200). -/
def execOrCompact (d a : Fin 32) (last : Bool) (s : State) : Host.Outcome State Fault Refusal :=
  s.laneC 2 d a last true (fun a b => quiet (a ||| b))

/-- Compact XOR (R200). -/
def execXorCompact (d a : Fin 32) (last : Bool) (s : State) : Host.Outcome State Fault Refusal :=
  s.laneC 2 d a last true (fun a b => quiet (a ^^^ b))

/-- Compact SHL (R200). -/
def execShlCompact (d a : Fin 32) (last : Bool) (s : State) : Host.Outcome State Fault Refusal :=
  s.laneC 2 d a last true (fun a b => quiet (a <<< (b.toNat % 64)))

/-- Compact SHR (R200). -/
def execShrCompact (d a : Fin 32) (last : Bool) (s : State) : Host.Outcome State Fault Refusal :=
  s.laneC 2 d a last true (fun a b => quiet (a >>> (b.toNat % 64)))

/-- Compact SRA (R200). -/
def execSraCompact (d a : Fin 32) (last : Bool) (s : State) : Host.Outcome State Fault Refusal :=
  s.laneC 2 d a last true (fun a b => quiet (a.sshiftRight (b.toNat % 64)))

/-- Compact LEA (R200). -/
def execLeaCompact (d a : Fin 32) (last : Bool) (s : State) : Host.Outcome State Fault Refusal :=
  s.laneC 2 d a last true (fun a b => quiet (a + 4 * b))

end Sys2Proof.Machine
end

