-- ==== Sys2Proof/Machine/Cross.lean ====
section
/-! DEFINITION. Cross-lane instructions: shuffles, broadcasts, matches, and the reductions and scans over the canonical
tree (R20, R21, R212 to R218). -/
namespace Sys2Proof.Machine

/-! ### Shuffles (R213 to R215) -/

/-- A shuffle: the register of the lane of ACT at a computed position, else the lane's own (R213). -/
def State.shuffle (s : State) (st : Nat) (d a : Fin 64) (b : Mixed) (la lb : Bool) (src : Nat → Nat → Int) :
    Host.Outcome State Fault Refusal :=
  s.lane ⟨true, st, mixedToks b, keyV a :: mixedUses b, [(keyV d, 4)], .other⟩ d
    (fun x => (x.g.lastIf a la x.pc).lastMixed b lb x.pc) fun x p =>
      let q := src p.val (field (x.g.mixed b p).toNat 0 6)
      let r := Fin.ofNat 64 q.toNat
      quiet (if 0 ≤ q ∧ q < x.g.grant.lanes ∧ x.act.has r then x.g.readV a r else x.g.readV a p)

/-- SHFL: position n (R213). -/
def execShfl (d a : Fin 64) (b : Mixed) (la lb : Bool) (st : Fin 8) (s : State) : Host.Outcome State Fault Refusal :=
  s.shuffle st.val d a b la lb fun _ n => n

/-- SHFLUP: position p − n (R213). -/
def execShflup (d a : Fin 64) (b : Mixed) (la lb : Bool) (st : Fin 8) (s : State) : Host.Outcome State Fault Refusal :=
  s.shuffle st.val d a b la lb fun p n => (p : Int) - n

/-- SHFLDN: position p + n (R213). -/
def execShfldn (d a : Fin 64) (b : Mixed) (la lb : Bool) (st : Fin 8) (s : State) : Host.Outcome State Fault Refusal :=
  s.shuffle st.val d a b la lb fun p n => (p : Int) + n

/-- SHFLX: position p XOR n (R213). -/
def execShflx (d a : Fin 64) (b : Mixed) (la lb : Bool) (st : Fin 8) (s : State) : Host.Outcome State Fault Refusal :=
  s.shuffle st.val d a b la lb fun p n => (p ^^^ n : Nat)

/-- BCAST: the register of one lane of ACT in all of them (R214). -/
def execBcast (d a : Fin 64) (b : Mixed) (la lb : Bool) (st : Fin 8) (s : State) : Host.Outcome State Fault Refusal :=
  s.lane ⟨true, st.val, mixedToks b, keyV a :: mixedUses b, [(keyV d, 4)], .other⟩ d
    (fun x => (x.g.lastIf a la x.pc).lastMixed b lb x.pc) fun x _ =>
      let m := x.act.first
      let n := Fin.ofNat 64 (field (x.g.mixed b m).toNat 0 6)
      quiet (x.g.readV a (if x.act.has n then n else m))

/-- MATCH: the lowest position of ACT that holds an equal value (R215). -/
def execMatchV (d a : Fin 64) (la : Bool) (st : Fin 8) (s : State) : Host.Outcome State Fault Refusal :=
  s.lane ⟨true, st.val, [], [keyV a], [(keyV d, 4)], .other⟩ d (fun x => x.g.lastIf a la x.pc) fun x p =>
    quiet (BitVec.ofNat 32 ((x.act.list.find? fun q => x.g.readV a q == x.g.readV a p).getD p).val)

/-! ### The canonical tree (R20, R21) -/

/-- A combining operation with its flags. -/
abbrev LaneOp := Word → Word → Word × Flags

/-- Combine of R20, ABSENT as none, with the flags of every application below it. -/
def combine (op : LaneOp) (a b : Option (Word × Flags)) : Option (Word × Flags) :=
  match a, b with
  | some (x, fx), some (y, fy) => let (z, fz) := op x y; some (z, fx ||| fy ||| fz)
  | some u, none => some u
  | none, v => v

/-- node(k, i) over the positions of a group: block starts are multiples of the grant, so node k of position block i is
the node of the home lanes there (R20, R21). -/
def treeNode (op : LaneOp) (val : Nat → Option Word) : Nat → Nat → Option (Word × Flags)
  | 0, i => (val i).map fun w => (w, 0)
  | k + 1, i => combine op (treeNode op val k (2 * i)) (treeNode op val k (2 * i + 1))

/-- The levels of a grant's tree. -/
def Grant.levels : Grant → Nat
  | .w16 => 4
  | .w32 => 5
  | .w64 => 6

/-- The values that the lanes of ACT give, by position. -/
def Ctx.present (x : Ctx) (a : Fin 64) (p : Nat) : Option Word :=
  if p < x.g.grant.lanes ∧ x.act.has (Fin.ofNat 64 p) then some (x.g.readV a (Fin.ofNat 64 p)) else none

/-- A reduction: the root in every lane of ACT (R216). -/
def State.reduce (s : State) (st : Nat) (d a : Fin 64) (la : Bool) (op : LaneOp) : Host.Outcome State Fault Refusal :=
  s.lane ⟨true, st, [], [keyV a], [(keyV d, 4)], .other⟩ d (fun x => x.g.lastIf a la x.pc) fun x _ =>
    (treeNode op (x.present a) x.g.grant.levels 0).getD (0, 0)

/-- REDADD.N32 (R216). -/
def execRedaddN32 (d a : Fin 64) (la : Bool) (st : Fin 8) (s : State) : Host.Outcome State Fault Refusal :=
  s.reduce st.val d a la (fun x y => quiet (x + y))

/-- REDADD.F32 (R216). -/
def execRedaddF32 (d a : Fin 64) (la : Bool) (st : Fin 8) (s : State) : Host.Outcome State Fault Refusal :=
  s.reduce st.val d a la (f32AddF)

/-- REDMIN.I32 (R216). -/
def execRedminI32 (d a : Fin 64) (la : Bool) (st : Fin 8) (s : State) : Host.Outcome State Fault Refusal :=
  s.reduce st.val d a la (fun x y => quiet (if y.slt x then y else x))

/-- REDMIN.N32 (R216). -/
def execRedminN32 (d a : Fin 64) (la : Bool) (st : Fin 8) (s : State) : Host.Outcome State Fault Refusal :=
  s.reduce st.val d a la (fun x y => quiet (if y.ult x then y else x))

/-- REDMIN.F32 (R216). -/
def execRedminF32 (d a : Fin 64) (la : Bool) (st : Fin 8) (s : State) : Host.Outcome State Fault Refusal :=
  s.reduce st.val d a la (f32Pick true)

/-- REDMAX.I32 (R216). -/
def execRedmaxI32 (d a : Fin 64) (la : Bool) (st : Fin 8) (s : State) : Host.Outcome State Fault Refusal :=
  s.reduce st.val d a la (fun x y => quiet (if x.slt y then y else x))

/-- REDMAX.N32 (R216). -/
def execRedmaxN32 (d a : Fin 64) (la : Bool) (st : Fin 8) (s : State) : Host.Outcome State Fault Refusal :=
  s.reduce st.val d a la (fun x y => quiet (if x.ult y then y else x))

/-- REDMAX.F32 (R216). -/
def execRedmaxF32 (d a : Fin 64) (la : Bool) (st : Fin 8) (s : State) : Host.Outcome State Fault Refusal :=
  s.reduce st.val d a la (f32Pick false)

/-! ### Scans (R217) -/

/-- The largest k, at most `n`, with j a multiple of 2^k and j + 2^k at most `stop`. -/
def scanStep (j stop : Nat) : Nat → Nat
  | 0 => 0
  | n + 1 => if j % 2 ^ (n + 1) = 0 ∧ j + 2 ^ (n + 1) ≤ stop then n + 1 else scanStep j stop n

/-- The fold of the canonical subtrees that cover positions `j` up to `stop`, from a carry. -/
def scanFold (op : LaneOp) (val : Nat → Option Word) (stop : Nat) : Nat → Nat → Word × Flags → Word × Flags
  | 0, _, acc => acc
  | fuel + 1, j, acc =>
    if j < stop then
      let k := scanStep j stop 6
      scanFold op val stop fuel (j + 2 ^ k) ((combine op (some acc) (treeNode op val k (j / 2 ^ k))).getD acc)
    else acc

/-- A scan: each lane of ACT folds its carry-in with the lanes up to itself, or before it if exclusive (R217). -/
def State.scan (s : State) (st : Nat) (d a : Fin 64) (la exc : Bool) (op : LaneOp) : Host.Outcome State Fault Refusal :=
  s.lane ⟨true, st, [], [keyV a, keyV d], [(keyV d, 4)], .other⟩ d (fun x => x.g.lastIf a la x.pc) fun x p =>
    scanFold op (x.present a) (if exc then p.val else p.val + 1) 64 0 (x.g.readV d p, 0)

/-- SCANADD.N32 (R217). -/
def execScanaddN32 (d a : Fin 64) (la : Bool) (st : Fin 8) (s : State) : Host.Outcome State Fault Refusal :=
  s.scan st.val d a la false (fun x y => quiet (x + y))

/-- SCANADD.F32 (R217). -/
def execScanaddF32 (d a : Fin 64) (la : Bool) (st : Fin 8) (s : State) : Host.Outcome State Fault Refusal :=
  s.scan st.val d a la false (f32AddF)

/-- SCANADD.N32.EXC (R217). -/
def execScanaddN32Exc (d a : Fin 64) (la : Bool) (st : Fin 8) (s : State) : Host.Outcome State Fault Refusal :=
  s.scan st.val d a la true (fun x y => quiet (x + y))

/-- SCANADD.F32.EXC (R217). -/
def execScanaddF32Exc (d a : Fin 64) (la : Bool) (st : Fin 8) (s : State) : Host.Outcome State Fault Refusal :=
  s.scan st.val d a la true (f32AddF)

end Sys2Proof.Machine
end

