-- ==== Sys2Proof/Machine/Graphs.lean ====
section
/-! DEFINITION. Bound graphs: BIND and UNBIND (R282 to R285, R288, R291 to R293), the quotation of a graph (R294, R324), and the
dispatch and commit of firings (R289, R290). -/
namespace Sys2Proof.Machine

/-! ### The bind descriptor (R282) -/

/-- A bind descriptor. -/
structure BindDesc where
  graph : Nat
  space : Word
  ctl : DWord
  table : DWord
  nmax : Nat
  vmap : Nat
  die : Fin 4
  off : Nat
  len : Nat
  stages : DWord
  zero : Bool
  deriving DecidableEq, Repr

/-- The fields of a bind descriptor's 64 bytes. -/
def bindDesc (b : List Byte) : BindDesc :=
  { graph := fnum b 0 2, space := BitVec.ofNat 32 (fnum b 4 4), ctl := BitVec.ofNat 64 (fnum b 0x08 8)
    table := BitVec.ofNat 64 (fnum b 0x10 8), nmax := fnum b 0x18 4, vmap := fnum b 0x20 4
    die := Fin.ofNat 4 (field (fnum b 0x20 8) 32 2), off := field (fnum b 0x28 8) 0 49, len := field (fnum b 0x30 8) 0 49
    stages := BitVec.ofNat 64 (fnum b 0x38 8)
    zero := fnum b 2 2 == 0 && fnum b 0x1C 4 == 0 && field (fnum b 0x20 8) 34 30 == 0 && field (fnum b 0x28 8) 49 15 == 0
      && field (fnum b 0x30 8) 49 15 == 0 }

/-- The vaults that a descriptor permits, ascending. -/
def BindDesc.vaults (b : BindDesc) : List Nat := (List.range 32).filter fun v => b.vmap.testBit v

/-- Whether a descriptor's addresses are aligned as R282 asks. -/
def BindDesc.aligned (b : BindDesc) : Bool :=
  b.ctl.toNat % 64 == 0 && b.table.toNat % 16 == 0 && b.off % 0x10000 == 0 && b.len % 0x10000 == 0

/-- Why a descriptor is not bound: a hold at a frozen page, a code whose REASON the manual does not give, with the descriptor if
it was read, or a failure of R285. -/
inductive BindErr where
  | held
  | early (code : Byte) (b : Option BindDesc)
  | fails (code : Byte) (reason : Nat) (b : BindDesc)
  deriving DecidableEq, Repr

/-- A front end's read error as a bind error. -/
def FrontErr.bindErr (e : FrontErr) (b : Option BindDesc) : BindErr :=
  match e with
  | .held => .held
  | .fault code _ => .early code b

/-- The launch records whose addresses an array holds, in its order; each is aligned to 64 bytes. -/
def State.readRecords (s : State) (c : Command) (b : BindDesc) : List DWord → Except BindErr (List LaunchRec) × State
  | [] => (.ok [], s)
  | a :: as =>
    if a.toNat % 64 ≠ 0 then (.error (.early 0x0A (some b)), s)
    else match s.frontRead c.die c.space a 256 with
      | (.error e, s) => (.error (e.bindErr (some b)), s)
      | (.ok bs, s) =>
        match s.readRecords c b as with
        | (.ok rs, s) => (.ok (launchRec bs :: rs), s)
        | r => r

/-- The first `n` launch records that a descriptor names. [DEDUCED, log 73] -/
def State.recordsOf (s : State) (c : Command) (b : BindDesc) (n : Nat) : Except BindErr (List LaunchRec) × State :=
  match s.frontRead c.die c.space b.stages (8 * n) with
  | (.error e, s) => (.error (e.bindErr (some b)), s)
  | (.ok bs, s) => s.readRecords c b ((List.range n).map fun i => BitVec.ofNat 64 (fnum bs (8 * i) 8))

/-- The first stage, in the order of stage indices, whose launch record is rejected: its code. A record that does not name the
stage's own kernel is rejected as one that names none. `codes` is the sites of each stage's kernel. [DEDUCED, log 73] -/
def State.stageProblem (s : State) (c : Command) (handle : Nat) (bound quoting : Bool) :
    List (Nat × LaunchRec × List Site) → Option Byte
  | [] => none
  | (kidx, r, ss) :: rest =>
    if r.handle ≠ handle ∨ r.kidx ≠ kidx then some 0x01
    else match s.launchProblem c r bound quoting ss with
      | some (_, code) => some code
      | none => s.stageProblem c handle bound quoting rest

/-- The sites of the kernels that launch records name, for QUOTE. -/
def State.codesOf (s : State) (c : Command) (b : BindDesc) : List LaunchRec → Except BindErr (List (List Site)) × State
  | [] => (.ok [], s)
  | r :: rs =>
    let (code, s) : Except FrontErr (List Site) × State := match s.kernelFor c.space r with
      | none => (.ok [], s)
      | some k => s.codeOf c k
    match code with
    | .error e => (.error (e.bindErr (some b)), s)
    | .ok ss =>
      match s.codesOf c b rs with
      | (.ok l, s) => (.ok (ss :: l), s)
      | r => r

/-- A bind solved: the descriptor, the plan, and in the order of stage indices the sites of each stage's kernel and the RESV of
its launch record. -/
structure Bound where
  desc : BindDesc
  plan : GPlan
  sites : List (List Site)
  resv : List Nat
  deriving DecidableEq, Repr

/-- A descriptor whose graph and launch records have been found, solved (R284 to R287) and its records judged (R285). -/
def State.planOf (s : State) (c : Command) (b : BindDesc) (decl : GraphDecl) (recs : List LaunchRec)
    (codes : List (List Site)) (handle : Nat) (qid : Option DWord) (quoting : Bool) : Except BindErr Bound :=
  let own := { c with space := b.space }
  let count (r : LaunchRec) : Nat := r.dims.1 * r.dims.2.1 * r.dims.2.2
  let rows := (decl.stages.zip recs).zip codes
  match churn decl (rows.map fun x => (x.1.1.1, count x.1.2)) b.nmax b.die b.vaults b.off b.len with
  | .error reason => .error (.fails (if reason = 5 then 0x01 else 0x0F) reason b)
  | .ok v =>
    let inOrder := v.stages.filterMap fun y => (rows.find? fun x => x.1.1.1 == y.1).map fun x => (y, x)
    match s.stageProblem own handle qid.isSome quoting (inOrder.map fun x => (x.2.1.1.2, x.2.1.2, x.2.2)) with
    | some code => .error (.fails code 6 b)
    | none =>
      let stages := inOrder.filterMap fun x => (s.kernelFor b.space x.2.1.2).map fun k =>
        (⟨x.1.1, x.2.1.2.grid own k qid, count x.2.1.2, x.1.2⟩ : GStage)
      .ok ⟨b, ⟨stages, v.edges, v.table, b.table, qid⟩, inOrder.map fun x => x.2.2, inOrder.map fun x => x.2.1.2.resv⟩

/-- The descriptor at an address read and solved. The graph's file is the one that the first launch record names; for QUOTE the
kernels' code is read once nothing else fails. [DEDUCED, log 73] -/
def State.solveBind (s : State) (c : Command) (a : DWord) (qid : Option DWord) (quoting : Bool) : Except BindErr Bound × State :=
  if a.toNat % 64 ≠ 0 then (.error (.early 0x0A none), s)
  else match s.frontRead c.die c.space a 64 with
    | (.error e, s) => (.error (e.bindErr none), s)
    | (.ok bs, s) =>
      let b := bindDesc bs
      if b.zero = false then (.error (.early 0x05 (some b)), s)
      else if b.aligned = false then (.error (.early 0x0A (some b)), s)
      else if (s.spaceRoot c.die b.space).isNone then (.error (.early 0x10 (some b)), s)
      else match s.recordsOf c b 1 with
        | (.error e, s) => (.error e, s)
        | (.ok first, s) =>
          let handle := (first.head?).elim 0 LaunchRec.handle
          match s.files.find? fun x => x.handle == handle && x.space == b.space with
          | none => (.error (.fails 0x01 6 b), s)
          | some f =>
            match f.graphs[b.graph]? with
            | none => (.error (.early 0x01 (some b)), s)
            | some decl =>
              match s.recordsOf c b decl.stages.length with
              | (.error e, s) => (.error e, s)
              | (.ok recs, s) =>
                match s.planOf c b decl recs (recs.map fun _ => []) handle qid quoting with
                | .error e => (.error e, s)
                | .ok v =>
                  if !quoting then (.ok v, s)
                  else match s.codesOf { c with space := b.space } b recs with
                    | (.error e, s) => (.error e, s)
                    | (.ok codes, s) => (s.planOf c b decl recs codes handle qid quoting, s)

/-! ### The quotation of a graph (R294, R324) -/

/-- A stage's grid with the units that it would have, and its figures. -/
def State.quoteStage (s : State) (st : GStage) (ss : List Site) (resv : Nat) : GStage × Figures :=
  let us := s.unitsTaken st.job resv
  let f := s.figures st.job ss us
  ({ st with job := { st.job with units := f.units } }, f)

/-- The pages of a plan's buffers, as pinned ranges (R287). -/
def GPlan.buffers (p : GPlan) : List (Nat × Nat) := p.edges.map fun e => (e.addr, (64 * e.cap + 0xFFFF) / 0x10000 * 0x10000)

/-- A graph quoted per period: the sums over the table's entries, and the union of the stages' units (R294, R324). [DESIGN CHOICE, log 19] -/
def State.quotePlan (s : State) (c : Command) (v : Bound) : Quote × State :=
  let qid := s.pkg.quoteSeq
  let rows := ((v.plan.stages.zip v.sites).zip v.resv).map fun x => (x.1.1, s.quoteStage x.1.1 x.1.2 x.2)
  let sum (f : Figures → Nat) : Nat := (rows.map fun x => x.1.q * f x.2.2).sum
  let units := rows.flatMap fun x => x.2.2.units
  let names := (units.map Prod.fst).eraseDups
  let least (u : Fin 128) : Nat := ((units.filter fun x => x.1 == u).map Prod.snd).foldl min ((units.head?.map Prod.snd).getD 0)
  let figures : Figures :=
    { time := sum Figures.time, energy := sum Figures.energy
      units := (sortBy Fin.val names).map fun u => (u, least u), gran := (rows.map fun x => x.2.2.gran).foldl max 0 }
  let cores := rows.foldl (fun m x => m ||| x.1.job.coreSet (x.2.2.units.map Prod.fst)) 0
  let pins := (rows.flatMap fun x => x.1.job.kern.pins) ++ v.plan.buffers
  let (n, s) := s.draw
  ({ Quote.new qid { c with space := v.desc.space } s.reft figures with
      handle := (v.plan.stages.head?).elim 0 fun x => x.job.handle
      digest := Config.graphDigest n
      cores := cores
      vaults := cores ||| s.pinVaults c.die v.desc.space pins
      clause := 8
      pins := pins
      graph := some { v.plan with stages := rows.map fun x => x.2.1, qid := some qid } }, s)

/-- QUOTE of a bind descriptor (R324): a graph that does not solve completes with the CODE and REASON that a bind would have. [DESIGN CHOICE, log 19; DEDUCED, log 77] -/
def State.quoteGraph (s : State) (c : Command) : Option State :=
  if c.a1.toNat % 64 ≠ 0 then some (s.completeOpen c 0x0A)
  else match s.solveBind c c.a2 (some s.pkg.quoteSeq) true with
    | (.error .held, _) => none
    | (.error (.early code _), s) => some (s.completeOpen c code)
    | (.error (.fails code reason _), s) => some (s.complete c code reason 0 0)
    | (.ok v, s) =>
      let (q, s) := s.quotePlan c v
      s.issueQuote c q

/-- QUOTE carried out (R317, R326). -/
def State.quote_ (s : State) (c : Command) : Option State :=
  if (c.a0 = 0) = (c.a2 = 0) then some (s.complete c 0x05 1 0 0)
  else if c.a2 = 0 then s.quoteLaunch c
  else s.quoteGraph c

/-- QUOTE: a launch record or a graph is quoted (R317, R320 to R325). -/
def execCmdQuote (die : Fin 4) (queue : Byte) (s : State) : Host.Outcome State Fault Refusal :=
  .next (s.runCommand die queue 3 State.quote_)

/-! ### BIND (R282, R288, R291, R293) -/

/-- The status of a bind written in the control block that a descriptor names (R283, R285). -/
def State.putBindStatus (s : State) (c : Command) (b : BindDesc) (code : Byte) (reason : Nat) : State :=
  s.frontPut c.die b.space (b.ctl + 0x20) (leBytes 8 (code.toNat + reason % 256 * 2 ^ 8))

/-- A bind that fails: its status in the control block, if that is known, and in the command's status word (R285). -/
def State.failBind (s : State) (c : Command) (e : BindErr) : State :=
  match e with
  | .held => s
  | .early code b =>
    let (n, s) := s.draw
    let reason := (Config.statusReason n).toNat
    let s := match b with
      | some b => if b.ctl.toNat % 64 = 0 then s.putBindStatus c b code reason else s
      | none => s
    s.complete c code reason 0 0
  | .fails code reason b => (s.putBindStatus c b code reason).complete c code reason 0 0

/-- What two plans must share for a quotation to cover a bind. -/
def GPlan.core (p : GPlan) : List (Nat × Nat × Nat × Grid) × List GEdge × List GEntry :=
  (p.stages.map fun x => (x.id, x.teams, x.q, { x.job with die := 0, queue := 0, prio := 0, imm := false, units := [] }),
    p.edges, p.table)

/-- The plan that a bind puts in force under a quotation: the solved one, with the units that acceptance fixed; none if the
descriptor no longer solves to what was quoted. -/
def GPlan.under (p quoted : GPlan) : Option GPlan :=
  if p.core = quoted.core then
    some { p with stages := (p.stages.zip quoted.stages).map fun x =>
      { x.1 with job := { x.1.job with units := x.2.job.units } } }
  else none

/-- The fields of a control block when a table comes into force: TBL, NENT, then CODE (R288, R291). [DEDUCED, log 74] -/
def State.putTable (s : State) (g : Graph) : State :=
  let s := s.putCtl g 0x28 8 g.plan.tableVa.toNat
  let s := s.putCtl g 0x30 8 g.plan.table.length
  s.putCtl g 0x20 8 0

/-- A quotation that no longer covers a binding settles, and its reservation is released. [DEDUCED, log 77] -/
def State.endCover (s : State) (qid : Option DWord) : State :=
  match qid with
  | some q => s.modQuote q fun x => { x with state := .settled }
  | none => s

/-- A bind whose table has been written: a new graph, or a rebind that waits for a whole number of periods (R291, R293). -/
def State.putGraph (s : State) (c : Command) (v : Bound) (plan : GPlan) : State :=
  let s := match plan.qid with
    | some q => s.modQuote q fun x => { x with state := .running, die := c.die, queue := c.queue }
    | none => s
  match s.graphs.find? fun g => g.ctl == v.desc.ctl && g.space == v.desc.space with
  | some g =>
    let s := match g.swap with
      | some (p, a) => ((s.putBindStatus c v.desc 0 7).writeAt a (statusWord 0 7 0 0)).endCover p.qid
      | none => s
    s.modGraph g.id fun x => { x with swap := some (plan, c.statAt) }
  | none =>
    let (id, s) := s.newId
    let g : Graph :=
      { id := id, ctl := v.desc.ctl, space := v.desc.space, die := c.die, queue := c.queue, plan := plan, period := 0, entry := 0
        firings := [], doneSet := 0, ahead := [], since := 0, periods := 0, shorts := 0, swap := none, unbind := none }
    let s : State := { s with graphs := s.graphs ++ [g] }
    let s := [0x00, 0x08, 0x10, 0x18, 0x38].foldl (fun s off => s.putCtl g off 8 0) s
    (s.putTable g).complete c 0 0 0 0

/-- The table of a plan written at TABLE, and the graph bound (R288); none while its page is frozen. -/
def State.bindPlan (s : State) (c : Command) (v : Bound) (plan : GPlan) : Option State :=
  match s.frontStore c.die v.desc.space plan.tableVa plan.tableBytes with
  | (.error (.held, _, _), _) => none
  | (.error (.fault code _, _, _), s) => some (s.failBind c (.early code (some v.desc)))
  | (.ok (), s) => some (s.putGraph c v plan)

/-- Whether an unbind of the graph that a descriptor names waits: a bind to its control block comes after it. -/
def State.unbinding (s : State) (b : BindDesc) : Bool :=
  s.graphs.any fun g => g.ctl == b.ctl && g.space == b.space && g.unbind.isSome

/-- BIND under a quotation or as open work, carried out; none while a page is frozen or an unbind of the same graph waits. [DEDUCED, log 74] -/
def State.bindWith (s : State) (c : Command) (quoted : Option Quote) : Option State :=
  match s.solveBind c c.a0 (quoted.map Quote.qid) false with
  | (.error .held, _) => none
  | (.error e, s) => some (s.failBind c e)
  | (.ok v, s) =>
    if s.unbinding v.desc then none
    else match quoted with
      | none => s.bindPlan c v v.plan
      | some q =>
        match q.graph.bind v.plan.under with
        | some plan => s.bindPlan c v plan
        | none => some (s.complete c 0x01 4 0 0)

/-- BIND carried out (R282, R291, R326): a quotation that it names must be an accepted one of a graph. [DEDUCED, log 74] -/
def State.bind_ (s : State) (c : Command) : Option State :=
  if c.a1 = 0 then s.bindWith c none
  else
    let s := s.expire c.a1
    match s.quote c.a1 with
    | none => some (s.complete c 0x01 3 0 0)
    | some q =>
      match q.state with
      | .settled | .void => some (s.complete c 0x01 3 0 0)
      | .quoted | .running => some (s.complete c 0x01 4 0 0)
      | .accepted => if q.graph.isSome then s.bindWith c (some q) else some (s.complete c 0x01 4 0 0)

/-- BIND: a graph is bound, or rebound, and Churn's table written (R282 to R288, R291, R293). -/
def execCmdBind (die : Fin 4) (queue : Byte) (s : State) : Host.Outcome State Fault Refusal :=
  .next (s.runCommand die queue 7 State.bind_)

/-- UNBIND carried out: the graph of the queue's space whose control block the command names will stop at the end of a period
(R292). [DEDUCED, log 74] -/
def State.unbind_ (s : State) (c : Command) : Option State :=
  some (match s.graphs.find? fun g => g.ctl == c.a0 && g.space == c.space && g.unbind.isNone with
  | some g => s.modGraph g.id fun x => { x with unbind := some c.statAt }
  | none => s.completeOpen c 0x01)

/-- UNBIND: a graph stops at the end of a period (R292). -/
def execCmdUnbind (die : Fin 4) (queue : Byte) (s : State) : Host.Outcome State Fault Refusal :=
  .next (s.runCommand die queue 8 State.unbind_)

/-! ### Dispatch (R289) -/

/-- Whether a firing's records are there and its output has room. -/
def GPlan.mayFire (p : GPlan) (period : Nat) (e : GEntry) : Bool :=
  p.edges.all fun x =>
    (x.dst != e.stage || decide (period * x.n + e.fire * x.c + x.c ≤ x.made))
      && (x.src != e.stage || decide (period * x.n + e.fire * x.p + x.p ≤ x.used + x.cap))

/-- The next entry that a graph may dispatch: not before the release that followed its table (R288), and not of a new period while a
rebind or an unbind waits (R291, R292). -/
def State.nextEntry (s : State) (g : Graph) : Option GEntry :=
  if (g.entry = 0 ∧ (g.swap.isSome ∨ g.unbind.isSome)) ∨ s.isRetiring (s.die g.die).part g.space ∨ s.writesWait g.die then none
  else match g.plan.table[g.entry]? with
    | none => none
    | some e => if g.plan.mayFire g.period e then some e else none

/-- FIRING_DISPATCH: a graph's next entry, whose input is committed and whose output has room, becomes a grid that waits for
placement (R289), among the commands from the moment of its dispatch. [DESIGN CHOICE, log 115] -/
def execFiringDispatch (graph : Nat) (s : State) : Host.Outcome State Fault Refusal :=
  .next (match s.graphOf graph with
  | none => s
  | some g =>
    match s.nextEntry g with
    | none => s
    | some e =>
      match g.plan.stages[e.stage]? with
      | none => s
      | some st =>
        let (fid, s) := s.newId
        let (gid, s) := s.newId
        let f : Firing := ⟨fid, e.stage, g.period, e.fire, e.last, gid, [], false⟩
        let s : State := { s with grids := s.grids ++ [{ st.job with id := gid, taken := gid, firing := some (graph, fid) }] }
        let excess := decide (g.plan.table.length ≤ g.entry + 1)
        s.modGraph graph fun x =>
          { x with
            firings := x.firings ++ [f]
            entry := if excess then 0 else x.entry + 1
            period := if excess then x.period + 1 else x.period })

/-! ### Commit and the period boundary (R290) -/

/-- Whether an earlier firing of a stage has yet to commit. -/
def Graph.earlier (g : Graph) (f : Firing) : Bool :=
  g.firings.any fun x => x.stage == f.stage
    && (decide (x.period < f.period) || (x.period == f.period && decide (x.fire < f.fire)))

/-- The counts of the edges after a firing's commit. -/
def committed (f : Firing) (es : List GEdge) : List GEdge :=
  es.map fun e =>
    { e with made := if e.src = f.stage then e.made + e.p else e.made, used := if e.dst = f.stage then e.used + e.c else e.used }

/-- The set of stages that have completed the last firing of a period, of those that had gone ahead. -/
def doneOf (ahead : List (Nat × Nat)) (period : Nat) : BitVec 64 :=
  ahead.foldl (fun m x => if x.1 = period then m ||| (1#64 <<< x.2) else m) 0

/-- The period boundary (R290): DONE is cleared of the period and PERIOD rises; a quoted period is settled, with a breach record
of kind 2 that names it (R294). [DESIGN CHOICE, log 75; DEDUCED, log 77] -/
def State.endPeriod (s : State) (g : Graph) : State :=
  let next := satAdd g.periods.toNat 1
  let done := doneOf g.ahead (g.periods.toNat - g.since + 1)
  let s := s.putCtl g 0x00 8 done.toNat
  let s := s.putCtl g 0x08 8 next
  let s := s.modGraph g.id fun x =>
    { x with
      doneSet := done
      ahead := x.ahead.filter fun y => y.1 != g.periods.toNat - g.since + 1
      periods := BitVec.ofNat 64 next }
  match g.plan.qid.bind s.quote with
  | some q => (s.breachCheck q 2 g.periods).modQuote q.qid Quote.restart
  | none => s

/-- A firing's commit (R290). [DESIGN CHOICE, log 75] -/
def State.commitFiring (s : State) (g : Graph) (f : Firing) : State :=
  let current := f.period == g.periods.toNat - g.since
  let done := if f.last && current then g.doneSet ||| (1#64 <<< f.stage) else g.doneSet
  let g' := { g with
    plan := { g.plan with edges := committed f g.plan.edges }
    firings := g.firings.filter fun x => x.id != f.id
    doneSet := done
    ahead := if f.last && !current then g.ahead ++ [(f.period, f.stage)] else g.ahead }
  let s := s.modGraph g.id fun _ => g'
  if f.last && current then
    let s := s.putCtl g' 0x00 8 done.toNat
    if (List.range g.plan.stages.length).all fun i => done.getLsbD i then s.endPeriod g' else s
  else s

/-- Whether a store of a space by work that has left its core has yet to perform, in flight or in a replay queue, or a write of a
die's front end waits: a commit is a release at device scope. [DESIGN CHOICE, log 75] -/
def State.storesLeft (s : State) (d : Fin 4) (space : Word) : Bool :=
  (s.reqs.any fun r => r.space == space && r.open_ && r.kind != .load && (s.findGroup r.core r.uid).isNone)
    || (allCores.any fun c => (s.core c).replay.any fun r => r.page.space == space && (s.findGroup c r.uid).isNone)
    || s.writesWait d

/-- FIRING_COMMIT: a completed firing commits once every earlier firing of its stage has (R290). -/
def execFiringCommit (graph firing : Nat) (s : State) : Host.Outcome State Fault Refusal :=
  .next (match s.graphOf graph with
  | none => s
  | some g =>
    match g.firings.find? fun f => f.id == firing with
    | none => s
    | some f => if f.done && !g.earlier f && !s.storesLeft g.die g.space then s.commitFiring g f else s)

/-! ### The swap and the end of a binding (R291, R292) -/

/-- Whether every dispatched firing has committed and they form a whole number of periods. -/
def Graph.atBoundary (g : Graph) : Bool := g.firings.isEmpty && g.entry == 0

/-- REBIND_SWAP: at a whole number of periods a rebind's table comes into force (R291). [DESIGN CHOICE, log 75] -/
def execRebindSwap (graph : Nat) (s : State) : Host.Outcome State Fault Refusal :=
  .next (match s.graphOf graph with
  | none => s
  | some g =>
    match g.swap with
    | none => s
    | some (plan, a) =>
      if g.atBoundary then
        let g' := { g with
          plan := plan, period := 0, entry := 0, doneSet := 0, ahead := [], since := g.periods.toNat, swap := none }
        let s := (s.endCover g.plan.qid).modGraph g.id fun _ => g'
        let s := match plan.qid with
          | some q => s.modQuote q Quote.restart
          | none => s
        ((s.putCtl g' 0x00 8 0).putTable g').writeAt a (statusWord 0 0 0 0)
      else s)

/-- UNBIND_COMPLETION: at a whole number of periods a graph is unbound, and its control block reads SPACE (R292). [DEDUCED, log 77] -/
def execUnbindCompletion (graph : Nat) (s : State) : Host.Outcome State Fault Refusal :=
  .next (match s.graphOf graph with
  | none => s
  | some g =>
    match g.unbind with
    | none => s
    | some a =>
      if g.atBoundary && g.swap.isNone then
        let s := (s.endCover g.plan.qid).putCtl g 0x20 8 0x10
        State.writeAt { s with graphs := s.graphs.filter fun x => x.id != g.id } a (statusWord 0 0 0 0)
      else s)

end Sys2Proof.Machine
end

