-- ==== Sys2Proof/Machine/LaneFloat.lean ====
section
/-! DEFINITION. Lane instructions on floating-point values: binary32 and packed binary16 arithmetic, the compact forms,
conversions, and the flags register (R206 to R211, R219). -/
namespace Sys2Proof.Machine

/-! ### binary32 (R206 to R208) -/

/-- FADD: the rounded sum (R206). -/
def execFadd (d a : Fin 64) (b : Mixed) (la lb : Bool) (st : Fin 8) (s : State) : Host.Outcome State Fault Refusal :=
  s.laneL st.val 4 d a b la lb false fun a b _ => f32AddF a b

/-- FSUB: the rounded difference (R206). -/
def execFsub (d a : Fin 64) (b : Mixed) (la lb : Bool) (st : Fin 8) (s : State) : Host.Outcome State Fault Refusal :=
  s.laneL st.val 4 d a b la lb false fun a b _ => f32SubF a b

/-- FMUL: the rounded product (R206). -/
def execFmul (d a : Fin 64) (b : Mixed) (la lb : Bool) (st : Fin 8) (s : State) : Host.Outcome State Fault Refusal :=
  s.laneL st.val 4 d a b la lb false fun a b _ => f32Op2 mulV a b

/-- FFMA: the product plus the old destination with one rounding (R206). -/
def execFfma (d a : Fin 64) (b : Mixed) (la lb : Bool) (st : Fin 8) (s : State) : Host.Outcome State Fault Refusal :=
  s.laneL st.val 4 d a b la lb true fun a b c => f32Fma a b c

/-- FMIN (R207). -/
def execFmin (d a : Fin 64) (b : Mixed) (la lb : Bool) (st : Fin 8) (s : State) : Host.Outcome State Fault Refusal :=
  s.laneL st.val 4 d a b la lb false fun a b _ => f32Pick true a b

/-- FMAX (R207). -/
def execFmax (d a : Fin 64) (b : Mixed) (la lb : Bool) (st : Fin 8) (s : State) : Host.Outcome State Fault Refusal :=
  s.laneL st.val 4 d a b la lb false fun a b _ => f32Pick false a b

/-- FDIV: the rounded quotient (R206). -/
def execFdiv (d a : Fin 64) (b : Mixed) (la lb : Bool) (st : Fin 8) (s : State) : Host.Outcome State Fault Refusal :=
  s.laneL st.val 8 d a b la lb false fun a b _ => f32Op2 divV a b

/-- FRCP: the reciprocal (R206). -/
def execFrcp (d a : Fin 64) (la : Bool) (st : Fin 8) (s : State) : Host.Outcome State Fault Refusal :=
  s.laneU st.val 8 d a la fun a => f32Op1 (fun x => divV (.fin false 1 0) x) a

/-- FRSQ: the reciprocal square root (R206). -/
def execFrsq (d a : Fin 64) (la : Bool) (st : Fin 8) (s : State) : Host.Outcome State Fault Refusal :=
  s.laneU st.val 8 d a la fun a => f32Op1 rsqV a

/-- FSQRT: the square root (R206). -/
def execFsqrt (d a : Fin 64) (la : Bool) (st : Fin 8) (s : State) : Host.Outcome State Fault Refusal :=
  s.laneU st.val 8 d a la fun a => f32Op1 sqrtV a

/-- FEXP2: the power of two (R206). -/
def execFexp2 (d a : Fin 64) (la : Bool) (st : Fin 8) (s : State) : Host.Outcome State Fault Refusal :=
  s.laneU st.val 8 d a la fun a => f32Op1 exp2V a

/-- FLOG2: the base-2 logarithm (R206). -/
def execFlog2 (d a : Fin 64) (la : Bool) (st : Fin 8) (s : State) : Host.Outcome State Fault Refusal :=
  s.laneU st.val 8 d a la fun a => f32Op1 log2V a

/-- FSIN: the sine (R206). -/
def execFsin (d a : Fin 64) (la : Bool) (st : Fin 8) (s : State) : Host.Outcome State Fault Refusal :=
  s.laneU st.val 8 d a la fun a => f32Op1 sinV a

/-- FCOS: the cosine (R206). -/
def execFcos (d a : Fin 64) (la : Bool) (st : Fin 8) (s : State) : Host.Outcome State Fault Refusal :=
  s.laneU st.val 8 d a la fun a => f32Op1 cosV a

/-- FABS: bit 31 cleared (R208). -/
def execFabs (d a : Fin 64) (la : Bool) (st : Fin 8) (s : State) : Host.Outcome State Fault Refusal :=
  s.laneU st.val 4 d a la fun a => quiet (a &&& 0x7FFFFFFF)

/-- FNEG: bit 31 inverted (R208). -/
def execFneg (d a : Fin 64) (la : Bool) (st : Fin 8) (s : State) : Host.Outcome State Fault Refusal :=
  s.laneU st.val 4 d a la fun a => quiet (a ^^^ 0x80000000)

/-- FCLASS: the class bit (R208). -/
def execFclass (d a : Fin 64) (la : Bool) (st : Fin 8) (s : State) : Host.Outcome State Fault Refusal :=
  s.laneU st.val 4 d a la fun a => quiet (f32Class a)

/-- FRND.RN: rounded to integral, nearest even (R208). -/
def execFrndRn (d a : Fin 64) (la : Bool) (st : Fin 8) (s : State) : Host.Outcome State Fault Refusal :=
  s.laneU st.val 4 d a la fun a => f32Integral .rn a

/-- FRND.RZ: rounded to integral toward zero (R208). -/
def execFrndRz (d a : Fin 64) (la : Bool) (st : Fin 8) (s : State) : Host.Outcome State Fault Refusal :=
  s.laneU st.val 4 d a la fun a => f32Integral .rz a

/-- FRND.RP: rounded to integral toward +∞ (R208). -/
def execFrndRp (d a : Fin 64) (la : Bool) (st : Fin 8) (s : State) : Host.Outcome State Fault Refusal :=
  s.laneU st.val 4 d a la fun a => f32Integral .rp a

/-- FRND.RM: rounded to integral toward −∞ (R208). -/
def execFrndRm (d a : Fin 64) (la : Bool) (st : Fin 8) (s : State) : Host.Outcome State Fault Refusal :=
  s.laneU st.val 4 d a la fun a => f32Integral .rm a

/-! ### Packed binary16 (R209) -/

/-- An operation on each half of a word, the flags of both joined. -/
def halves (f : Nat → Nat → Nat → Nat × Flags) (a b c : Word) : Word × Flags :=
  let lo := f (field a.toNat 0 16) (field b.toNat 0 16) (field c.toNat 0 16)
  let hi := f (field a.toNat 16 16) (field b.toNat 16 16) (field c.toNat 16 16)
  (BitVec.ofNat 32 (lo.1 + 65536 * hi.1), lo.2 ||| hi.2)

/-- HADD2 (R209). -/
def execHadd2 (d a : Fin 64) (b : Mixed) (la lb : Bool) (st : Fin 8) (s : State) : Host.Outcome State Fault Refusal :=
  s.laneL st.val 4 d a b la lb false (halves fun a b _ => binary16.op2 addV a b)

/-- HMUL2 (R209). -/
def execHmul2 (d a : Fin 64) (b : Mixed) (la lb : Bool) (st : Fin 8) (s : State) : Host.Outcome State Fault Refusal :=
  s.laneL st.val 4 d a b la lb false (halves fun a b _ => binary16.op2 mulV a b)

/-- HFMA2 (R209). -/
def execHfma2 (d a : Fin 64) (b : Mixed) (la lb : Bool) (st : Fin 8) (s : State) : Host.Outcome State Fault Refusal :=
  s.laneL st.val 4 d a b la lb true (halves fun a b c =>
    binary16.finishOp (fmaV (binary16.decode a) (binary16.decode b) (binary16.decode c)))

/-! ### Compact forms (R200) -/

/-- Compact FADD (R200). -/
def execFaddCompact (d a : Fin 32) (last : Bool) (s : State) : Host.Outcome State Fault Refusal :=
  s.laneC 4 d a last true fun a b => f32AddF a b

/-- Compact FSUB (R200). -/
def execFsubCompact (d a : Fin 32) (last : Bool) (s : State) : Host.Outcome State Fault Refusal :=
  s.laneC 4 d a last true fun a b => f32SubF a b

/-- Compact FMUL (R200). -/
def execFmulCompact (d a : Fin 32) (last : Bool) (s : State) : Host.Outcome State Fault Refusal :=
  s.laneC 4 d a last true fun a b => f32Op2 mulV a b

/-- Compact FMIN (R200). -/
def execFminCompact (d a : Fin 32) (last : Bool) (s : State) : Host.Outcome State Fault Refusal :=
  s.laneC 4 d a last true fun a b => f32Pick true a b

/-- Compact FMAX (R200). -/
def execFmaxCompact (d a : Fin 32) (last : Bool) (s : State) : Host.Outcome State Fault Refusal :=
  s.laneC 4 d a last true fun a b => f32Pick false a b

/-! ### Conversions (R210, R211) -/

/-- A conversion through a format slot: SLOT for every lane when the slot's descriptor is not accepted (R84). -/
def State.convert (s : State) (sh : Shape) (fs : Fin 8) (d a : Fin 64) (la : Bool) (accepts : Word → Bool)
    (f : Word → Fmt → Word → Word → Word × Flags) : Host.Outcome State Fault Refusal :=
  s.issue sh fun x s =>
    let slot := x.grid.fmt.get fs
    match slotFmt slot, accepts slot with
    | some fmt, true =>
      s.withSlices x sh [d] fun s =>
        let r (p : Fin 64) : Word × Flags := f slot fmt (x.g.readV a p) (x.g.readV d p)
        let g := (x.g.lastIf a la x.pc).writeV d x.act fun p => (r p).1
        s.finish x sh { g with xflags := x.act.list.foldl (fun fl p => fl ||| (r p).2) g.xflags } (fun _ => x.pc + 4) []
    | _, _ =>
      if s.alloc x.c x.gid x.g x.t x.grid [d] = .ceiling then s.faultAll x sh 0x01 0 2 0
      else s.faultAll x sh 0x0D 0 (BitVec.ofNat 64 fs.val) 0

/-- The shape of a conversion. -/
def cvtShape (st : Nat) (d a : Fin 64) (old : Bool) : Shape :=
  ⟨true, st, [], keyV a :: (if old then [keyV d] else []), [(keyV d, 4)], .other⟩

/-- Slots that CVT accepts: KIND 2, 3 or 4. -/
def cvtSlot (d : Word) : Bool := decide (2 ≤ slotKind d) && decide (slotKind d ≤ 4)

/-- Slots that the packing forms accept: P3109 of the width named. -/
def pkSlot (k : Nat) (d : Word) : Bool := slotKind d == 4 && slotK d == k

/-- A word with element `e` of `w` bits replaced. -/
def putElem (old : Word) (w e v : Nat) : Word :=
  let m : Word := (BitVec.ofNat 32 (2 ^ w - 1)) <<< (w * e)
  (old &&& ~~~m) ||| (BitVec.ofNat 32 v <<< (w * e))

/-- CVT.NARROW: binary32 rounded to the slot's format (R210). -/
def execCvtNarrow (fs : Fin 8) (d a : Fin 64) (la : Bool) (st : Fin 8) (s : State) : Host.Outcome State Fault Refusal :=
  s.convert (cvtShape st.val d a false) fs d a la cvtSlot fun slot fmt v _ => word32 (narrow slot fmt v)

/-- CVT.WIDEN: the low bits decoded in the slot's format (R210). -/
def execCvtWiden (fs : Fin 8) (d a : Fin 64) (la : Bool) (st : Fin 8) (s : State) : Host.Outcome State Fault Refusal :=
  s.convert (cvtShape st.val d a false) fs d a la cvtSlot fun _ fmt v _ => widen fmt v.toNat

/-- PK8: rounded into one byte of the destination (R210). -/
def execPk8 (fs : Fin 8) (e : Fin 4) (d a : Fin 64) (la : Bool) (st : Fin 8) (s : State) : Host.Outcome State Fault Refusal :=
  s.convert (cvtShape st.val d a true) fs d a la (pkSlot 8) fun slot fmt v old =>
    let (c, fl) := narrow slot fmt v
    (putElem old 8 e.val c, fl)

/-- UPK8: one byte decoded (R210). -/
def execUpk8 (fs : Fin 8) (e : Fin 4) (d a : Fin 64) (la : Bool) (st : Fin 8) (s : State) : Host.Outcome State Fault Refusal :=
  s.convert (cvtShape st.val d a false) fs d a la (pkSlot 8) fun _ fmt v _ => widen fmt (field v.toNat (8 * e.val) 8)

/-- PK4: rounded into one nibble of the destination (R210). -/
def execPk4 (fs : Fin 8) (e : Fin 8) (d a : Fin 64) (la : Bool) (st : Fin 8) (s : State) : Host.Outcome State Fault Refusal :=
  s.convert (cvtShape st.val d a true) fs d a la (pkSlot 4) fun slot fmt v old =>
    let (c, fl) := narrow slot fmt v
    (putElem old 4 e.val c, fl)

/-- UPK4: one nibble decoded (R210). -/
def execUpk4 (fs : Fin 8) (e : Fin 8) (d a : Fin 64) (la : Bool) (st : Fin 8) (s : State) : Host.Outcome State Fault Refusal :=
  s.convert (cvtShape st.val d a false) fs d a la (pkSlot 4) fun _ fmt v _ => widen fmt (field v.toNat (4 * e.val) 4)

/-- CVTI: binary32 to an integer (R210). -/
def execCvti (mode : RMode) (signed : Bool) (d a : Fin 64) (la : Bool) (st : Fin 8) (s : State) : Host.Outcome State Fault Refusal :=
  s.laneU st.val 4 d a la fun a => f32ToInt mode signed a

/-- CVTF: an integer to binary32 (R210). -/
def execCvtf (mode : RMode) (signed : Bool) (d a : Fin 64) (la : Bool) (st : Fin 8) (s : State) : Host.Outcome State Fault Refusal :=
  s.laneU st.val 4 d a la fun a => f32OfInt mode signed a

/-! ### XFLAGS (R219) -/

/-- An instruction that first waits for every earlier one of its group (R94, R219). -/
def State.afterEarlier (s : State) (sh : Shape) (f : Ctx → State → Group) : Host.Outcome State Fault Refusal :=
  s.issue sh fun x s =>
    let left := x.g.busy.foldl (fun a b => max a b.left) 0
    if left = 0 then s.finish x sh (f x s) (fun _ => x.pc + sh.len) []
    else s.modGroup x.c x.gid fun g => { g with stall := left }

/-- XFRD: XFLAGS into a uniform register (R219). -/
def execXfrd (d : Fin 128) (st : Fin 8) (s : State) : Host.Outcome State Fault Refusal :=
  s.afterEarlier ⟨true, st.val, [d], [], [(keyS d, 2)], .other⟩ fun x _ => x.g.writeS d (x.g.xflags.setWidth 64)

/-- XFCLR: the XFLAGS bits of a mask cleared (R219). -/
def execXfclr (mask : BitVec 6) (st : Fin 8) (s : State) : Host.Outcome State Fault Refusal :=
  s.afterEarlier (ctl st.val []) fun x _ => { x.g with xflags := x.g.xflags &&& ~~~mask }

end Sys2Proof.Machine
end

