-- ==== Sys2Proof/Machine/Records.lean ====
section
/-! DEFINITION. Work queues (R250, R352, R353, R357) and graph records (R251, R290). -/
namespace Sys2Proof.Machine

/-! ### Work queues -/

/-- The eight registers of a record. -/
def recordRegs (d : Fin 128) : List (Fin 128) := (List.range 8).map fun i => nextS d i

/-- The bytes of a record in eight registers. -/
def Group.recordBytes (g : Group) (d : Fin 128) : List Byte := dwordBytes ((recordRegs d).map g.s.get)

/-- A record's 64 bytes in eight registers. -/
def Group.putRecord (g : Group) (d : Fin 128) (bs : List Byte) : Group :=
  (List.range 8).foldl (fun (g : Group) i => g.writeS (nextS d i) (BitVec.ofNat 64 (leNat ((bs.drop (8 * i)).take 8)))) g

/-- Records in the ring of a work-queue entry (R352). -/
def State.workSize (s : State) (e : Nat) : Nat := 2 ^ (min (field (s.pnum e 8) 0 4) 12 + 2)

/-- Where record `i` of a work queue lies. -/
def State.workRecord (s : State) (e i : Nat) : Nat := field (s.pnum e 8) 6 42 * 64 + 64 * (i % s.workSize e)

/-- HEAD, TAIL, and the number of records in a work queue. -/
def State.workHead (s : State) (e : Nat) : Nat := s.pnum (e + 8) 4
def State.workTail (s : State) (e : Nat) : Nat := s.pnum (e + 12) 4
def State.workCount (s : State) (e : Nat) : Nat := (s.workTail e + 2 ^ 32 - s.workHead e) % 2 ^ 32

/-- Whether a work queue exists for a space (R352); `push` asks that its producer be kernels. -/
def State.workExists (s : State) (d : Fin 4) (n : Nat) (space : Word) (push : Bool) : Bool :=
  let e := s.workEntry d n
  let w := s.pnum (e + 0x10) 8
  decide (n < field (s.die d).wqtab.toNat 0 16) && field w 34 1 == 1 && field w 0 32 == space.toNat
    && !s.isRetiring (s.die d).part space && (s.spaceRoot d space).isSome && (!push || field w 32 2 == 0)

/-- A record written at TAIL, and TAIL advanced (R353). -/
def State.workPush (s : State) (e : Nat) (bs : List Byte) : State :=
  let t := s.workTail e
  (s.pstore (s.workRecord e t) bs).pput (e + 12) 4 ((t + 1) % 2 ^ 32)

/-- The sleepers of a work queue: each core of the partition with a group that waits on it. -/
def State.sleepers (s : State) (d : Fin 4) (n : Nat) : List (Fin 128) :=
  let waits (c : Fin 128) : Bool := (s.die (dieOf c)).part == (s.die d).part && (s.core c).groups.val.any fun g =>
    match g.bind Group.wait with
    | some w => match w.on with
      | .work h => field h.toNat 0 16 == n
      | _ => false
    | none => false
  allCores.filter waits

/-- The sleepers of a work queue woken (R353, R354). -/
def State.wakeWork (s : State) (d : Fin 4) (n : Nat) : State := (s.sleepers d n).foldl (fun s c => s.wakeEvent c .work) s

/-- Whether Chive has room for the wake events of a work queue's sleepers: until it has, the write that carries them is held (R371). -/
def State.workOpen (s : State) (d : Fin 4) (n : Nat) : Bool := s.chiveTakes (s.sleepers d n) .work

/-- Whether a group that waits on a work queue has waited longer than another (R353). Groups that may not issue are not
counted. [DEDUCED, log 35] -/
def State.olderWaiter (s : State) (d : Fin 4) (n : Nat) (c gid : Fin 128) (elapsed : Int) : Bool :=
  allCores.any fun oc => (s.die (dieOf oc)).part == (s.die d).part && (List.finRange 128).any fun og =>
    match s.group oc og with
    | none => false
    | some g =>
      match g.wait with
      | some w => !(oc == c && og == gid) && !g.hmode && g.stop == .none
          && (match w.on with
            | .work h => field h.toNat 0 16 == n
            | _ => false)
          && (decide (elapsed < w.elapsed) || (w.elapsed == elapsed && decide (oc.val * 128 + og.val < c.val * 128 + gid.val)))
      | none => false

/-- The cycles that the issuing group has waited at this instruction. -/
def Ctx.waited (x : Ctx) : Int :=
  match x.g.wait with
  | some w => if w.site = x.pc then w.elapsed else 0
  | none => 0

/-- The record that a group of a partition has just popped is the one it now serves (R357). -/
def State.takeServed (s : State) (part : Fin 4) (n : Nat) (record team : Nat) (tids : List (BitVec 12)) : State :=
  { s with served := s.served.map fun r =>
      if r.part = part ∧ r.handle = n ∧ r.record.toNat = record ∧ r.taker.isNone then { r with taker := some (team, tids) } else r }

/-- Whether an acquire at device scope of a line meets a promotion tag that it must wait for (R102). -/
def State.lineTagged (s : State) (x : Ctx) (pa : Nat) : Bool :=
  s.tags.any fun t => t.line == pa / 64 && t.core != x.c && s.tagWaits t .dev

/-- The 64 bytes of a record as a group reads them, and whether it met an uncorrectable error (R390). -/
def State.consumeRecord (s : State) (x : Ctx) (pa : Nat) : Bool × List Byte × State :=
  let (ue, s) := s.consumeVault (Fin.ofNat 4 (field pa 37 2)) pa 64 (some (x.gid.val, s.spaceOf x.c x.g))
  (ue, s.mem.bytes pa 64, s)

/-- WQPOP: the oldest record of a work queue, waited for while it is empty (R250). [DEDUCED, log 35] -/
def execWqpop (d a : Fin 128) (st : Fin 8) (s : State) : Host.Outcome State Fault Refusal :=
  let sh : Shape := ⟨true, st.val, a :: recordRegs d, [keyS a], (recordRegs d).map fun r => (keyS r, 2), .other⟩
  s.issue sh fun x s =>
    let h := x.g.s.get a
    let n := field h.toNat 0 16
    let die := dieOf x.c
    let space := s.spaceOf x.c x.g
    let e := s.workEntry die n
    let exists_ := decide (field h.toNat 16 48 = 0) && s.workExists die n space false
    let waits := decide (s.workCount e = 0) || s.olderWaiter die n x.c x.gid x.waited
    let head := s.workHead e
    let pa := s.workRecord e head
    if s.acquiring x || (exists_ && !waits && s.lineTagged x pa) then s.hold x
    else
      let s := if x.beginsWait then s.beganWait x.c x.g.team else s
      let s := s.closeServed x.t.admitted x.g.threads
      if !exists_ then s.faultAll x sh 0x10 0 (space.setWidth 64) 0
      else if waits then s.waitOn x (.work h)
      else match s.consumeRecord x pa with
        | (true, _, s) => s.faultAll x sh 0x11 0 0 0
        | (false, bs, s) =>
          let s := s.takeServed (s.die die).part n head x.t.admitted x.g.threads
          let s := s.pput (e + 8) 4 ((head + 1) % 2 ^ 32)
          s.finish x sh (x.g.putRecord d bs) (fun _ => x.pc + 4) []

/-- WQPUSH: a record appended, a release at device scope; BOUND on a full queue (R250). -/
def execWqpush (d a : Fin 128) (st : Fin 8) (s : State) : Host.Outcome State Fault Refusal :=
  let sh : Shape := ⟨true, st.val, a :: recordRegs d, keyS a :: (recordRegs d).map keyS, [], .other⟩
  s.issue sh fun x s =>
    let h := x.g.s.get a
    let n := field h.toNat 0 16
    let die := dieOf x.c
    let space := s.spaceOf x.c x.g
    let e := s.workEntry die n
    if field h.toNat 16 48 ≠ 0 ∨ s.workExists die n space true = false then s.faultAll x sh 0x10 0 (space.setWidth 64) 0
    else if s.acquiring x then s.hold x
    else s.released x .dev fun s =>
      if s.workSize e ≤ s.workCount e then s.faultAll x sh 0x01 0 6 (BitVec.ofNat 64 n)
      else if !s.workOpen die n then s.hold x
      else ((s.workPush e (x.g.recordBytes d)).wakeWork die n).finish x sh x.g (fun _ => x.pc + 4) []

/-! ### Graph records (R251, R290) -/

/-- The graph, firing and edge that a GREC or GEMIT names, with the edge's rate and the firing's cursor on it. -/
structure Port_ where
  graph : Nat
  f : Firing
  e : GEdge
  rate : Nat
  cursor : Nat
  deriving DecidableEq, Repr

/-- The port of the running stage that S[a] names, for an in-edge or an out-edge, or none where R251 faults. -/
def State.graphPort (s : State) (x : Ctx) (edge : DWord) (out : Bool) : Option Port_ :=
  if field edge.toNat 16 48 ≠ 0 then none
  else match x.grid.firing with
    | none => none
    | some (gr, fid) =>
      match s.graphOf gr with
      | none => none
      | some g =>
        match g.firings.find? fun f => f.id == fid with
        | none => none
        | some f =>
          match g.plan.edges.find? fun e => e.id == field edge.toNat 0 16 && (if out then e.src else e.dst) == f.stage with
          | none => none
          | some e =>
            let rate := if out then e.p else e.c
            let cur := cursorOf f e.id
            if cur < rate then some ⟨gr, f, e, rate, cur⟩ else none

/-- The address of the port's next record (R287, R289). -/
def nextRecordVa (p : Port_) : DWord := recordVa p.e (firstRecord p.f p.e p.rate + p.cursor)

/-- A firing's cursor on an edge advanced. -/
def State.bumpCursor (s : State) (p : Port_) : State :=
  s.modGraph p.graph fun g =>
    { g with firings := g.firings.map fun f =>
        if f.id = p.f.id then { f with curs := (p.e.id, p.cursor + 1) :: f.curs.filter fun c => c.1 != p.e.id } else f }

/-- The reads of a record that a GREC has sent to a frame outside the vaults, by doubleword (R122). -/
def State.recordReads (s : State) (x : Ctx) (va : DWord) : List Req :=
  s.reqs.filter fun r => r.core == x.c && r.uid == x.g.uid && r.entry.isNone && r.kind == .load && r.data == x.pc.setWidth 64
    && decide (va.toNat ≤ r.va.toNat) && decide (r.va.toNat < va.toNat + 64)

/-- The value that a read has brought. -/
def Req.value (r : Req) : DWord :=
  match r.phase with
  | .done v _ => v
  | _ => 0

/-- Whether a read has brought an uncorrectable error. -/
def Req.spoiled (r : Req) : Bool :=
  match r.phase with
  | .done _ ue => ue
  | _ => false

/-- The reads of a record outside the vaults: eight doublewords, each an acquire at device scope (R122, R251). -/
def State.sendRecordReads (s : State) (x : Ctx) (va : DWord) (pa xl : Nat) : State :=
  let k := s.callerOf x
  { s with
    reqs := s.reqs ++ (List.range 8).map fun i =>
      k.counterReq (s.nextId + i) .load (va + BitVec.ofNat 64 (8 * i)) .dev (x.pc.setWidth 64) (pa + 8 * i) xl .sent s.reft
    nextId := s.nextId + 8 }

/-- A record of a vault read by a GREC: an acquire at device scope that waits for its core's stores and its threads' accesses there, for a
promotion tag, and behind a link that stalls (R96, R101, R102, R363). -/
def State.readRecordHere (s : State) (x : Ctx) (pa : Nat) (k : Bool × List Byte × State → State) : State :=
  if (s.reqs.any fun e => e.open_ && ((e.writes && e.core == x.c) || x.made e) && overlap e.pa e.size pa 64) || s.lineTagged x pa
      || s.linkHeld x.c pa then s.hold x
  else k (s.consumeRecord x pa)

/-- A record outside the vaults read by a GREC: its reads are sent, and it waits until each has come back (R122). -/
def State.readRecordAway (s : State) (x : Ctx) (va : DWord) (pa xl : Nat) (k : Bool × List Byte × State → State) : State :=
  let rs := s.recordReads x va
  let rest : State := { s with reqs := s.reqs.filter fun r => !rs.any fun e => e.id == r.id }
  if rs.any Req.open_ then s.hold x
  else if rs.length ≠ 8 then (rest.sendRecordReads x va pa xl).hold x
  else
    let bytes := (List.range 8).flatMap fun i =>
      leBytes 8 ((rs.find? fun r => r.va == va + BitVec.ofNat 64 (8 * i)).elim 0 Req.value).toNat
    k (rs.any Req.spoiled, bytes, rest)

/-- GREC: the firing's next record on an in-edge, an acquire at device scope (R251). -/
def execGrec (d a : Fin 128) (st : Fin 8) (s : State) : Host.Outcome State Fault Refusal :=
  let sh : Shape := ⟨true, st.val, a :: recordRegs d, [keyS a], (recordRegs d).map fun r => (keyS r, 2), .load⟩
  s.issue sh fun x s =>
    match s.graphPort x (x.g.s.get a) false with
    | none => s.faultAll x sh 0x01 0 7 (x.g.s.get a)
    | some p =>
      let va := nextRecordVa p
      let (h, s) := s.laneHit x.c x.g.uid x.grid.space .load 8 x.act.first va
      let take (y : Bool × List Byte × State) : State :=
        if y.1 then y.2.2.faultAll x sh 0x11 va 0 0
        else (y.2.2.bumpCursor p).finish x sh (x.g.putRecord d y.2.1) (fun _ => x.pc + 4) []
      match h with
      | .bad f => s.faultAll x sh f.code f.va f.d0 f.d1
      | .frozen _ => s.hold x
      | .sent pa xl =>
        if s.acquiring x && (s.recordReads x va).isEmpty then s.hold x
        else if inVault pa then s.readRecordHere x pa take else s.readRecordAway x va pa xl take
      | h =>
        if (s.core x.c).recordsWait h.page.toList.length then s.hold x
        else
          let s := s.parkLanes x .load (fun _ => va) (x.act.list.map fun q => (q, h))
          s.finishWith x sh (x.g.setLst x.act .parked) (fun _ => x.pc) x.act []

/-- The word of a record at an offset. -/
def recordWord (bs : List Byte) (i : Nat) : DWord := BitVec.ofNat 64 (leNat ((bs.drop (4 * i)).take 4))

/-- The stores of a record that leave their instruction, to a frame outside the vaults (R122) or held at a frozen page (R401): sixteen
words, made together. -/
def State.sendRecord (s : State) (x : Ctx) (va : DWord) (pa xl : Nat) (bs : List Byte) (ph : ReqPhase := .sent) : State :=
  let k := s.callerOf x
  { s with
    reqs := s.reqs ++ (List.range 16).map fun i =>
      { k.counterReq (s.nextId + i) .store (va + BitVec.ofNat 64 (4 * i)) .dev (recordWord bs i) (pa + 4 * i) xl ph s.reft with
        push := s.nextId, add64 := false, rel := false }
    nextId := s.nextId + 16 }

/-- GEMIT: the firing's next record on an out-edge, a release at device scope (R251). -/
def execGemit (d a : Fin 128) (st : Fin 8) (s : State) : Host.Outcome State Fault Refusal :=
  let sh : Shape := ⟨true, st.val, a :: recordRegs d, keyS a :: (recordRegs d).map keyS, [], .store⟩
  s.issue sh fun x s =>
    match s.graphPort x (x.g.s.get a) true with
    | none => s.faultAll x sh 0x01 0 7 (x.g.s.get a)
    | some p => if s.acquiring x then s.hold x else s.released x .dev fun s =>
      let va := nextRecordVa p
      let bs := x.g.recordBytes d
      let (h, s) := s.laneHit x.c x.g.uid x.grid.space .store 8 x.act.first va
      match h with
      | .bad f => s.faultAll x sh f.code f.va f.d0 f.d1
      | .frozen pa => ((s.sendRecord x va pa 0 bs .frozen).bumpCursor p).finish x sh x.g (fun _ => x.pc + 4) []
      | .sent pa xl =>
        if inVault pa then
          if s.linkHeld x.c pa then s.hold x
          else ((s.pstore pa bs).bumpCursor p).finish x sh x.g (fun _ => x.pc + 4) []
        else ((s.sendRecord x va pa xl bs).bumpCursor p).finish x sh x.g (fun _ => x.pc + 4) []
      | h =>
        if (s.core x.c).recordsWait h.page.toList.length || decide (64 ≤ (s.core x.c).replay.length) then s.hold x
        else
          let k := s.callerOf x
          let lanes := (List.range 16).map fun i =>
            (⟨k.tid, k.pos, va + BitVec.ofNat 64 (4 * i), recordWord bs i, 4, false⟩ : ReplayLane)
          ((s.replayOne k .dev lanes va h).bumpCursor p).finish x sh x.g (fun _ => x.pc + 4) []

end Sys2Proof.Machine
end

