-- ==== Sys2Proof/Machine/Ports.lean ====
section
/-! DEFINITION. Peer-port messages (R395 to R397) and Sorrel's service matching (R355 to R357). -/
namespace Sys2Proof.Machine

/-! ### Accesses through the inbound window -/

/-- Whether a port takes messages: it is trained, and the device runs. -/
def State.portUp (s : State) (port : Fin 16) : Bool := (s.ports.get port).trained && s.pkg.mbstate == .running

/-- One port changed. -/
def State.modPort (s : State) (port : Fin 16) (f : Port → Port) : State := { s with ports := s.ports.modify port f }

/-- An inbound message with `n` bytes of payload: the number of its first flit, and the state that has received its flits (R395). -/
def State.received (s : State) (port : Fin 16) (n : Nat) : Word × State :=
  ((s.ports.get port).recvSeq, s.modPort port fun p => { p with recvSeq := p.recvSeq + BitVec.ofNat 32 (flits n) })

/-- The header of a REJECT (R397): KIND 5, its own sequence number, that of the rejected message, and the status. [DESIGN CHOICE, log 17] -/
def rejectHeader (own seq : Word) (status : Byte) : List Byte :=
  leBytes 4 5 ++ leBytes 4 own.toNat ++ leBytes 4 seq.toNat ++ leBytes 4 status.toNat ++ List.replicate 48 0

/-- A REJECT sent (R396, R397), to the sender's port where its message names one. [DESIGN CHOICE, log 17] -/
def State.sendReject (s : State) (port : Fin 16) (dest : Option (Fin 16)) (seq : Word) (status : Byte) : State :=
  s.portSend port 0 fun own => .reject port dest (rejectHeader own seq status)

/-- Where an inbound access lies: within the window, and wholly in one vault's frames. -/
def Port.window (p : Port) (off : DWord) (n : Nat) : Option Nat :=
  let pa := p.wbase.toNat * 65536 + off.toNat
  if off.toNat + n ≤ p.wlen.toNat * 0x40000000 ∧ field pa 46 2 = 0 ∧ field pa 39 7 = 0
      ∧ pa % 0x100000000 + n ≤ 0xC0000000 then some pa
  else none

/-- An inbound access of `n` bytes, whose message carries `load` of them, performed in its window, or rejected (R395). [DEDUCED, log 51] -/
def State.inbound (s : State) (port : Fin 16) (off : DWord) (n load : Nat) (f : State → Nat → Word → State) : State :=
  if !s.portUp port then s
  else
    let (seq, s) := s.received port load
    match (s.ports.get port).window off n with
    | some pa => f s pa seq
    | none =>
      let (k, s) := s.draw
      s.sendReject port none seq (Config.rejectStatus k)

/-- WRITE: an inbound write (R395). -/
def execPeerWrite (port : Fin 16) (off : DWord) (bytes : List Byte) (s : State) : Host.Outcome State Fault Refusal :=
  .next (s.inbound port off bytes.length bytes.length fun s pa _ => s.pstore pa bytes)

/-- READ: an inbound read, answered from the window (R395). -/
def execPeerRead (port : Fin 16) (off : DWord) (len : Nat) (s : State) : Host.Outcome State Fault Refusal :=
  .next (s.inbound port off len 0 fun s pa seq =>
    let (_, _, s) := s.readWord (Fin.ofNat 4 (field pa 37 2)) pa len none
    s.portSend port len fun own => .response port own seq (s.mem.bytes pa len))

/-- ADD: an inbound add to a counter, saturating (R111, R395). One whose counter holds an uncorrectable error is not made (R390).
[DESIGN CHOICE, log 12] -/
def execPeerAdd (port : Fin 16) (off : DWord) (amount : DWord) (s : State) : Host.Outcome State Fault Refusal :=
  .next (s.inbound port off 8 8 fun s pa _ =>
    let (v, ue, s) := s.readWord (vaultDie pa) pa 8 none
    if ue then s else s.pstore pa (leBytes 8 (satAdd v.toNat amount.toNat)))

/-! ### Answers to requests of this device -/

/-- The answer to a request that a port has outstanding (R313, R395). [DEDUCED, log 39] -/
def State.peerAnswer (s : State) (port : Fin 16) (seq : Word) (status : CxlStatus) (data : List Byte) : State :=
  if !s.portUp port then s
  else
    let (_, s) := s.received port data.length
    match (s.ports.get port).reads.find? fun r => r.1 == seq with
    | none => s
    | some (_, id) =>
      (s.modPort port fun p => { p with reads := p.reads.filter fun r => r.1 != seq }).frameAnswer id status data

/-- RESPONSE: an outstanding peer read or transfer completes (R395). -/
def execPeerResponse (port : Fin 16) (seq : Word) (bytes : List Byte) (s : State) : Host.Outcome State Fault Refusal :=
  .next (s.peerAnswer port seq .ok bytes)

/-- REJECT: the requester faults with PAGE, not serviceable (R313, R395). -/
def execPeerReject (port : Fin 16) (seq : Word) (_status : Byte) (s : State) : Host.Outcome State Fault Refusal :=
  .next (s.peerAnswer port seq .abort [])

/-- FLIT_RETRY: a flit is sent again, and RETRY counts it, saturating at 255 (R395): the oldest message that its peer has not acknowledged
stands for the flits that it lacks. A port that may not send retries nothing. [DEDUCED, log 85] -/
def execFlitRetry (port : Fin 16) (s : State) : Host.Outcome State Fault Refusal :=
  .next (if s.portsSend then
    { s.modPort port fun p => { p with retry := if p.retry = 255 then 255 else p.retry + 1 } with
      outbox := s.outbox ++ ((s.ports.get port).sent.head?.map Prod.snd).toList }
  else s)

/-! ### Sorrel -/

/-- The fields of a transport header (R397). -/
structure Header where
  kind : Nat
  rport : Fin 16
  seq : Word
  sid : Nat
  cls : Nat
  plen : Nat
  reserved : Bool
  deriving DecidableEq, Repr

/-- A header read from its 64 bytes. -/
def readHeader (bs : List Byte) : Header :=
  let w (o n : Nat) : Nat := leNat ((List.range n).map fun i => bs.getD (o + i) 0)
  { kind := w 0 1, rport := Fin.ofNat 16 (w 16 1), seq := BitVec.ofNat 32 (w 4 4), sid := w 8 4, cls := field (w 12 4) 0 2, plen := field (w 12 4) 8 8
    reserved := field (w 0 4) 8 24 != 0 || field (w 12 4) 2 6 != 0 || field (w 12 4) 16 16 != 0
      || field (w 16 8) 4 60 != 0 || w 24 40 != 0 }

/-- Where the service table's entry `i` lies on a die (R351, R355). -/
def State.serviceEntry (s : State) (d : Fin 4) (i : Nat) : Nat := field (s.die d).svctab.toNat 8 40 * 256 + 64 * i

/-- The lowest-numbered valid entry of a service id (R356). -/
def State.serviceFor (s : State) (d : Fin 4) (sid : Nat) : Option Nat :=
  ((List.range (field (s.die d).svctab.toNat 0 8)).map (s.serviceEntry d)).find? fun e =>
    field (s.pnum e 8) 32 1 == 1 && field (s.pnum e 8) 0 32 == sid

/-- The status with which Sorrel rejects a request, or the entry and the queue that take it (R356, R396, R397). A reserved KIND is met as a
reserved bit. [DESIGN CHOICE, log 17] -/
def State.serviceCheck (s : State) (d : Fin 4) (h : Header) : Except Byte (Nat × Nat) :=
  if h.reserved || decide (5 < h.kind) || decide (192 < h.plen) then .error 2
  else match s.serviceFor d h.sid with
    | none => .error 1
    | some e =>
      if 56 < h.plen then .error 2
      else
        let n := field (s.pnum (e + 8) 8) 0 16
        let q := s.workEntry d n
        let space : Word := BitVec.ofNat 32 (s.pnum (e + 0x10) 8)
        let prod := field (s.pnum (q + 0x10) 8) 32 2
        if s.workExists d n space false = false ∨ prod ≠ 2 ∨ s.workSize q ≤ s.workCount q then .error 3
        else
          let qid : DWord := BitVec.ofNat 64 (s.pnum (e + 0x18 + 8 * h.cls) 8)
          if (s.quote qid).any fun x => x.state == .running then .ok (e, n) else .error 4

/-- The record that Sorrel writes (R356). -/
def serviceRecord (port : Fin 16) (h : Header) (payload : List Byte) : List Byte :=
  leBytes 8 (h.cls + port.val * 4 + h.seq.toNat * 2 ^ 32)
    ++ (List.range 56).map fun i => if i < h.plen then payload.getD i 0 else 0

/-- The measurement of a record that Sorrel writes now under a quotation (R357). -/
def State.servedNow (s : State) (d : Fin 4) (qid : DWord) (n record : Nat) : Served :=
  let q := s.quote qid
  { qid := qid, part := (s.die d).part, handle := n, record := BitVec.ofNat 32 record, since := s.reft
    callT := q.elim 0 Quote.callT, envT := q.elim 0 Quote.envT
    causes := q.elim [] Quote.causes, blames := q.elim [] Quote.blames, taker := none }

/-- The die on which a port lies (R395). -/
def portDie (port : Fin 16) : Fin 4 := Fin.ofNat 4 (port.val / 4)

/-- The errors that Sorrel's reads of its table, and of the queue's entry where there is one, meet; nothing consumes them (R390). -/
def State.serviceReads (s : State) (d : Fin 4) (h : Header) : State :=
  let s' := (s.consumeVault d (s.serviceEntry d 0) (64 * field (s.die d).svctab.toNat 0 8) none).2
  match s.serviceCheck d h with
  | .ok (_, n) => (s'.consumeVault d (s.workEntry d n) 64 none).2
  | .error _ => s'

/-- A request of a port taken by Sorrel: its record written, or the request rejected (R355 to R357, R396). -/
def State.takeRequest (s : State) (port : Fin 16) (header payload : List Byte) : State :=
  let d := portDie port
  let h := readHeader header
  let s := s.serviceReads d h
  match s.serviceCheck d h with
  | .error status => s.sendReject port (some h.rport) h.seq status
  | .ok (e, n) =>
    let q := s.workEntry d n
    let qid : DWord := BitVec.ofNat 64 (s.pnum (e + 0x18 + 8 * h.cls) 8)
    let served := s.servedNow d qid n (s.workTail q)
    let s := (s.workPush q (serviceRecord port h payload)).wakeWork d n
    { s with served := s.served ++ [served] }

/-- Whether Sorrel can take a request now: its port is up, and Chive has room for the wake events that its record carries (R371). -/
def State.requestOpen (s : State) (port : Fin 16) (header : List Byte) : Bool :=
  s.portUp port && (match s.serviceCheck (portDie port) (readHeader header) with
    | .ok (_, n) => s.workOpen (portDie port) n
    | .error _ => true)

/-! ### Doorbells, and what a front end holds -/

/-- The queues' new tail indices, one entry for each queue. -/
def setTail (ts : List (Nat × Word)) (q : Nat) (t : Word) : List (Nat × Word) := (q, t) :: ts.filter fun x => x.1 != q

/-- The die of the queue that a launch-queue doorbell names (R316). -/
def State.launchDie (s : State) (d : Fin 4) (v : DWord) : Fin 4 :=
  Fin.ofNat 4 (field (s.pnum (s.queueEntry d (field v.toNat 0 16) + 0x10) 8) 38 2)

/-- A launch-queue doorbell, forwarded to the die of the queue (R316). -/
def State.ringLaunch (s : State) (d : Fin 4) (v : DWord) : State :=
  let q := field v.toNat 0 16
  let w := s.pnum (s.queueEntry d q + 0x10) 8
  let dest := s.launchDie d v
  if field (s.die d).lqtab.toNat 0 8 ≤ q ∨ field w 37 1 = 0 ∨ (s.die dest).part ≠ (s.die d).part then s
  else s.modDie dest fun x => { x with tails := setTail x.tails q (BitVec.ofNat 32 (field v.toNat 16 32)) }

/-- A work-queue doorbell of the host (R353): TAIL taken and sleepers woken, or ERR set. [DEDUCED, log 53] -/
def State.ringWork (s : State) (d : Fin 4) (v : DWord) : State :=
  let n := field v.toNat 0 16
  let tail := field v.toNat 16 32
  let e := s.workEntry d n
  let w := s.pnum (e + 0x10) 8
  if field (s.die d).wqtab.toNat 0 16 ≤ n ∨ field w 34 1 = 0 then s
  else if field w 32 2 ≠ 1 ∨ s.workSize e < (tail + 2 ^ 32 - s.workHead e) % 2 ^ 32 then
    s.pput (e + 0x14) 1 ((s.mem.get (e + 0x14)).toNat ||| 8)
  else (s.pput (e + 12) 4 tail).wakeWork d n

/-- What comes in the order of arrival with a doorbell or message: work-queue doorbells, launch-queue doorbells, and the requests of each
port. -/
def Door.line (x : Door) : Nat :=
  match x with
  | .work _ => 0
  | .launch _ => 1
  | .message port _ _ => 2 + port.val

/-- Whether a doorbell or message can be taken now: Chive has room for the wake events that it carries (R371), and the link by which a
launch-queue doorbell is forwarded does not stall (R363, R394). -/
def State.doorOpen (s : State) (d : Fin 4) (x : Door) : Bool :=
  match x with
  | .work v => s.workOpen d (field v.toNat 0 16)
  | .launch v => !s.diesHeld d (s.launchDie d v)
  | .message port header _ => s.requestOpen port header

/-- A doorbell or message taken. -/
def State.takeDoor (s : State) (d : Fin 4) (x : Door) : State :=
  match x with
  | .work v => s.ringWork d v
  | .launch v => s.ringLaunch d v
  | .message port header payload => s.takeRequest port header payload

/-- A doorbell or message of a die's front end: taken at once, or held until it can be, behind those that came before it. [DESIGN CHOICE, log 116] -/
def State.askDoor (s : State) (d : Fin 4) (x : Door) : State :=
  if ((s.die d).doors.all fun y => y.line != x.line) && s.doorOpen d x then s.takeDoor d x
  else s.modDie d fun y => { y with doors := y.doors ++ [x] }

/-- The first of the doorbells and messages from `xs` on, each with its place, that can be taken and stands behind none of its line. -/
def State.nextDoor (s : State) (d : Fin 4) (lines : List Nat) : List (Door × Nat) → Option (Door × Nat)
  | [] => none
  | x :: xs =>
    if !lines.contains x.1.line && s.doorOpen d x.1 then some x else s.nextDoor d (x.1.line :: lines) xs

/-- The first doorbell or message that a front end holds and can take, taken. -/
def State.openDoor (s : State) (d : Fin 4) : State :=
  match s.nextDoor d [] (s.die d).doors.zipIdx with
  | some (x, i) => (s.modDie d fun y => { y with doors := y.doors.eraseIdx i }).takeDoor d x
  | none => s

/-- REQUEST: Sorrel matches a message to a service entry and writes one record, or rejects it (R355 to R357); while Chive has no room for the
wake events of its record, it waits (R371). A message of another KIND is no request. [DESIGN CHOICE, log 28] -/
def execPeerRequest (port : Fin 16) (header payload : List Byte) (s : State) : Host.Outcome State Fault Refusal :=
  .next (if !s.portUp port then s
  else
    let (_, s) := s.received port 0
    if (readHeader header).kind ≠ 4 ∧ (readHeader header).kind ≤ 5 then s
    else s.askDoor (portDie port) (.message port header payload))

end Sys2Proof.Machine
end

