-- ==== Sys2Proof/Machine/Regs.lean ====
section
/-! DEFINITION. The privileged registers (R295, R296, R361, R392, R395): what a read gives, what a write does, and the writes
that have a name of their own. -/
namespace Sys2Proof.Machine

/-! ### Scrub requests (R389) -/

/-- A line of a vault zeroed by a die's scrub engine: a device-scope relaxed write. -/
def State.zeroLine (s : State) (pa : Nat) : State := s.writeVault pa (List.replicate 64 0)

/-- A write of SCRUBN: a request behind those that run (R389). -/
def State.startScrub (s : State) (d : Fin 4) (n : Word) : State :=
  s.modDie d fun x => { x with scrubs := x.scrubs ++ [⟨x.scruba.toNat, n.toNat, x.scrubc.toNat, 0, 0⟩] }

/-- SCRUBN: a request to zero frames from SCRUBA (R389). -/
def execScrubn (die : Fin 4) (n : Word) (s : State) : Host.Outcome State Fault Refusal := .next (s.startScrub die n)

/-- Whether every frame of a request is behind its engine. -/
def Scrub.over (r : Scrub) : Bool := decide (r.n * 65536 ≤ r.pos)

/-- The next step of a die's scrub engine (R389): it zeroes the next line of its first request, in ascending address, or skips a frame
whose KRMAP bit is set. A frame that is not the die's own is passed over. [DEDUCED, log 101] -/
def State.scrubLine (s : State) (die : Fin 4) : State :=
  match (s.die die).scrubs with
  | [] => s
  | r :: rest =>
    let a := r.base + r.pos
    let put (s : State) (r : Scrub) : State := s.modDie die fun x => { x with scrubs := r :: rest }
    if r.over then s
    else if r.pos % 65536 = 0 && (!isVaultOf die a || s.kernelReserved die a) then
      put s { r with pos := r.pos + 65536, skipped := r.skipped + (isVaultOf die a).toNat }
    else put (s.zeroLine a) { r with pos := r.pos + 64 }

/-- SCRUB_COMPLETION: the first request's frames are zero, but for those skipped; the number of those is written, and the counter
advances (R389). [DEDUCED, log 101] -/
def execScrubCompletion (die : Fin 4) (s : State) : Host.Outcome State Fault Refusal :=
  .next (match (s.die die).scrubs with
  | [] => s
  | r :: rest =>
    if r.over then
      ((s.pput (r.counter + 8) 8 r.skipped).counterAdd (frontCore die) .sys 0 r.counter 1 none).2.modDie die fun x => { x with scrubs := rest }
    else s)

/-! ### Reading -/

/-- The bits `lo` to `lo + len - 1` of a register kept, every other bit 0. -/
def keepBits (v : DWord) (lo len : Nat) : DWord := BitVec.ofNat 64 (field v.toNat lo len * 2 ^ lo)

/-- Whether a selector is assigned (R296, R361, R392, R395). [DEDUCED, log 54] -/
def regAssigned (sel : Nat) : Bool :=
  sel ≤ 0x0D || (0x100 ≤ sel && sel ≤ 0x104) || (0x110 ≤ sel && sel ≤ 0x119) || (0x120 ≤ sel && sel ≤ 0x12B)
    || (0x130 ≤ sel && sel ≤ 0x136) || (0x140 ≤ sel && sel ≤ 0x14F)

/-- Whether a selector is of level M, which no compute core reaches (R295). -/
def regLevelM (sel : Nat) : Bool :=
  [0x100, 0x103, 0x104, 0x116, 0x118, 0x119].contains sel

/-- CORESTAT (R296). -/
def Core.corestat (k : Core) : Nat :=
  let cap := if k.healthCap = 16 then 0 else if k.healthCap = 32 then 1 else 2
  let hmode := (List.finRange 4).foldl (fun a p => a + ((k.banks.get p).isSome).toNat * 2 ^ p.val) 0
  cap + hmode * 2 ^ 2 + k.tev.toNat * 2 ^ 6 + k.hbad.toNat * 2 ^ 7

/-- GSTOP (R296, R299). -/
def Core.gstopWord (k : Core) : Nat :=
  let g := k.groups.get (Fin.ofNat 128 k.gstop.toNat)
  let done := g.elim false fun x => x.halted || x.stop == .doubleFault
  let dflt := g.elim false fun x => x.stop == .doubleFault
  k.gstop.toNat + done.toNat * 2 ^ 10 + dflt.toNat * 2 ^ 11

/-- The number of a core's power state as PWRST gives it (R361). A core that waits for its ramp or ramps is power-gated still. -/
def Core.powerCode (k : Core) : Nat :=
  match k.power with
  | .active => 0
  | .clockGated _ => 1
  | .held _ => 2
  | .gated | .waking _ | .ramping _ => 3

/-- A ring register as a read finds it: a LOGN above 8 reads as 8 (R296, R361, R392). -/
def ringRead (v : DWord) : DWord := BitVec.ofNat 64 (ringBase v + min (field v.toNat 0 4) 8)

/-- A register as a read finds it, for a core and its die; write-only fields and reserved bits read 0. [DEDUCED, log 54] -/
def State.readReg (s : State) (c : Fin 128) (sel : Nat) : DWord :=
  let k := s.core c
  let d := s.die (dieOf c)
  let num (n : Nat) : DWord := BitVec.ofNat 64 n
  match sel with
  | 0x000 => k.corectl.setWidth 64
  | 0x001 => k.trapvec
  | 0x002 => ringRead k.faultqb
  | 0x003 => k.faultqh.setWidth 64
  | 0x004 => k.faultqt.setWidth 64
  | 0x006 => k.ctxbase
  | 0x007 => k.ctxlen
  | 0x008 => k.timerm
  | 0x009 => num k.corestat
  | 0x00A => k.fpwin.setWidth 64
  | 0x00B => k.ecore
  | 0x00C => num (k.powerCode + (field k.pwrst.toNat 2 1) * 4)
  | 0x00D => num k.gstopWord
  | 0x100 => d.spacetb
  | 0x102 => d.retcnt
  | 0x103 => d.krmap
  | 0x104 => num d.krlock.toNat
  | 0x110 => num (d.cur.toNat + d.cap.toNat * 2 ^ 8 + d.req.toNat * 2 ^ 16 + d.relock.isSome.toNat * 2 ^ 23)
  | 0x111 => ringRead d.fslog
  | 0x112 => d.fslogt.setWidth 64
  | 0x113 => d.ecnt
  | 0x114 => num (d.live.toNat + d.sticky.toNat * 2 ^ 8)
  | 0x115 => num (d.tmax.toNat + d.throt.toNat * 2 ^ 8 + d.esave.toNat * 2 ^ 9 + d.tripped.toNat * 2 ^ 10)
  | 0x116 => ringRead d.eslist
  | 0x117 => d.esmark.setWidth 64
  | 0x118 => num (d.retoff.toNat * 2 ^ 23)
  | 0x119 => num (s.pkg.suspPhase.toNat * 2)
  | 0x130 => ringRead d.errlogb
  | 0x131 => d.errlogt.setWidth 64
  | 0x132 => d.errinj
  | 0x133 => d.errinja
  | 0x134 => d.scruba
  | 0x136 => d.scrubc
  | n =>
    if 0x120 ≤ n ∧ n ≤ 0x12B then (d.wear.get (Fin.ofNat 12 (n - 0x120))).setWidth 64
    else if 0x140 ≤ n ∧ n ≤ 0x14F then
      let p := s.ports.get (Fin.ofNat 16 (n - 0x140))
      num (p.trained.toNat + p.retry.toNat * 2 ^ 8 + p.wbase.toNat * 2 ^ 16 + p.wlen.toNat * 2 ^ 48)
    else 0

/-! ### Writing -/

/-- Records that wait for room written while there is room (R304). -/
def State.flushRecords (s : State) (c : Fin 128) : Nat → State
  | 0 => s
  | n + 1 =>
    match (s.core c).recPend with
    | [] => s
    | (ws, fr) :: rest =>
      if (s.core c).queueFull then s
      else ((s.modCore c fun k => { k with recPend := rest }).writeRecord c ws fr).flushRecords c n

/-- GSTOP written (R299): both STOP and RUN, or a group number that no resident group holds, change nothing. [DEDUCED, log 41] -/
def State.writeGstop (s : State) (c : Fin 128) (v : Nat) : State :=
  let gid : Fin 128 := Fin.ofNat 128 (field v 0 7)
  let stop := field v 8 1 == 1
  let run := field v 9 1 == 1
  if (stop && run) || (s.group c gid).isNone then s
  else
    let s := s.modCore c fun k => { k with gstop := BitVec.ofNat 7 (field v 0 7) }
    if stop then s.gstop c gid else if run then s.grun c gid else s

/-- KRLOCK written: a 1 locks KRMAP, the map's frames and its contents until reset (R296). -/
def State.lockMap (s : State) (d : Fin 4) : State := s.modDie d fun x => { x with krlock := true }

/-- The reset value of a write that clears the bits it names. -/
def clears {w : Nat} (old : BitVec w) (v : Nat) : BitVec w := old &&& ~~~(BitVec.ofNat w v)

/-- A register written, for a core and its die: its writable fields alone change (R5, R186). -/
def State.writeReg (s : State) (c : Fin 128) (sel : Nat) (v : DWord) : State :=
  let d := dieOf c
  let n := v.toNat
  let core (f : Core → Core) : State := s.modCore c f
  let die (f : Die → Die) : State := s.modDie d f
  let ring : DWord := keepBits v 0 4 ||| keepBits v 6 42
  match sel with
  | 0x000 => core fun k => { k with corectl := BitVec.ofNat 2 n }
  | 0x001 => core fun k => { k with trapvec := keepBits v 0 1 ||| keepBits v 6 42 }
  | 0x002 => (core fun k => { k with faultqb := ring }).flushRecords c (s.core c).recPend.length
  | 0x003 => (core fun k => { k with faultqh := BitVec.ofNat 32 n }).flushRecords c (s.core c).recPend.length
  | 0x005 => s.resolve f32Add c (field n 0 32) (BitVec.ofNat 8 (field n 32 8))
  | 0x006 => core fun k => { k with ctxbase := keepBits v 12 36 }
  | 0x007 => core fun k => { k with ctxlen := keepBits v 12 36 }
  | 0x008 => core fun k => { k with timerm := v }
  | 0x009 => core fun k => { k with tev := k.tev && field n 6 1 == 0, hbad := k.hbad && field n 7 1 == 0 }
  | 0x00A => s.writeFpwin c (BitVec.ofNat 32 n)
  | 0x00C => core fun k => { k with pwrst := keepBits v 2 1 }
  | 0x00D => s.writeGstop c n
  | 0x100 => die fun x => { x with spacetb := keepBits v 0 48 }
  | 0x101 => s.startRetire d (BitVec.ofNat 32 n)
  | 0x102 => die fun x => { x with retcnt := keepBits v 3 45 }
  | 0x103 => die fun x => if x.krlock then x else { x with krmap := keepBits v 12 36 }
  | 0x104 => if field n 0 1 = 1 then s.lockMap d else s
  | 0x110 => s.writeReq d (BitVec.ofNat 7 (field n 16 7))
  | 0x111 => die fun x => { x with fslog := ring }
  | 0x114 => die fun x => { x with sticky := clears x.sticky (field n 8 4) ||| x.live }
  | 0x115 => die fun x => { x with tripped := x.tripped && field n 10 1 == 0 }
  | 0x116 => die fun x => { x with eslist := ring }
  | 0x118 => die fun x => { x with retoff := BitVec.ofNat 9 (min (field n 23 9) 383) }
  | 0x119 => if field n 0 1 = 1 then s.startSuspend else s
  | 0x130 => die fun x => { x with errlogb := ring }
  | 0x132 => die fun x => { x with errinj := keepBits v 0 10 ||| keepBits v 16 7 }
  | 0x133 => die fun x => { x with errinja := keepBits v 0 48 }
  | 0x134 => die fun x => { x with scruba := keepBits v 16 32 }
  | 0x135 => s.startScrub d (BitVec.ofNat 32 n)
  | 0x136 => die fun x => { x with scrubc := keepBits v 3 45 }
  | m =>
    if 0x140 ≤ m ∧ m ≤ 0x14F then
      { s with ports := s.ports.modify (Fin.ofNat 16 (m - 0x140)) fun p =>
          { p with
            retry := clears p.retry (field n 8 8)
            wbase := BitVec.ofNat 32 (field n 16 32)
            wlen := BitVec.ofNat 16 (field n 48 16) } }
    else s

/-- FAULTRES: a write resolves a fault record (R305). -/
def execFaultres (core : Fin 128) (value : DWord) (s : State) : Host.Outcome State Fault Refusal :=
  .next (s.resolve f32Add core (field value.toNat 0 32) (BitVec.ofNat 8 (field value.toNat 32 8)))

/-- KRLOCK: a write of 1 locks the reserved-frame map (R296). -/
def execKrlock (die : Fin 4) (s : State) : Host.Outcome State Fault Refusal := .next (s.lockMap die)

end Sys2Proof.Machine
end

