-- ==== Sys2Proof/Machine/Links.lean ====
section
/-! DEFINITION. The host's accesses to the vaults (R393), die links (R394), patrol reads (R390), doorbells (R316, R353), the
scheduler's heartbeat (R398), and the writes of registers that have no row of their own (R296, R315, R351). -/
namespace Sys2Proof.Machine

/-! ### BAR2 (R393) -/

/-- Whether a physical address lies in the retention slot of its vault (R373). [DEDUCED, log 51] -/
def State.inSlot (s : State) (pa : Nat) : Bool :=
  let off := 0x800000 * (s.die (Fin.ofNat 4 (field pa 37 2))).retoff.toNat
  decide (off ≤ pa % 0x100000000) && decide (pa % 0x100000000 < off + 0x800000)

/-- Whether a host access of `n` bytes through BAR2 is performed (R373, R384, R393). [DEDUCED, log 51] -/
def State.bar2Open (s : State) (pa n : Nat) : Bool :=
  let d : Fin 4 := Fin.ofNat 4 (field pa 37 2)
  s.pkg.mbstate != .safe && decide (pa % 0x100000000 + n ≤ 0xC0000000)
    && !s.kernelReserved d pa && !s.kernelReserved d (pa + n - 1)
    && !(s.pkg.mbstate == .suspended && (s.inSlot pa || s.inSlot (pa + n - 1)))

/-- HOST_BAR2_ACCESS: a host access performed at the vault buffer, or completed as unsupported (R393). [DESIGN CHOICE, log 28] -/
def execHostBar2Access (wr : Bool) (addr : BitVec 39) (size : Fin 4) (data : DWord) (s : State) : Host.Outcome State Fault Refusal :=
  let n := 2 ^ size.val
  let pa := addr.toNat
  let answer (s : State) (ok : Bool) (v : DWord) : State := { s with outbox := s.outbox ++ [.completion ok v] }
  .next (if !s.bar2Open pa n then answer s false 0
  else if wr then answer (s.pstore pa (leBytes n data.toNat)) true 0
  else
    let (v, _, s) := s.readWord (Fin.ofNat 4 (field pa 37 2)) pa n none
    answer s true v)

/-! ### Die links (R394) -/

/-- DIE_LINK_RETRAIN: a link that reports errors retrains, its traffic waiting (R394). -/
def execDieLinkRetrain (link : Fin 6) (s : State) : Host.Outcome State Fault Refusal :=
  .next { s with links := s.links.modify link fun x => if x.down then x else { x with retraining := true } }

/-- A link down (R394): LINKDN, and an error-log entry of the lower die. [DEDUCED, log 52] -/
def State.linkDown (s : State) (k : Fin 6) : State :=
  let s : State := { s with links := s.links.modify k fun x => { x with retraining := false, down := true } }
  let s := s.modPkg fun p => { p with linkdn := p.linkdn ||| (1#6 <<< k.val) }
  s.logError (linkDies k).1 6 true false 0 (k.val * 256 + 255) none

/-- LINK_RETRAINING_END: a retraining ends well, and traffic goes on, or fails; the third failure in a row makes the link
down (R394). [DEDUCED, log 52] -/
def execLinkRetrainingEnd (link : Fin 6) (ok : Bool) (s : State) : Host.Outcome State Fault Refusal :=
  let x := s.links.get link
  .next (if !x.retraining then s
  else if ok then { s with links := s.links.set link { x with retraining := false, failures := 0 } }
  else
    let s : State := { s with links := s.links.set link { x with failures := x.failures + 1 } }
    if 3 ≤ x.failures + 1 then s.linkDown link else s)

/-! ### Patrol (R390) -/

/-- The die whose log an array's word belongs to. -/
def arrayDie (a : ArrayLoc) : Fin 4 :=
  if a.arr = 3 ∨ a.arr = 4 then Fin.ofNat 4 (field a.addr.toNat 37 2)
  else if a.arr = 6 then (linkDies (Fin.ofNat 6 (a.addr.toNat / 256))).1
  else if a.arr = 7 then Fin.ofNat 4 (a.addr.toNat / 4096 / 4)
  else dieOf a.core

/-- PATROL_READ: an error that a patrol read finds is logged; a corrected one is gone, and an uncorrectable one stays for
its consumer (R390, R391). [DESIGN CHOICE, log 12] -/
def execPatrolRead (arr : ArrayLoc) (ue : Bool) (s : State) : Host.Outcome State Fault Refusal :=
  let c : Fin 128 := if arr.arr.val ≤ 2 then arr.core else 0
  let a := arr.addr.toNat
  .next (match s.marks.find? fun m => m.arr == arr.arr && m.core == c && decide (m.addr ≤ a) && decide (a < m.addr + markSpan m.arr) with
  | some m =>
    let s := s.logError (arrayDie arr) arr.arr.val m.ue m.inj c.val a none
    if m.ue then s else { s with marks := s.marks.filter fun x => x != m }
  | none =>
    let s := s.logError (arrayDie arr) arr.arr.val ue false c.val a none
    if ue then { s with marks := ⟨arr.arr, c, a / markSpan arr.arr * markSpan arr.arr, true, false⟩ :: s.marks } else s)

/-! ### Doorbells and the front-end aperture -/

/-- Whether a die's registers answer: the device is neither safe nor suspended (R374, R384). [DEDUCED, log 54] -/
def State.powered (s : State) : Bool := s.pkg.mbstate == .running || s.pkg.mbstate == .booting

/-- A write to a BAR0 offset of the host: in the safe state it completes with Unsupported Request, and without power nothing answers
(R374, R384). -/
def State.hostPost (s : State) (k : State → State) : State :=
  if s.powered then k s
  else if s.pkg.mbstate = .safe then { s with outbox := s.outbox ++ [.completion false 0] }
  else s

/-- LQDOOR (R316). -/
def execLqdoor (die : Fin 4) (value : DWord) (s : State) : Host.Outcome State Fault Refusal :=
  .next (s.hostPost fun s => s.askDoor die (.launch value))

/-- WQDOOR (R353). [DEDUCED, log 53] -/
def execWqdoor (die : Fin 4) (value : DWord) (s : State) : Host.Outcome State Fault Refusal :=
  .next (s.hostPost fun s => s.askDoor die (.work value))

/-- A heartbeat (R398): the window is live, and ORPHAN clears. -/
def State.beat (s : State) (d : Fin 4) : State := s.modDie d fun x => { x with hbSeen := true, orphan := false }

/-- HBEAT (R398). -/
def execHbeat (die : Fin 4) (_value : DWord) (s : State) : Host.Outcome State Fault Refusal :=
  .next (s.hostPost fun s => s.beat die)

/-- The owner of a die's notifications written (R398). -/
def State.setOwner (s : State) (d own : Fin 4) : State := s.modDie d fun x => { x with owner := own }

/-- OWNER (R398). -/
def execOwnerWrite (die own : Fin 4) (s : State) : Host.Outcome State Fault Refusal :=
  .next (s.hostPost fun s => s.setOwner die own)

/-- Whether a die becomes orphaned in the window that a lower die has just ended: its own end comes after (R398). [DEDUCED, log 55] -/
def State.failsAfter (s : State) (d x : Fin 4) : Bool := decide (d.val < x.val) && !(s.die x).hbSeen && decide (2 ≤ (s.die x).hbMissed)

/-- The die that adopts an orphan: the next of its partition in ascending order, wrapping round, that is no orphan, nor becomes one in the
same window (R398). -/
def State.adopter (s : State) (d : Fin 4) : Option (Fin 4) :=
  ([1, 2, 3].map fun i => Fin.ofNat 4 (d.val + i)).find? fun x =>
    (s.die x).part == (s.die d).part && !(s.die x).orphan && !s.failsAfter d x

/-- The core on which a die's scheduler thread runs. [DESIGN CHOICE, log 21] -/
def schedulerCore (d : Fin 4) : Fin 128 := Fin.ofNat 128 (d.val * 32 + (Config.schedulerCore d).val)

/-- A die orphaned (R398). -/
def State.orphan (s : State) (d : Fin 4) : State :=
  let dest := s.adopter d
  let s := s.modDie d fun x => { x with orphan := true }
  match dest with
  | some o => (s.setOwner d o).wakeEvent (schedulerCore o) .notify
  | none => { s with outbox := s.outbox ++ [.msix 1] }

/-- HEARTBEAT_WINDOW_END: a window of 100,000 ticks ends; the third empty one in a row orphans the die (R398). [DEDUCED, log 55] -/
def execHeartbeatWindowEnd (die : Fin 4) (s : State) : Host.Outcome State Fault Refusal :=
  let x := s.die die
  .next (if s.pkg.mbstate != .running || decide (s.reft.toNat % 100000 ≠ 0) then s
  else if x.hbSeen then s.modDie die fun x => { x with hbSeen := false, hbMissed := 0 }
  else
    let s := s.modDie die fun x => { x with hbMissed := x.hbMissed + 1 }
    if 3 ≤ x.hbMissed + 1 && !x.orphan then s.orphan die else s)

/-- A table register of the front end written on every die of a partition (R315, R351). -/
def State.wideWrite (s : State) (d : Fin 4) (f : Die → Die) : State := (s.diesOf (s.die d).part).foldl (fun s x => s.modDie x f) s

/-- A write to a die's front-end aperture (R315, R351, R371, R398). -/
def State.writeAperture (s : State) (d : Fin 4) (off : Nat) (v : DWord) : State :=
  match off with
  | 0x00 => s.wideWrite d fun x => { x with lqtab := keepBits v 0 48 }
  | 0x08 => s.askDoor d (.launch v)
  | 0x10 => s.wideWrite d fun x => { x with wqtab := keepBits v 0 48 }
  | 0x18 => s.askDoor d (.work v)
  | 0x20 => s.wideWrite d fun x => { x with svctab := keepBits v 0 48 }
  | 0x28 => s.beat d
  | 0x30 => s.setOwner d (Fin.ofNat 4 v.toNat)
  | n =>
    if 0x1000 ≤ n ∧ n < 0x1100 ∧ n % 8 = 0 then s.wakeEvent (Fin.ofNat 128 (d.val * 32 + (n - 0x1000) / 8)) .notify
    else s

/-- REGISTER_WRITE: a write to a register changes its writable fields (R5, R296). A selector of another scope, an offset that
names no register, and a register of a part without power change nothing. [DEDUCED, log 54] -/
def execRegisterWrite (reg : RegAddr) (value : DWord) (s : State) : Host.Outcome State Fault Refusal :=
  .next (match reg with
  | .core c sel => s.hostPost fun s => if sel.toNat ≤ 0x0D then s.writeReg c sel.toNat value else s
  | .die d sel => s.hostPost fun s => if 0x0D < sel.toNat then s.writeReg (frontCore d) sel.toNat value else s
  | .frontEnd d off => s.hostPost fun s => s.writeAperture d off.toNat value
  | .mailbox off =>
    match off.toNat with
    | 0x08 => s.modPkg fun p => { p with mbarg := value }
    | 0x10 => s.mbDoor value
    | _ => s)

end Sys2Proof.Machine
end

