-- ==== Sys2Proof/Machine/Pool.lean ====
section
/-! DEFINITION. Pool loads, stores and atomics (R65 to R68, R221 to R225). -/
namespace Sys2Proof.Machine

/-- A lane's pool address (R221). -/
def poolAddr (g : Group) (a : Fin 64) (disp : Word) (p : Fin 64) : Nat := (g.readV a p + disp).toNat

/-- The fault of a lane's pool access of `n` bytes, if it breaks R65: PERM ahead of ALIGN (R9). -/
def poolFault (grid : Grid) (n : Nat) (addr : Nat) (p : Fin 64) : Option LaneFault :=
  if grid.scratchBytes < addr + n then some ⟨p, 0x08, BitVec.ofNat 64 addr, plainDetail 0x08, 0⟩
  else if addr % n ≠ 0 then some ⟨p, 0x0A, BitVec.ofNat 64 addr, 0, 0⟩
  else none

/-- What a pool access adds to the time of a group: its passes beyond the first, and the pair bridge (R66, R68). -/
def State.poolTime (s : State) (x : Ctx) (n : Nat) (passes : Nat) (addrs : List Nat) : Nat :=
  passes - 1 + (if addrs.any fun a => s.scratchFar x.c x.t a || s.scratchFar x.c x.t (a + n - 1) then 16 else 0)

/-- The errors that a lane's read of scratch meets (R390): whether one is uncorrectable. -/
def State.consumeScratch (s : State) (x : Ctx) (addr n : Nat) : Bool × State :=
  let l := s.scratchLoc x.c x.t addr
  s.consume (dieOf l.1) 0 l.1 l.2 n (some (x.gid.val, x.grid.space))

/-- The lanes whose reads meet an uncorrectable error. -/
def State.consumeLanes (s : State) (x : Ctx) (n : Nat) (addr : Fin 64 → Nat) : List (Fin 64) → List (Fin 64) × State
  | [] => ([], s)
  | p :: ps =>
    let (ue, s) := s.consumeScratch x (addr p) n
    let (rest, s) := s.consumeLanes x n addr ps
    (if ue then p :: rest else rest, s)

/-- A pool access of ACT's lanes that reads if `read` and writes the registers `ds`: the lanes that break R65 fault, and the others go on
with `k`, which is given them, the shape with the time the passes take and the group with the cycles above the recorded pass count,
which count against the caller; such a count faults every lane when the checking scoreboard is on (R68). Of several conditions a lane
reports ECCU, or else the lowest code (R9). -/
def State.poolAccess (s : State) (x : Ctx) (sh : Shape) (n : Nat) (read write : Bool) (addr : Fin 64 → Nat) (ds : List (Fin 64))
    (k : List (Fin 64) → List LaneFault → Ctx → Shape → State → State) : State :=
  if s.acquiring x then s.hold x
  else
    let fs := x.act.list.filterMap fun p => poolFault x.grid n (addr p) p
    let good := x.act.list.filter fun p => (poolFault x.grid n (addr p) p).isNone
    let words := good.flatMap fun p => (List.range (n / 4)).map fun i => addr p / 4 + i
    let P := passes write words
    let errors (s : State) : Lanes × State :=
      if read then let (ecc, s) := s.consumeLanes x n addr good; (Lanes.ofFn fun p => ecc.contains p, s) else (0, s)
    s.withSlicesOr x sh (if good.isEmpty then [] else ds) errors fun s =>
      if s.schk x && decide (x.recorded < P) then
        let (ecc, s) := errors s
        s.faultAllBut x sh ecc 0x04 (BitVec.ofNat 64 P)
      else
        let more := s.poolTime x n P (good.map addr)
        k good fs { x with g := { x.g with extra := P - x.recorded } }
          { sh with st := sh.st + more, prod := sh.prod.map fun e => (e.1, e.2 + (P - 1)) } s

/-! ### Loads and stores -/

/-- A load of `r` words of scratch in each lane into `r` consecutive lane registers (R222). -/
def State.poolLoad (s : State) (sh : Shape) (r : Nat) (d a : Fin 64) (disp : Word) (la : Bool) : Host.Outcome State Fault Refusal :=
  s.issue sh fun x s =>
    let addr := poolAddr x.g a disp
    s.poolAccess x sh (4 * r) true false addr ((List.range r).map fun i => nextV d i) fun good fs y sh' s =>
      let (ecc, s) := s.consumeLanes x (4 * r) addr good
      let ok := good.filter fun p => !ecc.contains p
      let m := Lanes.ofFn fun p => ok.contains p
      let g0 := s.notePool x addr ok (y.g.lastIf a la x.pc)
      let g := (List.range r).foldl (fun (g : Group) i =>
        g.writeV (nextV d i) m fun p => BitVec.ofNat 32 (s.scratchNum x.c x.t (addr p + 4 * i) 4)) g0
      s.finish y sh' (if m = 0 then g0 else g) (fun _ => x.pc + sh.len) (fs ++ ecc.map fun p => ⟨p, 0x11, BitVec.ofNat 64 (addr p), 0, 0⟩)

/-- A store of `r` consecutive lane registers of each lane to scratch, in ascending home-lane order (R222, R223). -/
def State.poolStore (s : State) (sh : Shape) (r : Nat) (d a : Fin 64) (disp : Word) (la ld : Bool) : Host.Outcome State Fault Refusal :=
  s.issue sh fun x s =>
    let addr := poolAddr x.g a disp
    s.poolAccess x sh (4 * r) false true addr [] fun good fs y sh' s =>
      let s := good.foldl (fun s p => s.scratchStore x.c x.t (addr p)
        ((List.range r).flatMap fun i => leBytes 4 (x.g.readV (nextV d i) p).toNat)) s
      let s := s.tagPool x addr good
      let g := (List.range r).foldl (fun (g : Group) i => g.lastIf (nextV d i) ld x.pc) (y.g.lastIf a la x.pc)
      s.finish y sh' g (fun _ => x.pc + sh.len) fs

/-- PLD: a word of scratch (R222). -/
def execPld (d a : Fin 64) (imm : BitVec 7) (la : Bool) (st : Fin 8) (s : State) : Host.Outcome State Fault Refusal :=
  s.poolLoad ⟨true, st.val, [], [keyV a], [(keyV d, 6)], .load⟩ 1 d a (imm.signExtend 32 * 4) la

/-- PST: a word to scratch (R222). -/
def execPst (d a : Fin 64) (imm : BitVec 7) (la ld : Bool) (st : Fin 8) (s : State) : Host.Outcome State Fault Refusal :=
  s.poolStore ⟨true, st.val, [], [keyV a, keyV d], [], .store⟩ 1 d a (imm.signExtend 32 * 4) la ld

/-- The register group of a wide form. -/
def wideRegs (x4 : Bool) (d : Fin 64) : List (Fin 64) := (List.range (wideWords x4)).map fun i => nextV d i

/-- PLDW: two or four words of scratch, the low word first (R222). -/
def execPldw (x4 : Bool) (d a : Fin 64) (imm : BitVec 6) (la : Bool) (st : Fin 8) (s : State) : Host.Outcome State Fault Refusal :=
  s.poolLoad ⟨true, st.val, [], [keyV a], (wideRegs x4 d).map fun r => (keyV r, 6), .load⟩ (wideWords x4) d a
    (imm.signExtend 32 * BitVec.ofNat 32 (4 * wideWords x4)) la

/-- PSTW: two or four words to scratch (R222). -/
def execPstw (x4 : Bool) (d a : Fin 64) (imm : BitVec 6) (la ld : Bool) (st : Fin 8) (s : State) : Host.Outcome State Fault Refusal :=
  s.poolStore ⟨true, st.val, [], keyV a :: (wideRegs x4 d).map keyV, [], .store⟩ (wideWords x4) d a
    (imm.signExtend 32 * BitVec.ofNat 32 (4 * wideWords x4)) la ld

/-- One lane's pool atomic: the old value, and the word written unless CAS failed or an error was met (R224, R225). -/
def State.poolAtomic (s : State) (x : Ctx) (aop : Aop) (d : Fin 64) (addr : Nat) (p : Fin 64) : Word × Bool × State :=
  let (ue, s) := s.consumeScratch x addr 4
  let old : Word := BitVec.ofNat 32 (s.scratchNum x.c x.t addr 4)
  if ue then (old, true, s)
  else match atomicNew f32Add aop old (x.g.readV d p) (x.g.readV (nextV d 1) p) with
    | some w => (old, false, s.scratchPut x.c x.t addr 4 w.toNat)
    | none => (old, false, s)

/-- The pool atomics of lanes in ascending home-lane order: what each returned, and the lanes that met an error. -/
def State.poolAtomics (s : State) (x : Ctx) (aop : Aop) (d : Fin 64) (addr : Fin 64 → Nat) :
    List (Fin 64) → List (Fin 64 × Word) × List (Fin 64) × State
  | [] => ([], [], s)
  | p :: ps =>
    let (old, ue, s) := s.poolAtomic x aop d (addr p) p
    let (vs, bad, s) := s.poolAtomics x aop d addr ps
    if ue then (vs, p :: bad, s) else ((p, old) :: vs, bad, s)

/-- PATOM: one atomic per lane on a word of scratch, at team scope (R224). -/
def execPatom (aop : Aop) (ord : MemOrd) (d a : Fin 64) (la : Bool) (st : Fin 8) (s : State) : Host.Outcome State Fault Refusal :=
  let uses := [keyV a, keyV d] ++ (if aop = .cas then [keyV (nextV d 1)] else [])
  let sh : Shape := ⟨true, st.val, [], uses, [(keyV d, 6)], .atomic⟩
  let acq := ord == .acq || ord == .ar
  s.issue sh fun x s =>
    let addr := poolAddr x.g a 0
    let go (s : State) : State :=
      s.poolAccess x sh 4 true true addr [d] fun good fs y sh' s =>
        if acq && (s.poolTagsMet x addr good).any fun t => s.tagWaits t .team then s.hold x
        else
          let g0 := y.g.lastIf a la x.pc
          let g0 := if acq then g0 else s.notePool x addr good g0
          let (vs, ecc, s) := s.poolAtomics x aop d addr good
          let m := Lanes.ofFn fun p => vs.any fun v => v.1 == p
          let g := g0.writeV d m fun p => ((vs.find? fun v => v.1 == p).map Prod.snd).getD 0
          let s := s.tagPool x addr (good.filter m.has)
          s.finish y sh' (if m = 0 then g0 else g) (fun _ => x.pc + 4)
            (fs ++ ecc.map fun p => ⟨p, 0x11, BitVec.ofNat 64 (addr p), 0, 0⟩)
    if ord == .rel || ord == .ar then s.released x .team go else go s

end Sys2Proof.Machine
end

