-- ==== Sys2Proof/Machine/Queue.lean ====
section
/-! DEFINITION. Decoupling queues: pushing loads, stores and atomics, prefetches, QPOP and QWAIT (R74 to R76, R226 to
R232). -/
namespace Sys2Proof.Machine

/-- DEPTH and BASE of a queue word (R159). -/
def queueDepth (w : Nat) : Nat := field w 0 7
def queueBase (w : Nat) : Fin 128 := Fin.ofNat 128 (field w 9 7)

/-- The base register that the issuing group's declaration of a queue binds (R129). -/
def State.baseOf (s : State) (q : Fin 8) : Fin 128 :=
  match s.ctx with
  | some x => queueBase (s.queueWord x.c x.gid x.g x.grid q)
  | none => 0

/-- The address of a lane: the base register plus its sign-extended index (R129). -/
def laneAddr (g : Group) (base : Fin 128) (a p : Fin 64) : DWord := g.s.get base + (g.readV a p).signExtend 64

/-- The access that an entry of a queue makes. -/
def queueAccess : QKind → AccKind
  | .ld => .load
  | .st => .store
  | .atom => .atomic

/-- What a pushing instruction does in each lane. -/
structure Push where
  kind : QKind
  aop : Aop
  acq : Bool
  rel : Bool
  scope : Scope
  q : Fin 8
  a : Fin 64
  base : Fin 128
  d : Fin 64
  deriving DecidableEq, Repr

/-- The access that a push makes. -/
def Push.acc (w : Push) : AccKind := queueAccess w.kind

/-- The oldest entry of a queue that holds an open slot for a lane at this instruction (R76). -/
def openSlot (es : List QEntry) (pc : Word) (p : Fin 64) : Option Nat :=
  (es.find? fun e => e.kind != .st && e.site == pc && (e.pending.has p || e.deferred.has p)).map QEntry.uid

/-- Whether the data of some lane of an entry has not arrived, or its store not performed (R74): a deferred lane has not executed the
instruction yet. -/
def QEntry.outstanding (e : QEntry) : Bool := (e.lanes &&& ~~~e.filled &&& ~~~e.deferred) != 0

/-- The entries of a group's queues that hold outstanding requests, those of its own queues under the names of the handler bank among
them. -/
def State.entriesOf (s : State) (c gid : Fin 128) (g : Group) : List Nat :=
  let own (q : List QEntry) : List Nat := (q.filter QEntry.outstanding).map QEntry.uid
  g.q.val.flatMap own ++ (if g.hmode then (s.bankOf c gid g).elim [] fun b => own (b.snap.q.get 0) ++ own (b.snap.q.get 1) else [])

/-- Whether a group belongs to open work. -/
def State.openGroup (s : State) (c : Fin 128) (g : Group) : Bool := (s.gridOf c g).elim true fun x => x.qid.isNone

/-- The outstanding requests that open work holds on a core (R74): one for each entry, also of a group that has left. -/
def State.outstanding (s : State) (c : Fin 128) : Nat :=
  let groups := (List.finRange 128).filterMap fun i => (s.group c i).map fun g => (i, g)
  let bound (uid : Nat) : Bool := groups.any fun x => x.2.uid == uid && !s.openGroup c x.2
  let queued := (groups.filter fun x => s.openGroup c x.2).flatMap fun x => s.entriesOf c x.1 x.2
  let sent := (s.reqs.filter fun r => r.core == c && !bound r.uid).filterMap fun r => r.entry.map Prod.snd
  ((queued ++ sent).eraseDups).length

/-- The outstanding requests reserved on a core for its bound groups: the sum of the declared depths of each (R50). -/
def State.reservedRequests (s : State) (c : Fin 128) : Nat :=
  ((s.core c).groups.val.map fun g => match g.bind fun x => (s.gridOf c x) with
    | some grid => if grid.qid.isSome then (grid.kern.queues.val.map fun w => queueDepth w.toNat).sum else 0
    | none => 0).sum

/-- Whether a push of a group waits for an outstanding request to be freed, which a bound group's never does (R50, R75). -/
def State.requestsFull (s : State) (x : Ctx) : Bool :=
  x.grid.qid.isNone && decide (4096 ≤ s.outstanding x.c + s.reservedRequests x.c)

/-- The lanes of a group parked at an address below an instruction's (R76). -/
def Group.behind (g : Group) (pc : Word) : Lanes :=
  Lanes.ofFn fun p => g.lst.get p == .parked && decide ((g.lpc.get p).toNat < pc.toNat) && (!g.hmode || g.hlanes.has p)

/-- A slot's marks after its lane's access: in flight, pending while the lane is parked, or deferred once it is
delivered. -/
def QEntry.mark (e : QEntry) (p : Fin 64) (h : Hit) : QEntry :=
  let one := Lanes.one p
  let e := { e with pending := e.pending &&& ~~~one, deferred := e.deferred &&& ~~~one }
  match h with
  | .sent _ _ | .frozen _ => e
  | .onRecord _ | .onPage _ _ _ _ => { e with pending := e.pending ||| one }
  | .bad _ => { e with deferred := e.deferred ||| one }

/-- The requests of the lanes that were translated or are held at a frozen entry. -/
def pushReqs (x : Ctx) (w : Push) (space : Word) (now : DWord) (push : Nat) (entryOf : Fin 64 → Nat) :
    List (Fin 64 × Hit) → Nat → List Req
  | [], _ => []
  | (p, h) :: rest, id =>
    let req (pa xl : Nat) (ph : ReqPhase) : Req :=
      { id := id, push := push, kind := w.acc, aop := w.aop, add64 := false, core := x.c, uid := x.g.uid, gid := x.gid,
        team := x.t.admitted, pos := p, tid := x.g.tid.get p, tids := [x.g.tid.get p], space := space, va := laneAddr x.g w.base w.a p, pa := pa, xl := xl,
        entry := some (w.q, entryOf p), scope := w.scope, acq := w.acq, rel := w.rel,
        tagScope := if w.kind == .ld then none else x.g.tagScope p w.rel w.scope,
        data := (x.g.readV w.d p).setWidth 64, data2 := x.g.readV (nextV w.d 1) p, promoted := false, phase := ph, since := now }
    match h with
    | .sent pa u => req pa u .sent :: pushReqs x w space now push entryOf rest (id + 1)
    | .frozen pa => req pa 0 .frozen :: pushReqs x w space now push entryOf rest (id + 1)
    | _ => pushReqs x w space now push entryOf rest (id + 1)

/-- The effect of a pushing instruction on the lanes `m` of ACT, `push` of which push an entry. The new entry's lane set holds those that
push and the deferred ones, not the lanes that fill an open slot of an older entry. [DEDUCED, log 88; DEDUCED, log 99] -/
def State.pushLanes (s : State) (x : Ctx) (sh : Shape) (w : Push) (last : Group → Group) (m push : Lanes) : State :=
  let es := x.g.q.get w.q
  let space := s.spaceOf x.c x.g
  let va := laneAddr x.g w.base w.a
  let (hs, s) := s.laneHits x.c x.g.uid space w.acc 4 va m.list
  let k := s.core x.c
  let needs := newPages hs
  if k.recordsWait needs.length || (w.kind == .st && decide (64 < k.replay.length + entriesNeeded hs)) then s.hold x
  else
    let bad := hitLanes hs fun h => match h with
      | .bad _ => true
      | _ => false
    let parked := if w.kind == .st then 0 else hitLanes hs Hit.parks
    let (uid, s) := s.newId
    let entryOf (p : Fin 64) : Nat := if push.has p then uid else (openSlot es x.pc p).getD uid
    let es := hs.foldl (fun es h => if push.has h.1 then es
      else es.map fun e => if e.uid = entryOf h.1 then e.mark h.1 h.2 else e) es
    let lanes := if w.kind == .st then push &&& ~~~bad else push ||| x.g.behind x.pc
    let fresh : QEntry := ⟨uid, w.kind, lanes, 0, parked &&& push,
      if w.kind == .st then 0 else (bad &&& push) ||| x.g.behind x.pc, 0, Tab.replicate 64 0, x.pc⟩
    let es := if push = 0 ∨ lanes = 0 then es else es ++ [fresh]
    let s := { s with reqs := s.reqs ++ pushReqs x w space s.reft uid entryOf hs s.nextId, nextId := s.nextId + 64 }
    let s := if w.kind == .st then
        s.replayAll x va (fun p => (x.g.readV w.d p).setWidth 64) 4 false (some (w.q, uid)) w.scope w.rel hs
      else s.parkLanes x w.acc va hs
    let g := { (last x.g).setLst parked .parked with q := x.g.q.set w.q es }
    s.finishWith x sh g (fun _ => x.pc + 4) (bad ||| parked ||| (x.act &&& ~~~m))
      (deliveriesOf x.pc true w.acc (hitFaults hs))

/-- A pushing instruction (R75, R76, R226): the lanes with an open slot at this instruction fill it, and the others push
one entry. On a full queue or with no outstanding request free, those that push stay or fault; the others, which never fault on it
(R76), issue again at once. [DEDUCED, log 99] -/
def State.push (s : State) (x : Ctx) (sh : Shape) (w : Push) (word : DWord) (last : Group → Group) : State :=
  let depth := queueDepth (s.queueWord x.c x.gid x.g x.grid w.q)
  let es := x.g.q.get w.q
  if depth = 0 then s.faultAll x sh 0x05 0 word 0
  else
    let fill := if w.kind == .st then 0 else Lanes.ofFn fun p => x.act.has p && (openSlot es x.pc p).isSome
    let push := x.act &&& ~~~fill
    if push = 0 then s.pushLanes x sh w last x.act 0
    else if depth ≤ es.length then
      if es.any fun e => e.kind == .st then (if fill = 0 then s.hold x else s.pushLanes x sh w last fill 0)
      else if fill = 0 then s.faultAll x sh 0x01 0 3 (BitVec.ofNat 64 w.q.val)
      else s.finish x sh x.g (fun _ => x.pc) (push.list.map fun p => ⟨p, 0x01, 0, 3, BitVec.ofNat 64 w.q.val⟩)
    else if s.requestsFull x then (if fill = 0 then s.hold x else s.pushLanes x sh w last fill 0)
    else s.pushLanes x sh w last x.act push

/-- QLD: one 4-byte load per lane (R227). -/
def execQld (q : Fin 8) (acq : Bool) (sc : Scope) (a : Fin 64) (la : Bool) (st : Fin 8) (s : State) :
    Host.Outcome State Fault Refusal :=
  let base := s.baseOf q
  let sh : Shape := ⟨true, st.val, [base], [keyV a, keyS base], [], .load⟩
  s.issue sh fun x s =>
    s.push x sh ⟨.ld, .exch, acq, false, sc, q, a, base, 0⟩ (wordOf (.qld q acq sc a la st)) fun g => g.lastIf a la x.pc

/-- QST: one 4-byte store per lane (R228); a release waits for the replay queue (R108). -/
def execQst (q : Fin 8) (rel : Bool) (sc : Scope) (a d : Fin 64) (la ld : Bool) (st : Fin 8) (s : State) :
    Host.Outcome State Fault Refusal :=
  let base := s.baseOf q
  let sh : Shape := ⟨true, st.val, [base], [keyV a, keyV d, keyS base], [], .store⟩
  let word := wordOf (.qst q rel sc a d la ld st)
  s.issue sh fun x s =>
    let go (s : State) : State := s.push x sh ⟨.st, .exch, false, rel, sc, q, a, base, d⟩ word fun g =>
      (g.lastIf a la x.pc).lastIf d ld x.pc
    if rel then s.afterReplays x sc go else go s

/-- QATOM: one atomic per lane on memory (R229). -/
def execQatom (aop : Aop) (ord : MemOrd) (sc : Scope) (q : Fin 8) (a d : Fin 64) (st : Fin 8) (s : State) :
    Host.Outcome State Fault Refusal :=
  let base := s.baseOf q
  let uses := [keyV a, keyV d, keyS base] ++ (if aop = .cas then [keyV (nextV d 1)] else [])
  let sh : Shape := ⟨true, st.val, [base], uses, [], .atomic⟩
  let word := wordOf (.qatom aop ord sc q a d st)
  let rel := ord == .rel || ord == .ar
  s.issue sh fun x s =>
    let go (s : State) : State :=
      s.push x sh ⟨.atom, aop, ord == .acq || ord == .ar, rel, sc, q, a, base, d⟩ word fun g => g
    if rel then s.afterReplays x sc go else go s

/-- QPF: a translation and a line asked for in each lane (R232). -/
def execQpf (q : Fin 8) (a : Fin 64) (la : Bool) (st : Fin 8) (s : State) : Host.Outcome State Fault Refusal :=
  let base := s.baseOf q
  let sh : Shape := ⟨true, st.val, [base], [keyV a, keyS base], [], .load⟩
  s.issue sh fun x s =>
    if queueDepth (s.queueWord x.c x.gid x.g x.grid q) = 0 then s.faultAll x sh 0x05 0 (wordOf (.qpf q a la st)) 0
    else
      let space := s.spaceOf x.c x.g
      let s := x.act.list.foldl (fun s p =>
        let va := laneAddr x.g base a p
        if field va.toNat 57 7 ≠ 0 then s
        else
          let (id, s) := s.newId
          s.modDie (homeDie va) fun d => { d with xlreqs := d.xlreqs ++ [⟨id, x.c, space, va⟩] }) s
      s.finish x sh (x.g.lastIf a la x.pc) (fun _ => x.pc + 4) []

/-- Whether every slot that a QPOP by these lanes needs has arrived (R76, R230). -/
def QEntry.ready (e : QEntry) (act : Lanes) : Bool :=
  e.pending == 0 && (e.deferred &&& ~~~act) == 0 && (e.lanes &&& ~~~e.filled &&& ~~~e.deferred) == 0

/-- QPOP: the oldest load or atomic entry into a lane register (R230). [DEDUCED, log 93] -/
def execQpop (d : Fin 64) (q : Fin 8) (st : Fin 8) (s : State) : Host.Outcome State Fault Refusal :=
  let sh : Shape := ⟨true, st.val, [], [], [(keyV d, 0)], .other⟩
  s.issue sh fun x s =>
    let es := x.g.q.get q
    if queueDepth (s.queueWord x.c x.gid x.g x.grid q) = 0 then s.faultAll x sh 0x05 0 (wordOf (.qpop d q st)) 0
    else match es.find? fun e => e.kind != .st with
      | none => s.faultAll x sh 0x0B 0 (BitVec.ofNat 64 q.val) 0
      | some e =>
        let lanes := e.lanes &&& ~~~(x.act &&& e.deferred)
        let ecc := x.act &&& e.ecc &&& lanes
        if !e.ready x.act then s.hold x
        else s.withSlicesOr x sh [d] (fun s => (ecc, s)) fun s =>
          let m := x.act &&& ~~~ecc
          let g := if m = 0 then x.g else x.g.writeV d m fun p => if lanes.has p then e.vals.get p else 0
          s.finish x { sh with acc := queueAccess e.kind } { g with q := g.q.set q (es.filter fun y => y.uid != e.uid) } (fun _ => x.pc + 4)
            (ecc.list.map fun p => ⟨p, 0x11, 0, 0, 0⟩)

/-- Whether an entry is incomplete (R231): a slot has not arrived, or a lane's store has not performed. -/
def QEntry.incomplete (e : QEntry) : Bool := (e.lanes &&& ~~~e.filled) != 0

/-- QWAIT: a wait until at most `cnt` entries are incomplete (R231). -/
def execQwait (q : Fin 8) (cnt : Fin 64) (st : Fin 8) (s : State) : Host.Outcome State Fault Refusal :=
  let sh := ctl st.val []
  s.issue sh fun x s =>
    if queueDepth (s.queueWord x.c x.gid x.g x.grid q) = 0 then s.faultAll x sh 0x05 0 (wordOf (.qwait q cnt st)) 0
    else if ((x.g.q.get q).filter QEntry.incomplete).length ≤ cnt.val then s.finish x sh x.g (fun _ => x.pc + 4) []
    else s.waitOn x (.queue q cnt.val)

end Sys2Proof.Machine
end

