-- ==== Sys2Proof/Machine/System.lean ====
section
/-! DEFINITION. The privileged instructions (R185 to R190): registers, TLB invalidation, contexts, the return from a trap, and
IDLE. -/
namespace Sys2Proof.Machine

/-- Whether a group is privileged (R295, R301). -/
def Ctx.privileged (x : Ctx) : Bool := x.g.priv || x.g.hmode

/-- A privileged instruction (R185): outside privileged mode every lane of ACT faults with PRIV. [DEDUCED, log 43] -/
def State.system (s : State) (sh : Shape) (word : DWord) (body : Ctx → State → State) : Host.Outcome State Fault Refusal :=
  s.issue sh fun x s => if x.privileged then body x s else s.faultAll x sh 0x06 0 word 0

/-- What follows when a selector may be reached: ILLOP for one that no map assigns, PRIV for one of level M (R186, R295). -/
def State.withReg (s : State) (x : Ctx) (sh : Shape) (sel : Nat) (word : DWord) (k : State → State) : State :=
  if !regAssigned sel then s.faultAll x sh 0x05 0 word 0
  else if regLevelM sel then s.faultAll x sh 0x06 0 word 0
  else k s

/-- CRR: a privileged register into a uniform register (R186). -/
def execCrr (d : Fin 64) (sel : BitVec 10) (st : Fin 8) (s : State) : Host.Outcome State Fault Refusal :=
  let sh : Shape := ⟨true, st.val, [lowS d], [], [(keyS (lowS d), 2)], .other⟩
  let word := wordOf (.crr d sel st)
  s.system sh word fun x s => s.withReg x sh sel.toNat word fun s =>
    s.finish x sh (x.g.writeS (lowS d) (s.readReg x.c sel.toNat)) (fun _ => x.pc + 4) []

/-- CRW: a uniform register into a privileged register (R186). The instruction completes before its write takes effect on
the executing group. -/
def execCrw (a : Fin 64) (sel : BitVec 10) (st : Fin 8) (s : State) : Host.Outcome State Fault Refusal :=
  let sh : Shape := ⟨true, st.val, [lowS a], [keyS (lowS a)], [], .other⟩
  let word := wordOf (.crw a sel st)
  s.system sh word fun x s => s.withReg x sh sel.toNat word fun s =>
    (s.finish x sh x.g (fun _ => x.pc + 4) []).writeReg x.c sel.toNat (x.g.s.get (lowS a))

/-! ### XLINV -/

/-- Whether a TLB entry lies in a range of a space (R114). [DESIGN CHOICE, log 11] -/
def TlbEntry.within (t : TlbEntry) (space : Word) (lo len : Nat) : Bool :=
  t.space == space && decide (t.base < lo + len) && decide (lo < t.base + pageSize t.level)

/-- Copies whose access to a frame outside the vaults is on its way under a translation of the range: an element's, the status word's or
the counter's. -/
def State.copiesWithin (s : State) (space : Word) (lo len : Nat) : List Nat :=
  (s.copies.filter fun k => k.isAway && k.space == space && (
    let inside (a : DWord) : Bool := decide (lo ≤ a.toNat) && decide (a.toNat < lo + len)
    if k.job.total < k.next then inside (k.job.finalVa (k.next - k.job.total))
    else
      let e := k.job.elem (min k.next (k.job.total - 1))
      inside e.src || inside e.dst)).map Copy.id

/-- XLINV's effect (R114): the entries of the range are dropped from every slice of its home die, and the invalidation is in
flight until their accesses have performed. [DEDUCED, log 42] -/
def State.invalidate (s : State) (x : Ctx) (space : Word) (lo len : Nat) (counter : DWord) : State :=
  let d := homeDie (BitVec.ofNat 64 lo)
  let gone := (s.die d).tlb.filter fun t => t.within space lo len
  let (id, s) := s.newId
  let drops := gone.map TlbEntry.uid ++ s.copiesWithin space lo len
  let s := s.modDie d fun y => { y with tlb := y.tlb.filter fun t => !t.within space lo len }
  { s with xlinvs := s.xlinvs ++ [⟨id, d, x.c, x.g.uid, x.t.admitted, x.act.list.map fun p => x.g.tid.get p, drops, s.spaceOf x.c x.g, counter, none⟩] }

/-- XLINV: the operands are checked, ALIGN before SPACE, for which the home die reads the space's entry, and the request goes there (R9,
R187, R390). -/
def execXlinv (a : Fin 64) (st : Fin 8) (s : State) : Host.Outcome State Fault Refusal :=
  let rs := (List.range 4).map fun i => nextS (lowS a) i
  let sh : Shape := ⟨true, st.val, rs, rs.map keyS, [], .other⟩
  s.system sh (wordOf (.xlinv a st)) fun x s =>
    let r (i : Nat) : Nat := (x.g.s.get (nextS (lowS a) i)).toNat
    let lo := r 1
    let len := r 2
    let last := (lo + (len - 1)) % 2 ^ 64
    let space : Word := BitVec.ofNat 32 (r 0)
    let d := homeDie (BitVec.ofNat 64 lo)
    if lo % 65536 ≠ 0 ∨ len % 65536 ≠ 0 ∨ (len ≠ 0 ∧ lo / 2 ^ 54 ≠ last / 2 ^ 54) ∨ r 3 % 8 ≠ 0 then s.faultAll x sh 0x0A 0 0 0
    else match (if field (r 0) 32 32 ≠ 0 ∨ (s.die d).part ≠ (s.die (dieOf x.c)).part then none else s.spaceEntry d space) with
      | none => s.faultAll x sh 0x10 0 (BitVec.ofNat 64 (r 0)) 0
      | some e =>
        match s.consumeVault d e 16 (some (x.gid.val, s.spaceOf x.c x.g)) with
        | (true, s) => s.faultAll x sh 0x11 0 0 0
        | (false, s) =>
          if (s.spaceRoot d space).isNone then s.faultAll x sh 0x10 0 (BitVec.ofNat 64 (r 0)) 0
          else (s.invalidate x space lo len (BitVec.ofNat 64 (r 3))).finish x sh x.g (fun _ => x.pc + 4) []

/-- XLINV_COMPLETION: once every access under the dropped entries has performed, the completion counter takes one, as a release at system
scope by the home die (R114), in its issuer's space even when that is being retired (R314). The add waits at a frozen entry (R116), and one
whose counter holds an uncorrectable error is not made (R390). [DEDUCED, log 42] -/
def execXlinvCompletion (id : Nat) (s : State) : Host.Outcome State Fault Refusal :=
  .next (match s.xlinvs.find? fun v => v.id == id with
  | none => s
  | some v =>
    let busy := (s.reqs.any fun r => v.drops.contains r.xl && (r.phase == .sent || r.phase == .away))
      || s.copies.any fun k => v.drops.contains k.id && k.isAway
    let done (s : State) : State := { s with xlinvs := s.xlinvs.filter fun y => y.id != id }
    let add (s : State) (pa : Nat) : State := if inVault pa || s.pathOpen pa then done (s.counterAdd v.core .sys 0 pa 1 none).2 else s
    if busy then s
    else match v.pa with
    | some pa => add s pa
    | none => match s.translate v.core v.space v.counter .store .host with
      | (.ok pa _, s) => add s pa
      | (.frozen _, s) => s
      | (.fault _ _ _ _ _, s) => done s)

/-! ### Contexts -/

/-- CTXSV's effect on a stopped group: its context written, its slots freed, and its team gone with its last group (R188,
R306). -/
def State.saveGroup (s : State) (c gid : Fin 128) (a : Nat) : State :=
  let s := s.endPending c gid
  match s.group c gid with
  | none => s
  | some g =>
    match s.team c g.team with
    | none => s
    | some t =>
      match s.grid t.grid with
      | none => s
      | some grid =>
        let last := (s.teamGroups c g.team).length == 1
        let (bs, part) := s.groupContext c gid g t grid last a
        let waits := if last then s.streamHolds c g.team t.odd else []
        let s := (s.pstore a bs).removeGroup c gid g
        let (id, s) := s.newId
        let s : State := { s with
          saved := s.saved ++ [⟨id, t.grid, t.index, t.admitted, false, true, [⟨c, a, bs.length, [part], waits⟩], none, true⟩] }
        if s.teamEmpty c g.team t then (s.removeTeam c g.team t).acceptsDone else s

/-- The size of the context that CTXSV would write now. -/
def State.saveSize (s : State) (c gid : Fin 128) (g : Group) : Nat :=
  match s.team c g.team with
  | none => 0
  | some t =>
    match s.grid t.grid with
    | none => 0
    | some grid => (s.groupContext c gid g t grid ((s.teamGroups c g.team).length == 1) 0).1.length

/-- CTXSV: a stopped group's context saved, and its slots freed (R188, R306). ILLOP, PERM and ALIGN are its checks, the lowest
code first (R9). -/
def execCtxsv (a : Fin 64) (st : Fin 8) (s : State) : Host.Outcome State Fault Refusal :=
  let rs := [lowS a, nextS (lowS a) 1]
  let sh : Shape := ⟨true, st.val, rs, rs.map keyS, [], .other⟩
  let word := wordOf (.ctxsv a st)
  s.system sh word fun x s =>
    let n := (x.g.s.get (lowS a)).toNat
    let addr := (x.g.s.get (nextS (lowS a) 1)).toNat
    let gid : Fin 128 := Fin.ofNat 128 n
    match if n < 128 then s.group x.c gid else none with
    | none => s.faultAll x sh 0x05 0 word 0
    | some g =>
      let (base, len) := (s.core x.c).saveArea
      if gid = x.gid ∨ !(g.halted || g.stop == .doubleFault) then s.faultAll x sh 0x05 0 word 0
      else if addr < base ∨ base + len < addr + s.saveSize x.c gid g then s.faultAll x sh 0x08 0 (plainDetail 0x08) 0
      else if addr % 0x1000 ≠ 0 then s.faultAll x sh 0x0A 0 0 0
      else if s.saveWaits x.c g then s.hold x
      else (s.saveGroup x.c gid addr).finish x sh x.g (fun _ => x.pc + 4) []

/-- The slot on a core of the team that a save belongs to, if it is resident there. -/
def State.slotOfTeam (s : State) (c : Fin 128) (y : Saved) : Option (Fin 16) :=
  (List.finRange 16).find? fun i => (s.team c i).elim false fun t => t.grid == y.grid && t.index == y.team

/-- A part that software loaded from a save of the device leaves that save; with its last part the save's space is free. -/
def State.takePart (s : State) (y : Saved) (part : SavedPart) : State :=
  if y.software || !(s.saved.any fun z => z.id == y.id) then s
  else
    let left := y.halves.map fun h => { h with parts := h.parts.filter fun p => p.check != part.check }
    let gone := y.halves.map fun h => { h with parts := h.parts.filter fun p => p.check == part.check }
    let s := { s with past := s.past ++ [{ y with halves := gone }] }
    if left.all fun h => h.parts.isEmpty then
      let s := y.halves.foldl (fun s h => s.freeSpan h.core h.base) s
      { s with saved := s.saved.filter fun z => z.id != y.id }
    else { s with saved := s.saved.map fun z => if z.id = y.id then { z with halves := left } else z }

/-- A group context loaded onto a core (R189): into its team when that is resident there, else with a seat for the team when
the context carries the team section. The number of groups formed comes with the state; 0 when the core lacks what it
needs. [DEDUCED, log 46] -/
def State.loadGroup (s : State) (c : Fin 128) (y : Saved) (part : SavedPart) (a : Nat) : Nat × State :=
  match s.grid y.grid with
  | none => (0, s)
  | some grid =>
    let cap := if grid.paired then min 32 (s.core c).healthCap else (s.core c).healthCap
    let (g, stop) := readGroup s.mem a part s.nextId
    let gs := g.resliced cap
    let k := s.core c
    let slots := decide (gs.length ≤ k.freeGroups.length) && decide (k.threadsUsed + (gs.map fun g => g.grant.lanes).sum ≤ 2048)
    let seated (s : State) (slot : Fin 16) : State := (s.seatPart c slot y.admitted (some part.uid, gs)).takePart y part
    let section_ := s.mem.num (a + 0x0E) 1 / 4 % 2 == 1
    let fill (s : State) (slot : Fin 16) : State :=
      if section_ then
        let waits := (y.halves.find? fun h => h.parts.any fun p => p.check == part.check).elim [] SavedHalf.waits
        (s.fillSection c slot grid stop (streamsWithin (a + part.size) (s.sectionFixed c slot grid stop)) waits).2
      else s
    match s.slotOfTeam c y with
    | some slot =>
      match s.team c slot with
      | none => (0, s)
      | some t =>
        if slots && columnsFit (gs.map fun g => g.seat grid) (s.slotsFree c slot t grid) then (gs.length, fill (seated s slot) slot)
        else (0, s)
    | none =>
      let odd := grid.paired && c.val % 2 == 1
      let room := s.hasRoom c grid (gs.map fun g => g.seat grid) && (!grid.paired || s.hasRoom (partner c) grid [])
      if !section_ || !room then (0, s)
      else
        let (slot, mate, s) := s.seatTeam (if grid.paired then evenCore c else c) grid y.team y.admitted
        let mine := if odd then mate else slot
        (gs.length, fill (seated s mine) mine)

/-- A continuation loaded onto a core, whole (R345, R346). -/
def State.loadCont (s : State) (c : Fin 128) (y : Saved) : Nat × State :=
  match s.grid y.grid with
  | none => (0, s)
  | some grid =>
    let unit := if grid.paired then evenCore c else c
    if s.canResume unit grid y then
      let n (s : State) : Nat := (s.core unit).resident.length + (if grid.paired then (s.core (partner unit)).resident.length else 0)
      let after := s.resumeTeam unit grid y
      (n after - n s, after)
    else (0, s)

/-- The reads that CTXLD makes of a context and of its space's entry, and whether they meet an uncorrectable error (R9, R390): all of the
context when its MAGIC is one. -/
def State.savedReads (s : State) (d : Fin 4) (a : Nat) (ctx : Option (Nat × Word)) : Bool × State :=
  let (u1, s) := s.consumeVault (vaultDie a) a 0x100 ctx
  if s.mem.num a 4 = 0x43585447 ∨ s.mem.num a 4 = 0x434E5443 then
    let (u2, s) := s.consumeVault (vaultDie a) (a + 0x100) (s.mem.num (a + 8) 4 - 0x100) ctx
    match s.spaceEntry d (BitVec.ofNat 32 (s.mem.num (a + 0x10) 4)) with
    | some e => let (u3, s) := s.consumeVault d e 16 ctx; (u1 || u2 || u3, s)
    | none => (u1 || u2, s)
  else (u1, s)

/-- CTXLD: a saved context made resident, once what its threads acquire has performed (R103); S[s+1] receives the number of groups formed
(R189). SPACE for a context that fails its checks (R307). [DEDUCED, log 46] -/
def execCtxld (a : Fin 64) (st : Fin 8) (s : State) : Host.Outcome State Fault Refusal :=
  let d := nextS (lowS a) 1
  let sh : Shape := ⟨true, st.val, [lowS a, d], [keyS (lowS a)], [], .other⟩
  s.system sh (wordOf (.ctxld a st)) fun x s =>
    let addr := (x.g.s.get (lowS a)).toNat
    if (s.savedAt (dieOf x.c) addr).any fun y => !s.metClear y.2.metTags then s.hold x
    else match s.savedReads (dieOf x.c) addr (some (x.gid.val, s.spaceOf x.c x.g)) with
      | (true, s) => s.faultAll x sh 0x11 0 0 0
      | (false, s) =>
        match s.savedAt (dieOf x.c) addr with
        | none => s.faultAll x sh 0x10 0 (BitVec.ofNat 64 (s.mem.num (addr + 0x10) 4)) 0
        | some (y, part) =>
          let (n, s) := if y.continuation then s.loadCont x.c y else s.loadGroup x.c y part addr
          s.finish x sh (x.g.writeS d (BitVec.ofNat 64 n)) (fun _ => x.pc + 4) []

/-! ### ERET and IDLE -/

/-- ERET: the handler's lanes return to the kernel at the resume offset (R302). ILLOP when no trap is in progress, and for an
offset that is odd or above the section's length, which is then a double fault. -/
def execEret (st : Fin 8) (s : State) : Host.Outcome State Fault Refusal :=
  let sh := ctl st.val [keyS 113]
  let word := wordOf (.eret st)
  s.system sh word fun x s =>
    let dest := (x.g.s.get 113).setWidth 32
    if !x.g.hmode || dest.getLsbD 0 || decide (x.grid.kern.len < dest.toNat) then s.faultAll x sh 0x05 0 word 0
    else
      let s := s.setGroup x.c x.gid (some (x.retire sh x.g (fun _ => x.pc) 0))
      let s := s.modCore x.c fun k => { k with idleCount := -1 }
      (s.returnLanes x.c x.gid x.act).settle x.c x.gid

/-- IDLE: the group issues nothing until a notify write, a fault record or the timer match (R190). -/
def execIdle (st : Fin 8) (s : State) : Host.Outcome State Fault Refusal :=
  let sh := ctl st.val []
  s.system sh (wordOf (.idle st)) fun x s => s.finish x sh { x.g with idle := true, woken := false } (fun _ => x.pc + 4) []

end Sys2Proof.Machine
end

