-- ==== Sys2Proof/Machine/Dispatch.lean ====
section
/-! DEFINITION. The dispatch: each instruction, event and command of the table to its meaning. -/
namespace Sys2Proof.Machine

/-- What an instruction, event or command does. -/
def exec (i : Instr) (s : State) : Host.Outcome State Fault Refusal :=
  match i with
  | .sadd d a b st => Sys2Proof.Machine.execSadd d a b st s
  | .ssub d a b st => Sys2Proof.Machine.execSsub d a b st s
  | .smul d a b st => Sys2Proof.Machine.execSmul d a b st s
  | .smulh d a b st => Sys2Proof.Machine.execSmulh d a b st s
  | .sand d a b st => Sys2Proof.Machine.execSand d a b st s
  | .sor d a b st => Sys2Proof.Machine.execSor d a b st s
  | .sxor d a b st => Sys2Proof.Machine.execSxor d a b st s
  | .sshl d a b st => Sys2Proof.Machine.execSshl d a b st s
  | .sshr d a b st => Sys2Proof.Machine.execSshr d a b st s
  | .ssra d a b st => Sys2Proof.Machine.execSsra d a b st s
  | .sminI64 d a b st => Sys2Proof.Machine.execSminI64 d a b st s
  | .smaxI64 d a b st => Sys2Proof.Machine.execSmaxI64 d a b st s
  | .scmp d a b st => Sys2Proof.Machine.execScmp d a b st s
  | .ssel d a b st => Sys2Proof.Machine.execSsel d a b st s
  | .sminN64 d a b st => Sys2Proof.Machine.execSminN64 d a b st s
  | .smaxN64 d a b st => Sys2Proof.Machine.execSmaxN64 d a b st s
  | .srdl d a b st => Sys2Proof.Machine.execSrdl d a b st s
  | .smov d a st => Sys2Proof.Machine.execSmov d a st s
  | .spopc d a st => Sys2Proof.Machine.execSpopc d a st s
  | .sclz d a st => Sys2Proof.Machine.execSclz d a st s
  | .setwReg d a st => Sys2Proof.Machine.execSetwReg d a st s
  | .setwImm d imm st => Sys2Proof.Machine.execSetwImm d imm st s
  | .getw d st => Sys2Proof.Machine.execGetw d st s
  | .tid d st => Sys2Proof.Machine.execTid d st s
  | .hlane d st => Sys2Proof.Machine.execHlane d st s
  | .rank d st => Sys2Proof.Machine.execRank d st s
  | .team d axis st => Sys2Proof.Machine.execTeam d axis st s
  | .grid d axis st => Sys2Proof.Machine.execGrid d axis st s
  | .gid d st => Sys2Proof.Machine.execGid d st s
  | .core d st => Sys2Proof.Machine.execCore d st s
  | .die d st => Sys2Proof.Machine.execDie d st s
  | .cyc d st => Sys2Proof.Machine.execCyc d st s
  | .reft d st => Sys2Proof.Machine.execReft d st s
  | .xfrd d st => Sys2Proof.Machine.execXfrd d st s
  | .xfclr mask st => Sys2Proof.Machine.execXfclr mask st s
  | .sli d imm st => Sys2Proof.Machine.execSli d imm st s
  | .slih d imm st => Sys2Proof.Machine.execSlih d imm st s
  | .sld d a imm st => Sys2Proof.Machine.execSld d a imm st s
  | .sst d a imm st => Sys2Proof.Machine.execSst d a imm st s
  | .crr r sel st => Sys2Proof.Machine.execCrr r sel st s
  | .crw r sel st => Sys2Proof.Machine.execCrw r sel st s
  | .xlinv r st => Sys2Proof.Machine.execXlinv r st s
  | .ctxsv r st => Sys2Proof.Machine.execCtxsv r st s
  | .ctxld r st => Sys2Proof.Machine.execCtxld r st s
  | .eret st => Sys2Proof.Machine.execEret st s
  | .idle st => Sys2Proof.Machine.execIdle st s
  | .brc off k neg st => Sys2Proof.Machine.execBrc off k neg st s
  | .bru off r neg st => Sys2Proof.Machine.execBru off r neg st s
  | .brm off k neg st => Sys2Proof.Machine.execBrm off k neg st s
  | .brb off k lid st => Sys2Proof.Machine.execBrb off k lid st s
  | .lenter lid st => Sys2Proof.Machine.execLenter lid st s
  | .call off st => Sys2Proof.Machine.execCall off st s
  | .calli a la st => Sys2Proof.Machine.execCalli a la st s
  | .nop st => Sys2Proof.Machine.execNop st s
  | .rcv st => Sys2Proof.Machine.execRcv st s
  | .exit st => Sys2Proof.Machine.execExit st s
  | .ret st => Sys2Proof.Machine.execRet st s
  | .trap code st => Sys2Proof.Machine.execTrap code st s
  | .brk st => Sys2Proof.Machine.execBrk st s
  | .yield st => Sys2Proof.Machine.execYield st s
  | .iadd d a b la lb st => Sys2Proof.Machine.execIadd d a b la lb st s
  | .isub d a b la lb st => Sys2Proof.Machine.execIsub d a b la lb st s
  | .imul d a b la lb st => Sys2Proof.Machine.execImul d a b la lb st s
  | .imulhI32 d a b la lb st => Sys2Proof.Machine.execImulhI32 d a b la lb st s
  | .imulhN32 d a b la lb st => Sys2Proof.Machine.execImulhN32 d a b la lb st s
  | .imad d a b la lb st => Sys2Proof.Machine.execImad d a b la lb st s
  | .iadd64 d a b la lb st => Sys2Proof.Machine.execIadd64 d a b la lb st s
  | .lea d a b la lb st => Sys2Proof.Machine.execLea d a b la lb st s
  | .iminI32 d a b la lb st => Sys2Proof.Machine.execIminI32 d a b la lb st s
  | .iminN32 d a b la lb st => Sys2Proof.Machine.execIminN32 d a b la lb st s
  | .imaxI32 d a b la lb st => Sys2Proof.Machine.execImaxI32 d a b la lb st s
  | .imaxN32 d a b la lb st => Sys2Proof.Machine.execImaxN32 d a b la lb st s
  | .and d a b la lb st => Sys2Proof.Machine.execAnd d a b la lb st s
  | .or d a b la lb st => Sys2Proof.Machine.execOr d a b la lb st s
  | .xor d a b la lb st => Sys2Proof.Machine.execXor d a b la lb st s
  | .mov d b lb st => Sys2Proof.Machine.execMov d b lb st s
  | .shl d a b la lb st => Sys2Proof.Machine.execShl d a b la lb st s
  | .shr d a b la lb st => Sys2Proof.Machine.execShr d a b la lb st s
  | .sra d a b la lb st => Sys2Proof.Machine.execSra d a b la lb st s
  | .rot d a b la lb st => Sys2Proof.Machine.execRot d a b la lb st s
  | .bfeI32 d a b la lb st => Sys2Proof.Machine.execBfeI32 d a b la lb st s
  | .bfeN32 d a b la lb st => Sys2Proof.Machine.execBfeN32 d a b la lb st s
  | .bfi d a b la lb st => Sys2Proof.Machine.execBfi d a b la lb st s
  | .iabs d a la st => Sys2Proof.Machine.execIabs d a la st s
  | .ineg d a la st => Sys2Proof.Machine.execIneg d a la st s
  | .not d a la st => Sys2Proof.Machine.execNot d a la st s
  | .popc d a la st => Sys2Proof.Machine.execPopc d a la st s
  | .clz d a la st => Sys2Proof.Machine.execClz d a la st s
  | .brev d a la st => Sys2Proof.Machine.execBrev d a la st s
  | .fabs d a la st => Sys2Proof.Machine.execFabs d a la st s
  | .fneg d a la st => Sys2Proof.Machine.execFneg d a la st s
  | .fclass d a la st => Sys2Proof.Machine.execFclass d a la st s
  | .frndRn d a la st => Sys2Proof.Machine.execFrndRn d a la st s
  | .frndRz d a la st => Sys2Proof.Machine.execFrndRz d a la st s
  | .frndRp d a la st => Sys2Proof.Machine.execFrndRp d a la st s
  | .frndRm d a la st => Sys2Proof.Machine.execFrndRm d a la st s
  | .frcp d a la st => Sys2Proof.Machine.execFrcp d a la st s
  | .frsq d a la st => Sys2Proof.Machine.execFrsq d a la st s
  | .fsqrt d a la st => Sys2Proof.Machine.execFsqrt d a la st s
  | .fexp2 d a la st => Sys2Proof.Machine.execFexp2 d a la st s
  | .flog2 d a la st => Sys2Proof.Machine.execFlog2 d a la st s
  | .fsin d a la st => Sys2Proof.Machine.execFsin d a la st s
  | .fcos d a la st => Sys2Proof.Machine.execFcos d a la st s
  | .isel d k b lb st => Sys2Proof.Machine.execIsel d k b lb st s
  | .fsel d k b lb st => Sys2Proof.Machine.execFsel d k b lb st s
  | .icmpI32 kd cnd a b la lb st => Sys2Proof.Machine.execIcmpI32 kd cnd a b la lb st s
  | .icmpN32 kd cnd a b la lb st => Sys2Proof.Machine.execIcmpN32 kd cnd a b la lb st s
  | .fcmp kd cnd a b la lb st => Sys2Proof.Machine.execFcmp kd cnd a b la lb st s
  | .vote kd a la st => Sys2Proof.Machine.execVote kd a la st s
  | .kand kd ka kb st => Sys2Proof.Machine.execKand kd ka kb st s
  | .kor kd ka kb st => Sys2Proof.Machine.execKor kd ka kb st s
  | .kxor kd ka kb st => Sys2Proof.Machine.execKxor kd ka kb st s
  | .knot kd ka st => Sys2Proof.Machine.execKnot kd ka st s
  | .kmov kd ka st => Sys2Proof.Machine.execKmov kd ka st s
  | .kpopc sd ka st => Sys2Proof.Machine.execKpopc sd ka st s
  | .fadd d a b la lb st => Sys2Proof.Machine.execFadd d a b la lb st s
  | .fsub d a b la lb st => Sys2Proof.Machine.execFsub d a b la lb st s
  | .fmul d a b la lb st => Sys2Proof.Machine.execFmul d a b la lb st s
  | .ffma d a b la lb st => Sys2Proof.Machine.execFfma d a b la lb st s
  | .fmin d a b la lb st => Sys2Proof.Machine.execFmin d a b la lb st s
  | .fmax d a b la lb st => Sys2Proof.Machine.execFmax d a b la lb st s
  | .fdiv d a b la lb st => Sys2Proof.Machine.execFdiv d a b la lb st s
  | .hadd2 d a b la lb st => Sys2Proof.Machine.execHadd2 d a b la lb st s
  | .hmul2 d a b la lb st => Sys2Proof.Machine.execHmul2 d a b la lb st s
  | .hfma2 d a b la lb st => Sys2Proof.Machine.execHfma2 d a b la lb st s
  | .cvtNarrow fs d a la st => Sys2Proof.Machine.execCvtNarrow fs d a la st s
  | .cvtWiden fs d a la st => Sys2Proof.Machine.execCvtWiden fs d a la st s
  | .cvti mode signed d a la st => Sys2Proof.Machine.execCvti mode signed d a la st s
  | .cvtf mode signed d a la st => Sys2Proof.Machine.execCvtf mode signed d a la st s
  | .pk8 fs e d a la st => Sys2Proof.Machine.execPk8 fs e d a la st s
  | .upk8 fs e d a la st => Sys2Proof.Machine.execUpk8 fs e d a la st s
  | .pk4 fs e d a la st => Sys2Proof.Machine.execPk4 fs e d a la st s
  | .upk4 fs e d a la st => Sys2Proof.Machine.execUpk4 fs e d a la st s
  | .shfl d a b la lb st => Sys2Proof.Machine.execShfl d a b la lb st s
  | .shflup d a b la lb st => Sys2Proof.Machine.execShflup d a b la lb st s
  | .shfldn d a b la lb st => Sys2Proof.Machine.execShfldn d a b la lb st s
  | .shflx d a b la lb st => Sys2Proof.Machine.execShflx d a b la lb st s
  | .bcast d a b la lb st => Sys2Proof.Machine.execBcast d a b la lb st s
  | .redaddN32 d a la st => Sys2Proof.Machine.execRedaddN32 d a la st s
  | .redaddF32 d a la st => Sys2Proof.Machine.execRedaddF32 d a la st s
  | .redminI32 d a la st => Sys2Proof.Machine.execRedminI32 d a la st s
  | .redminN32 d a la st => Sys2Proof.Machine.execRedminN32 d a la st s
  | .redminF32 d a la st => Sys2Proof.Machine.execRedminF32 d a la st s
  | .redmaxI32 d a la st => Sys2Proof.Machine.execRedmaxI32 d a la st s
  | .redmaxN32 d a la st => Sys2Proof.Machine.execRedmaxN32 d a la st s
  | .redmaxF32 d a la st => Sys2Proof.Machine.execRedmaxF32 d a la st s
  | .scanaddN32 d a la st => Sys2Proof.Machine.execScanaddN32 d a la st s
  | .scanaddF32 d a la st => Sys2Proof.Machine.execScanaddF32 d a la st s
  | .scanaddN32Exc d a la st => Sys2Proof.Machine.execScanaddN32Exc d a la st s
  | .scanaddF32Exc d a la st => Sys2Proof.Machine.execScanaddF32Exc d a la st s
  | .matchV d a la st => Sys2Proof.Machine.execMatchV d a la st s
  | .pld d a imm la st => Sys2Proof.Machine.execPld d a imm la st s
  | .pst d a imm la ld st => Sys2Proof.Machine.execPst d a imm la ld st s
  | .pldw x4 d a imm la st => Sys2Proof.Machine.execPldw x4 d a imm la st s
  | .pstw x4 d a imm la ld st => Sys2Proof.Machine.execPstw x4 d a imm la ld st s
  | .patom aop ord d a la st => Sys2Proof.Machine.execPatom aop ord d a la st s
  | .bar bar st => Sys2Proof.Machine.execBar bar st s
  | .bara bar st => Sys2Proof.Machine.execBara bar st s
  | .bard bar st => Sys2Proof.Machine.execBard bar st s
  | .barw bar r st => Sys2Proof.Machine.execBarw bar r st s
  | .barx bar r st => Sys2Proof.Machine.execBarx bar r st s
  | .fset flag st => Sys2Proof.Machine.execFset flag st s
  | .fclr flag st => Sys2Proof.Machine.execFclr flag st s
  | .fwait flag st => Sys2Proof.Machine.execFwait flag st s
  | .fence ord sc st => Sys2Proof.Machine.execFence ord sc st s
  | .xfence st => Sys2Proof.Machine.execXfence st s
  | .qld q acq sc a la st => Sys2Proof.Machine.execQld q acq sc a la st s
  | .qst q rel sc a d la ld st => Sys2Proof.Machine.execQst q rel sc a d la ld st s
  | .qpf q a la st => Sys2Proof.Machine.execQpf q a la st s
  | .qpop d q st => Sys2Proof.Machine.execQpop d q st s
  | .qwait q cnt st => Sys2Proof.Machine.execQwait q cnt st s
  | .qatom aop ord sc q a d st => Sys2Proof.Machine.execQatom aop ord sc q a d st s
  | .cpy ds a sb la st => Sys2Proof.Machine.execCpy ds a sb la st s
  | .cpyg ds a sb la st => Sys2Proof.Machine.execCpyg ds a sb la st s
  | .cpys ds a sb la st => Sys2Proof.Machine.execCpys ds a sb la st s
  | .cseal b st => Sys2Proof.Machine.execCseal b st s
  | .cbulk sc a b st => Sys2Proof.Machine.execCbulk sc a b st s
  | .cntadd sc a b st => Sys2Proof.Machine.execCntadd sc a b st s
  | .cntwait sc a b st => Sys2Proof.Machine.execCntwait sc a b st s
  | .rput sc a b st => Sys2Proof.Machine.execRput sc a b st s
  | .rget a b st => Sys2Proof.Machine.execRget a b st s
  | .wqpop d a st => Sys2Proof.Machine.execWqpop d a st s
  | .wqpush d a st => Sys2Proof.Machine.execWqpush d a st s
  | .grec d a st => Sys2Proof.Machine.execGrec d a st s
  | .gemit d a st => Sys2Proof.Machine.execGemit d a st s
  | .tcfg t a st => Sys2Proof.Machine.execTcfg t a st s
  | .tld t a st => Sys2Proof.Machine.execTld t a st s
  | .tst t a st => Sys2Proof.Machine.execTst t a st s
  | .tzero t st => Sys2Proof.Machine.execTzero t st s
  | .ttrn tx ty st => Sys2Proof.Machine.execTtrn tx ty st s
  | .scld a st => Sys2Proof.Machine.execScld a st s
  | .mma tx ty a st => Sys2Proof.Machine.execMma tx ty a st s
  | .mmas tx ty a st => Sys2Proof.Machine.execMmas tx ty a st s
  | .accz a st => Sys2Proof.Machine.execAccz a st s
  | .accld a st => Sys2Proof.Machine.execAccld a st s
  | .accst fs a st => Sys2Proof.Machine.execAccst fs a st s
  | .mfrd d clr st => Sys2Proof.Machine.execMfrd d clr st s
  | .fork a odd st => Sys2Proof.Machine.execFork a odd st s
  | .rdv st => Sys2Proof.Machine.execRdv st s
  | .mend st => Sys2Proof.Machine.execMend st s
  | .movCompact d a last => Sys2Proof.Machine.execMovCompact d a last s
  | .iaddCompact d a last => Sys2Proof.Machine.execIaddCompact d a last s
  | .isubCompact d a last => Sys2Proof.Machine.execIsubCompact d a last s
  | .imulCompact d a last => Sys2Proof.Machine.execImulCompact d a last s
  | .andCompact d a last => Sys2Proof.Machine.execAndCompact d a last s
  | .orCompact d a last => Sys2Proof.Machine.execOrCompact d a last s
  | .xorCompact d a last => Sys2Proof.Machine.execXorCompact d a last s
  | .shlCompact d a last => Sys2Proof.Machine.execShlCompact d a last s
  | .shrCompact d a last => Sys2Proof.Machine.execShrCompact d a last s
  | .sraCompact d a last => Sys2Proof.Machine.execSraCompact d a last s
  | .faddCompact d a last => Sys2Proof.Machine.execFaddCompact d a last s
  | .fsubCompact d a last => Sys2Proof.Machine.execFsubCompact d a last s
  | .fmulCompact d a last => Sys2Proof.Machine.execFmulCompact d a last s
  | .fminCompact d a last => Sys2Proof.Machine.execFminCompact d a last s
  | .fmaxCompact d a last => Sys2Proof.Machine.execFmaxCompact d a last s
  | .leaCompact d a last => Sys2Proof.Machine.execLeaCompact d a last s
  | .brmWindowExpiry core slot => Sys2Proof.Machine.execBrmWindowExpiry core slot s
  | .waitTimeout who => Sys2Proof.Machine.execWaitTimeout who s
  | .coreReserveLoan core => Sys2Proof.Machine.execCoreReserveLoan core s
  | .tlbTranslate id => Sys2Proof.Machine.execTlbTranslate id s
  | .accessPerform id => Sys2Proof.Machine.execAccessPerform id s
  | .responseArrival id => Sys2Proof.Machine.execResponseArrival id s
  | .remoteScopePromotion id => Sys2Proof.Machine.execRemoteScopePromotion id s
  | .tokenWrite id => Sys2Proof.Machine.execTokenWrite id s
  | .xlinvCompletion id => Sys2Proof.Machine.execXlinvCompletion id s
  | .thawRetranslate id => Sys2Proof.Machine.execThawRetranslate id s
  | .copyTransferPage id => Sys2Proof.Machine.execCopyTransferPage id s
  | .copyCompletion id => Sys2Proof.Machine.execCopyCompletion id s
  | .cxlCompletion id status data => Sys2Proof.Machine.execCxlCompletion id status data s
  | .idleWake core gid => Sys2Proof.Machine.execIdleWake core gid s
  | .matrixInstructionComplete core => Sys2Proof.Machine.execMatrixInstructionComplete core s
  | .firingDispatch graph => Sys2Proof.Machine.execFiringDispatch graph s
  | .firingCommit graph firing => Sys2Proof.Machine.execFiringCommit graph firing s
  | .rebindSwap graph => Sys2Proof.Machine.execRebindSwap graph s
  | .unbindCompletion graph => Sys2Proof.Machine.execUnbindCompletion graph s
  | .handlerBankGrant core part => Sys2Proof.Machine.execHandlerBankGrant core part s
  | .groupStopComplete core gid => Sys2Proof.Machine.execGroupStopComplete core gid s
  | .timerMatch core => Sys2Proof.Machine.execTimerMatch core s
  | .retirementComplete die space => Sys2Proof.Machine.execRetirementComplete die space s
  | .quoteExpiry qid => Sys2Proof.Machine.execQuoteExpiry qid s
  | .haltTime qid => Sys2Proof.Machine.execHaltTime qid s
  | .haltEnergy qid => Sys2Proof.Machine.execHaltEnergy qid s
  | .teamPlacement => Sys2Proof.Machine.execTeamPlacement s
  | .teamRelease core slot => Sys2Proof.Machine.execTeamRelease core slot s
  | .forwardProgressSwap core => Sys2Proof.Machine.execForwardProgressSwap core s
  | .safePointTimeout core slot => Sys2Proof.Machine.execSafePointTimeout core slot s
  | .teamSave core slot => Sys2Proof.Machine.execTeamSave core slot s
  | .frequencyStep die cause => Sys2Proof.Machine.execFrequencyStep die cause s
  | .relockComplete die => Sys2Proof.Machine.execRelockComplete die s
  | .droopStretch die => Sys2Proof.Machine.execDroopStretch die s
  | .capChange die => Sys2Proof.Machine.execCapChange die s
  | .envelopeChange die live => Sys2Proof.Machine.execEnvelopeChange die live s
  | .breakEvenHold core => Sys2Proof.Machine.execBreakEvenHold core s
  | .powerGate core => Sys2Proof.Machine.execPowerGate core s
  | .coreWake core => Sys2Proof.Machine.execCoreWake core s
  | .inrushGrant die quad => Sys2Proof.Machine.execInrushGrant die quad s
  | .suspendStep => Sys2Proof.Machine.execSuspendStep s
  | .portRetrain port => Sys2Proof.Machine.execPortRetrain port s
  | .portSequenceConfirm port seq => Sys2Proof.Machine.execPortSequenceConfirm port seq s
  | .throttle die tmax => Sys2Proof.Machine.execThrottle die tmax s
  | .throttleStep die tmax => Sys2Proof.Machine.execThrottleStep die tmax s
  | .emergencySave die tmax => Sys2Proof.Machine.execEmergencySave die tmax s
  | .emergencySaveCommit die => Sys2Proof.Machine.execEmergencySaveCommit die s
  | .hardTrip die tmax => Sys2Proof.Machine.execHardTrip die tmax s
  | .boot => Sys2Proof.Machine.execBoot s
  | .scrubCompletion die => Sys2Proof.Machine.execScrubCompletion die s
  | .hostBar2Access wr addr size data => Sys2Proof.Machine.execHostBar2Access wr addr size data s
  | .dieLinkRetrain link => Sys2Proof.Machine.execDieLinkRetrain link s
  | .peerWrite port off bytes => Sys2Proof.Machine.execPeerWrite port off bytes s
  | .peerRead port off len => Sys2Proof.Machine.execPeerRead port off len s
  | .peerResponse port seq bytes => Sys2Proof.Machine.execPeerResponse port seq bytes s
  | .peerAdd port off amount => Sys2Proof.Machine.execPeerAdd port off amount s
  | .peerRequest port header payload => Sys2Proof.Machine.execPeerRequest port header payload s
  | .peerReject port seq status => Sys2Proof.Machine.execPeerReject port seq status s
  | .heartbeatWindowEnd die => Sys2Proof.Machine.execHeartbeatWindowEnd die s
  | .cmdLoad die queue => Sys2Proof.Machine.execCmdLoad die queue s
  | .cmdUnload die queue => Sys2Proof.Machine.execCmdUnload die queue s
  | .cmdQuote die queue => Sys2Proof.Machine.execCmdQuote die queue s
  | .cmdAccept die queue => Sys2Proof.Machine.execCmdAccept die queue s
  | .cmdDecline die queue => Sys2Proof.Machine.execCmdDecline die queue s
  | .cmdLaunch die queue => Sys2Proof.Machine.execCmdLaunch die queue s
  | .cmdBind die queue => Sys2Proof.Machine.execCmdBind die queue s
  | .cmdUnbind die queue => Sys2Proof.Machine.execCmdUnbind die queue s
  | .mbResume len => Sys2Proof.Machine.execMbResume len s
  | .mbAttest len => Sys2Proof.Machine.execMbAttest len s
  | .mbReload len => Sys2Proof.Machine.execMbReload len s
  | .mbLogdump len => Sys2Proof.Machine.execMbLogdump len s
  | .mbIdcert len => Sys2Proof.Machine.execMbIdcert len s
  | .faultres core value => Sys2Proof.Machine.execFaultres core value s
  | .gstopStop core gid => Sys2Proof.Machine.execGstopStop core gid s
  | .gstopRun core gid => Sys2Proof.Machine.execGstopRun core gid s
  | .spretire die space => Sys2Proof.Machine.execSpretire die space s
  | .fpwinWrite core n => Sys2Proof.Machine.execFpwinWrite core n s
  | .krlock die => Sys2Proof.Machine.execKrlock die s
  | .clkratReq die req => Sys2Proof.Machine.execClkratReq die req s
  | .suspctlGo => Sys2Proof.Machine.execSuspctlGo s
  | .scrubn die n => Sys2Proof.Machine.execScrubn die n s
  | .lqdoor die value => Sys2Proof.Machine.execLqdoor die value s
  | .wqdoor die value => Sys2Proof.Machine.execWqdoor die value s
  | .notifyApertureWrite core => Sys2Proof.Machine.execNotifyApertureWrite core s
  | .hbeat die value => Sys2Proof.Machine.execHbeat die value s
  | .ownerWrite die own => Sys2Proof.Machine.execOwnerWrite die own s
  | .registerWrite reg value => Sys2Proof.Machine.execRegisterWrite reg value s
  | .linkRetrainingEnd link ok => Sys2Proof.Machine.execLinkRetrainingEnd link ok s
  | .flitRetry port => Sys2Proof.Machine.execFlitRetry port s
  | .patrolRead arr ue => Sys2Proof.Machine.execPatrolRead arr ue s
  | .partitionStart part image => Sys2Proof.Machine.execPartitionStart part image s

end Sys2Proof.Machine
end

