-- ==== Sys2Proof/Machine/Measure.lean ====
section
/-! DEFINITION. The measurement of a running quotation over one reference tick, and what holds its grid (R329 to R331). -/
namespace Sys2Proof.Machine

/-- Whether an address lies in a pinned range. -/
def pinned (pins : List (Nat × Nat)) (a : Nat) : Bool := pins.any fun p => decide (p.1 ≤ a) && decide (a < p.1 + p.2)

/-- Whether a page meets a pinned range. -/
def pagePinned (pins : List (Nat × Nat)) (p : PageId) : Bool :=
  pins.any fun x => decide (x.1 < p.base + p.size) && decide (p.base < x.1 + x.2)

/-- The cause of a wait on a page: the caller's outside the pinned ranges, the environment's inside them. [DEDUCED, log 81] -/
def pageCause (pins : List (Nat × Nat)) (p : PageId) : Nat := if pagePinned pins p then 0x11 else 0x02

/-- The latency class of a frame for a core (R73). -/
def frameClass (c : Fin 128) (pa : Nat) : Nat :=
  if !inVault pa then 3
  else if field pa 37 2 ≠ (dieOf c).val then 2
  else if field pa 32 5 ≠ localOf c then 1
  else 0

/-- Whether an access sent outside the package is slower than EXTLAT (R331). -/
def State.slower (s : State) (c : Fin 128) (g : Grid) (since : DWord) : Bool :=
  decide (g.extlat.toNat * 4 < (s.reft - since).toNat * (s.die (dieOf c)).cur.toNat)

/-- What a fault record of a core holds work at a site for: nothing once it is resolved. -/
def State.heldByRec (s : State) (c : Fin 128) (pins : List (Nat × Nat)) (site : Word) (recId : Nat) : List Held :=
  ((s.core c).allRecs.filter fun r => r.id == recId).map fun r => ⟨pageCause pins r.page, r.code, site⟩

/-- What the requests of an issuer that is held at a site hold it for: a frozen page, a fault record, an access slower than EXTLAT, or one
farther than its queue's class. -/
def State.heldByReqs (s : State) (c : Fin 128) (uid : Nat) (g : Grid) (pins : List (Nat × Nat)) (site : Word) : List Held :=
  (s.reqs.filter fun r => r.core == c && r.uid == uid && r.open_).flatMap fun r =>
    match r.phase with
    | .frozen => [⟨0x11, 0, 0⟩]
    | .faulted rec_ => s.heldByRec c pins site rec_
    | _ =>
      let far := match r.entry with
        | some (q, _) => decide (queueClass g.kern q < frameClass c r.pa)
        | none => false
      (if r.outside && s.slower c g r.since then [⟨0x04, 0, 0⟩] else []) ++ (if far then [⟨0x05, 0, 0⟩] else [])

/-- What a copy holds for those that wait for it: a frozen page, a fault record that it has stopped on, or a completion slower than EXTLAT. -/
def State.heldByCopy (s : State) (k : Copy) (g : Grid) (pins : List (Nat × Nat)) : List Held :=
  match k.phase with
  | .stopped rec_ _ => s.heldByRec k.core pins k.site rec_
  | .atPeer since => if s.slower k.core g since then [⟨0x04, 0, 0⟩] else []
  | _ => if k.heldAt.isSome then [⟨0x11, 0, 0⟩] else []

/-- What the copies that a wait is for hold it for: those behind a token that it waits for, and a bulk copy of its space that will add to
the counter. -/
def State.heldByCopies (s : State) (c : Fin 128) (uid : Nat) (w : Option Wait) (g : Grid) (pins : List (Nat × Nat)) : List Held :=
  let waited (k : Copy) : Bool := match w.map Wait.on with
    | some (.token regs) => s.tokens.any fun t => t.core == c && t.uid == uid && regs.contains t.reg && (t.copies s).any fun x => x.id == k.id
    | some (.counter va _) => k.space == g.space && k.job.total != 0 && k.job.finalVa 2 == va
    | _ => false
  (s.copies.filter waited).flatMap fun k => s.heldByCopy k g pins

/-- What replay entries of a core hold an issuer for that waits for them (R108). [DEDUCED, log 81] -/
def State.heldByReplays (s : State) (c : Fin 128) (waits : Replay → Bool) (pins : List (Nat × Nat)) : List Held :=
  let k := s.core c
  (k.replay.filter waits).map fun e =>
    ⟨pageCause pins e.page, (k.allRecs.find? fun r => r.id == e.recId).elim 0x07 FaultRec.code, e.site⟩

/-- Whether a group waits for a replay entry of its core (R108): a release that the entry was made before, whoever made it, or an instruction
that waits for the group's queue entry to which the replayed store belongs. -/
def Group.waitsFor (g : Group) (e : Replay) : Bool :=
  (g.held.any fun mark => decide (e.id < mark))
    || (e.uid == g.uid && (e.entry.any fun x => match g.wait.map Wait.on with
      | some (.queue q _) => q == x.1
      | some _ => false
      | none => g.held.isNone && ((g.q.get x.1).head?).any QEntry.incomplete))

/-- What the fault records and the replay entries of a group hold it for. -/
def State.heldByPages (s : State) (c : Fin 128) (g : Group) (pins : List (Nat × Nat)) : List Held :=
  let parked := ((s.core c).allRecs.filter fun r => r.waiters.any fun w => w.1 == g.uid).map fun r =>
    let m := ((r.waiters.find? fun w => w.1 == g.uid).elim 0 Prod.snd)
    (⟨pageCause pins r.page, r.code, g.lpc.get m.first⟩ : Held)
  parked ++ s.heldByReplays c g.waitsFor pins

/-- The cause that a delivered fault is (R331): one of an address lies outside the pinned ranges or inside them. [DEDUCED, log 81] -/
def faultCause (pins : List (Nat × Nat)) (code : Byte) (va : DWord) : Nat :=
  let inside := pinned pins va.toNat
  if code = 0x11 then 0x20
  else if code = 0x10 then 0x03
  else if code = 0x07 then (if inside then 0x11 else 0x02)
  else if code = 0x08 ∧ inside = false then 0x02
  else 0x01

/-- What holds a group. -/
def State.heldGroup (s : State) (c gid : Fin 128) (g : Group) (grid : Grid) (pins : List (Nat × Nat)) : List Held :=
  let handler := if g.hmode then
      (match s.bankOf c gid g with
        | some b => if b.code = 0 then [] else [(⟨faultCause pins b.code b.va, b.code, b.site⟩ : Held)]
        | none => [])
    else []
  let pending := g.dels.filterMap fun d =>
    if d.kind = .fault then some (⟨faultCause pins d.code d.va, d.code, d.site⟩ : Held) else none
  let stopped := match g.stop with
    | .requested true | .stopped true _ => [(⟨0x11, 0, 0⟩ : Held)]
    | _ => []
  let short := if (g.polled && g.short) || (g.extra != 0 && g.extra == g.stall) then [(⟨0x06, 0, 0⟩ : Held)] else []
  let site := (g.issueAddr).getD 0
  handler ++ pending ++ stopped ++ short
    ++ (if g.out then s.heldByPages c g pins else [])
    ++ (if g.polled && !g.out then
        s.heldByPages c g pins ++ s.heldByReqs c g.uid grid pins site ++ s.heldByCopies c g.uid g.wait grid pins
      else [])

/-- What holds a stream. -/
def State.heldStream (s : State) (c : Fin 128) (st : Stream) (grid : Grid) (pins : List (Nat × Nat)) : List Held :=
  if st.polled then
    s.heldByReqs c st.uid grid pins st.pc ++ s.heldByCopies c st.uid st.wait grid pins
      ++ s.heldByReplays c (fun e => st.held.any fun mark => decide (e.id < mark)) pins
  else []

/-- The grids that run under a quotation. -/
def State.gridsUnder (s : State) (q : Quote) : List Grid := s.grids.filter fun g => g.qid == some q.qid

/-- Everything that holds the work of a quotation now (R331). A relock of a throttling die, its emergency save, and the time that it runs
below the floor are thermal (R378, R379). [DEDUCED, log 81] -/
def State.heldCauses (s : State) (q : Quote) : List Held :=
  let grids := s.gridsUnder q
  let cores := allCores.filter fun c => q.cores.getLsbD c.val
  let gridAt (c : Fin 128) (slot : Fin 16) : Option Grid := (s.team c slot).bind fun t => grids.find? fun g => g.id == t.grid
  let groups := cores.flatMap fun c => (List.finRange 128).flatMap fun i => match s.group c i with
    | none => []
    | some g => (gridAt c g.team).elim [] fun x => s.heldGroup c i g x q.pins
  let streams := cores.flatMap fun c => [false, true].flatMap fun copy => match (s.core c).stream copy with
    | none => []
    | some st => (gridAt c st.team).elim [] fun x => s.heldStream c st x q.pins
  let gone (g : Graph) : Bool := g.plan.qid == some q.qid && s.isRetiring (s.die g.die).part g.space
  let retired := if grids.any s.gridRetiring || s.graphs.any gone then [(⟨0x03, 0x10, 0⟩ : Held)] else []
  let swapping := s.graphs.any fun g => g.plan.qid == some q.qid && g.swap.isSome && g.entry == 0
  let dies := allDies.filter fun d => cores.any fun c => dieOf c == d
  let envelope := if dies.any fun d => (s.die d).live != 0 then [(⟨0x10, 0, 0⟩ : Held)] else []
  let hot (d : Fin 4) : Bool := ((s.die d).throt && (s.die d).relock.isSome) || (s.die d).esave || decide ((s.die d).cur.toNat < 50)
  let thermal := (dies.filter hot).map fun d => (⟨if (s.die d).coolantOut then 0x12 else 0x21, 0, 0⟩ : Held)
  let saved := (s.saved.filter fun x => grids.any fun g => g.id == x.grid).filterMap fun x =>
    x.hot.map fun d => (⟨if (s.die d).coolantOut then 0x12 else 0x21, 0, 0⟩ : Held)
  groups ++ streams ++ retired ++ (if swapping then [⟨0x07, 0, 0⟩] else []) ++ envelope ++ thermal ++ saved

/-- A quotation one tick further on: its measures, and the amounts of the party that holds its grid, the environment before the
caller (R331). [DEDUCED, log 81] -/
def Quote.measure (q : Quote) (held : List Held) (energy : Nat) : Quote :=
  let env := held.filter fun h => causeOf 2 h.cause
  let call := held.filter fun h => causeOf 1 h.cause
  let mine := if env.isEmpty then call else env
  let causes := ((mine.map Held.cause).eraseDups).foldl (fun bs c => blame bs ⟨c, 0, 0⟩ 10 energy) q.causes
  let blames := (mine.eraseDups.filter fun h => h.code != 0).foldl (fun bs h => blame bs h 10 energy) q.blames
  { q with
    measured := q.measured + 10
    measuredE := q.measuredE + energy
    envT := if env.isEmpty then q.envT else q.envT + 10
    envE := if env.isEmpty then q.envE else q.envE + energy
    callT := if env.isEmpty && !call.isEmpty then q.callT + 10 else q.callT
    callE := if env.isEmpty && !call.isEmpty then q.callE + energy else q.callE
    devCause := ((held.filter fun h => causeOf 3 h.cause).getLast?).elim q.devCause Held.cause
    causes := causes
    blames := blames }

/-- Whether a quotation is measured now: it runs, is not paused, and its acceptance's swap-out is done (R328 to R330). -/
def Quote.counts (q : Quote) : Bool := q.state == .running && !q.paused && q.pend.isNone

/-- The package's energy of a tick added to the averages of R364: those of the last whole millisecond and second. [DESIGN CHOICE, log 84] -/
def Pkg.addEnergy (p : Pkg) (reft : DWord) (e : Nat) : Pkg :=
  let p := { p with msEnergy := p.msEnergy + e, sEnergy := p.sEnergy + e }
  let p := if reft.toNat % 100000 = 0 then { p with msLast := p.msEnergy, msEnergy := 0 } else p
  if reft.toNat % 100000000 = 0 then { p with sLast := p.sEnergy, sEnergy := 0 } else p

/-- Whether a group of a core has issued in the last tick, which at the floor clock holds 13 cycles at most (R361). -/
def Core.issuedLately (k : Core) : Bool := decide (k.idleCount < 13)

/-- The most energy in nJ that a core's domains take in a tick: at the floor clock or below, with no stream, engine or copy at work, the
static 0.9 W, and 33 nJ beside it when groups issue, above what R49 charges for the most that can issue. None for any other core. [DESIGN CHOICE, log 13] -/
def State.coreAllowance (s : State) (c : Fin 128) : Option Nat :=
  let k := s.core c
  if 50 < (s.die (dieOf c)).cur.toNat ∨ k.matrixStream.isSome ∨ k.copyStream.isSome ∨ k.engine.isSome
      ∨ (s.copies.any fun y => y.core == c && y.phase != .done) then none
  else some (if k.issuedLately then 42 else 9)

/-- The energy of a core's domains in the tick that draw `n` names. [DESIGN CHOICE, log 13] -/
def State.coreEnergy (s : State) (n : Nat) (c : Fin 128) : Nat :=
  match s.coreAllowance c with
  | some m => min (Config.coreEnergy n c.val) m
  | none => Config.coreEnergy n c.val

/-- The request energy of a quotation's grid in the tick that draw `n` names: where its cores have an allowance and no access outside the
package, no more than 1 nJ for each request under way, and 2 nJ for each lane of a core whose groups have issued. [DESIGN CHOICE, log 13] -/
def State.requestEnergy (s : State) (n : Nat) (q : Quote) : Nat :=
  let cores := allCores.filter fun c => q.cores.getLsbD c.val
  let mine := s.reqs.filter fun r => r.open_ && cores.contains r.core
  let lanes (c : Fin 128) : Nat := if (s.core c).issuedLately then (s.core c).threadsUsed else 0
  if (cores.any fun c => (s.coreAllowance c).isNone) || mine.any Req.outside then Config.requestEnergy n q.qid.toNat
  else min (Config.requestEnergy n q.qid.toNat) (mine.length + 2 * (cores.map lanes).sum)

/-- The energy of one tick added to the counters and the running quotations (R329, R361). `n` numbers the tick's draw. [DEDUCED, log 81] -/
def State.meter (s : State) (n : Nat) : State :=
  let core := s.coreEnergy n
  let ofDie (d : Fin 4) : Nat := Config.dieEnergy n d.val + ((coresOf d).map core).sum
  let measured (q : Quote) : Quote :=
    if q.counts && s.pkg.suspPhase == 0 then
      let cores := ((allCores.filter fun c => q.cores.getLsbD c.val).map core).sum
      q.measure (s.heldCauses q) (cores + s.requestEnergy n q)
    else q
  { s with
    quotes := s.quotes.map measured
    cores := Tab.ofFn fun c => let k := s.core c; { k with ecore := k.ecore + BitVec.ofNat 64 (core c) }
    dies := Tab.ofFn fun d => let x := s.die d; { x with ecnt := x.ecnt + BitVec.ofNat 64 (ofDie d) }
    pkg := s.pkg.addEnergy s.reft ((allDies.map ofDie).sum) }

end Sys2Proof.Machine
end

