-- ==== Sys2Proof/Machine/Schedule.lean ====
section
/-! DEFINITION. Time: one core cycle of a die and one tick of the reference timer; how a launch queue's entry names its command;
and what comes next when the agenda is empty. -/
namespace Sys2Proof.Machine

/-! ### One core cycle -/

/-- A group one cycle further on: its STALL, the results in flight, and the deadlines that run, none while system software asks it to stop
or has stopped it (R40, R299, R301). [DEDUCED, log 80] -/
def Group.cycle (g : Group) : Group :=
  let runs := match g.stop with
    | .none | .atSafePoint => true
    | .requested false => g.hmode
    | _ => false
  { g with
    stall := g.stall - 1
    extra := min g.extra (g.stall - 1)
    short := false
    busy := (g.busy.map fun b => { b with left := b.left - 1 }).filter fun b => !b.over
    polled := false
    wait := g.wait.map fun w => if runs then { w with elapsed := w.elapsed + 1 } else w
    brm := g.brm.map fun b => if runs then { b with elapsed := b.elapsed + 1 } else b }

/-- A stream one cycle further on. -/
def Stream.cycle (st : Stream) : Stream :=
  { st with
    stall := st.stall - 1
    polled := false
    wait := st.wait.map fun w => if st.stopped then w else { w with elapsed := w.elapsed + 1 } }

/-- The deadlines and the intervals of a core one cycle further on (R43, R255, R341, R344, R369). -/
def Core.cycle (k : Core) : Core :=
  { k with
    groups := k.groups.map fun g => g.map Group.cycle
    matrixStream := k.matrixStream.map Stream.cycle
    copyStream := k.copyStream.map Stream.cycle
    engine := k.engine.map fun e => (e.1, e.2 - 1)
    teams := k.teams.map fun t => t.map fun t => { t with stop := t.stop.map fun x => { x with elapsed := x.elapsed + 1 } }
    ring := k.ring.map fun r => { r with vecUsed := false, nonUsed := false }
    idleCount := k.idleCount + 1 }

/-- A core clock-gates when it has nothing to do (R368). [DEDUCED, log 79] -/
def State.gateQuiet (s : State) (c : Fin 128) : State :=
  if (s.core c).power = .active ∧ s.coreWakes c = false then s.modCore c fun k => { k with power := .clockGated s.reft.toNat }
  else s

/-- Whether a core takes its die's clock. -/
def Core.runs (k : Core) : Bool := k.power == .active

/-- A gated core's deadline that has expired is latched as a wake event (R369, R371). -/
def State.latchDeadline (s : State) (c : Fin 128) : State :=
  if (s.core c).power != .active && s.deadlineDue c then s.wakeEvent c .deadline else s

/-- One core cycle of a die, if it has one left in this tick: every deadline of its cores counts, a gated core's too (R369), and
CYC counts while some core takes the clock (R362). [DEDUCED, log 79; DEDUCED, log 87] -/
def State.cycle (s : State) (d : Fin 4) : State :=
  if s.clocked d = false ∨ (s.die d).cycLeft = 0 then s
  else
    let active := (coresOf d).any fun c => (s.core c).runs
    let s := (coresOf d).foldl (fun s c => ((s.gateQuiet c).modCore c Core.cycle).latchDeadline c) s
    s.modDie d fun x => { x with cycLeft := x.cycLeft - 1, cyc := if active then x.cyc + 1 else x.cyc }

/-! ### One tick -/

/-- The wear that a tick above sustained voltage adds at a temperature, in 1,600ths of a unit, which is a microsecond at 85 °C: the weight
doubles for every 10 °C above and halves for every 10 °C below, down to 1/16 (R365). [DESIGN CHOICE, log 13] -/
def wearWeight (temp : Nat) : Nat := if 85 ≤ temp then 16 * 2 ^ ((temp - 85) / 10) else 16 / 2 ^ min ((85 - temp) / 10) 4

/-- A die at the start of a tick: the core cycles that the tick holds, CUR / 4 of them, the quarters carried over (R361, R363),
and the wear of its domains (R365). Cycles stretched a microsecond ago no longer count. [DEDUCED, log 87] -/
def Die.tick (x : Die) (clocked : Bool) (now : DWord) (wear : Fin 12 → Nat) : Die :=
  let q := x.quarter + x.cur.toNat
  let part (i : Fin 12) : Nat := x.wearPart.get i + wear i
  { x with
    cycLeft := if clocked then q / 4 else 0
    quarter := if clocked then q % 4 else x.quarter
    wear := Tab.ofFn fun i => x.wear.get i + BitVec.ofNat 48 (part i / 1600)
    wearPart := Tab.ofFn fun i => part i % 1600
    stretches := x.stretches.filter fun t => decide ((now - t).toNat < 100) }

/-- A ramping core one tick further on (R370). -/
def State.rampTick (s : State) (c : Fin 128) : State :=
  match (s.core c).power with
  | .ramping n => if n ≤ 1 then s.endRamp c else s.modCore c fun k => { k with power := .ramping (n - 1) }
  | _ => s

/-- The events that a tick makes due (R296, R326, R329, R398). [DESIGN CHOICE, log 6] -/
def State.dueAt (s : State) : List Event :=
  (allCores.filter fun c => s.reft == (s.core c).timerm).map Event.timerMatch
    ++ (s.quotes.filter s.expired).map (fun q => .quoteExpiry q.qid)
    ++ (s.quotes.filter fun q => q.counts && q.clause.getLsbD 1 && decide (q.time < q.measured)).map (fun q => .haltTime q.qid)
    ++ (s.quotes.filter fun q => q.counts && q.clause.getLsbD 2 && decide (q.energy < q.measuredE)).map (fun q => .haltEnergy q.qid)
    ++ (if s.pkg.mbstate == .running && s.reft.toNat % 100000 == 0 then allDies.map Event.heartbeatWindowEnd else [])

/-- One tick of the reference timer, 10 ns (R362). With the package's power on, energy, wear and measurements go on, and what the
tick makes due comes next. [DESIGN CHOICE, log 13] -/
def State.tick (s : State) : State :=
  let s : State := { s with reft := s.reft + 1 }
  if s.pkg.mbstate = .suspended then s
  else
    let (n, s) := s.draw
    let s := s.meter n
    let s : State := { s with
      dies := Tab.ofFn fun d => (s.die d).tick (s.clocked d) s.reft fun i =>
        if Config.domainHigh n (12 * d.val + i.val) then wearWeight (Config.domainTemp n (12 * d.val + i.val)) else 0 }
    let s := allCores.foldl State.rampTick s
    { s with agenda := s.dueAt.map Action.event ++ s.agenda }

/-! ### Commands -/

/-- The command at the head of a launch queue carried out, by its operation code; a reserved one is refused (R317). -/
def State.takeCommand (s : State) (d : Fin 4) (q : Byte) : Host.Outcome State Fault Refusal :=
  match (s.commandOf d q.toNat).opc with
  | 1 => execCmdLoad d q s
  | 2 => execCmdUnload d q s
  | 3 => execCmdQuote d q s
  | 4 => execCmdAccept d q s
  | 5 => execCmdDecline d q s
  | 6 => execCmdLaunch d q s
  | 7 => execCmdBind d q s
  | 8 => execCmdUnbind d q s
  | _ => .next (s.refuseCommand d q)

/-! ### Events -/

/-- An event that the device makes due, carried out: the meaning of its row of the table. -/
def Event.run (e : Event) (s : State) : Host.Outcome State Fault Refusal :=
  match e with
  | .boot => execBoot s
  | .relockComplete d => execRelockComplete d s
  | .capChange d => execCapChange d s
  | .frequencyStep d cause => execFrequencyStep d cause s
  | .throttleStep d => execThrottleStep d (s.die d).tmax s
  | .emergencySaveCommit d => execEmergencySaveCommit d s
  | .tlbTranslate n => execTlbTranslate n s
  | .scrubCompletion d => execScrubCompletion d s
  | .inrushGrant d q => execInrushGrant d q s
  | .accessPerform n => execAccessPerform n s
  | .remoteScopePromotion n => execRemoteScopePromotion n s
  | .responseArrival n => execResponseArrival n s
  | .thawRetranslate n => execThawRetranslate n s
  | .copyTransferPage n => execCopyTransferPage n s
  | .copyCompletion n => execCopyCompletion n s
  | .tokenWrite n => execTokenWrite n s
  | .xlinvCompletion n => execXlinvCompletion n s
  | .retirementComplete d space => execRetirementComplete d space s
  | .coreWake c => execCoreWake c s
  | .breakEvenHold c => execBreakEvenHold c s
  | .powerGate c => execPowerGate c s
  | .matrixInstructionComplete c => execMatrixInstructionComplete c s
  | .waitTimeout who => execWaitTimeout who s
  | .groupStopComplete c g => execGroupStopComplete c g s
  | .idleWake c g => execIdleWake c g s
  | .handlerBankGrant c p => execHandlerBankGrant c p s
  | .coreReserveLoan c => execCoreReserveLoan c s
  | .teamRelease c t => execTeamRelease c t s
  | .safePointTimeout c t => execSafePointTimeout c t s
  | .teamSave c t => execTeamSave c t s
  | .brmWindowExpiry c t => execBrmWindowExpiry c t s
  | .forwardProgressSwap c => execForwardProgressSwap c s
  | .firingCommit g f => execFiringCommit g f s
  | .rebindSwap g => execRebindSwap g s
  | .unbindCompletion g => execUnbindCompletion g s
  | .firingDispatch g => execFiringDispatch g s
  | .suspendStep => execSuspendStep s
  | .teamPlacement => execTeamPlacement s
  | .timerMatch c => execTimerMatch c s
  | .quoteExpiry q => execQuoteExpiry q s
  | .haltTime q => execHaltTime q s
  | .haltEnergy q => execHaltEnergy q s
  | .heartbeatWindowEnd d => execHeartbeatWindowEnd d s
  | .scrubWrite d => .next (s.scrubLine d)
  | .workDoor d => .next (s.openDoor d)
  | .mailbox => .next s.mbRun

/-! ### What comes next -/

/-- Whether an outcome is another state. -/
def State.changes (s : State) (o : Host.Outcome State Fault Refusal) : Bool :=
  match o with
  | .next t => t != s
  | _ => false

/-- Whether an event changes the machine. [DESIGN CHOICE, log 6] -/
def State.changedBy (s : State) (e : Event) : Bool := State.changes { s with cur := none } (e.run { s with cur := none })

/-- The events of a request. -/
def Req.events (r : Req) : List Event :=
  match r.phase with
  | .frozen => [.thawRetranslate r.id]
  | .sent => [.accessPerform r.id, .remoteScopePromotion r.id]
  | .done _ _ => [.responseArrival r.id]
  | .faulted _ | .away => []

/-- The events of a copy. -/
def Copy.events (k : Copy) : List Event :=
  match k.phase with
  | .moving => [.copyTransferPage k.id]
  | .status | .counter | .done => [.copyCompletion k.id]
  | .stopped _ _ | .atPeer _ => []

/-- The events of a bound graph. -/
def Graph.events (g : Graph) : List Event :=
  (g.firings.filter Firing.done).map (fun f => .firingCommit g.id f.id)
    ++ [.rebindSwap g.id, .unbindCompletion g.id, .firingDispatch g.id]

/-- The cause of a die's next step: an acceptance, the ceiling or a power limit, or a request (R363, R364). [DESIGN CHOICE, log 84] -/
def State.stepCause (s : State) (d : Fin 4) : Fin 4 :=
  if s.dieHeld d then 3 else if s.pkg.overPower || decide ((s.die d).cap.toNat < (s.die d).req.toNat) then 2 else 0

/-- The events of a die. -/
def State.dieEvents (s : State) (d : Fin 4) : List Event :=
  let x := s.die d
  (if x.relock.isSome then [.relockComplete d] else [])
    ++ (if capOf x.wear < x.cap.toNat then [.capChange d] else [])
    ++ (if s.mayStep d (s.target d) then [.frequencyStep d (s.stepCause d)] else [])
    ++ (if x.throt then [.throttleStep d] else [])
    ++ (if x.esave then [.emergencySaveCommit d] else [])
    ++ x.xlreqs.map (fun r => .tlbTranslate r.id)
    ++ (if x.scrubs.isEmpty then [] else [.scrubWrite d, .scrubCompletion d])
    ++ (if x.doors.isEmpty then [] else [.workDoor d])
    ++ (List.finRange 4).map (fun q => .inrushGrant d q)

/-- The events of a group. -/
def State.groupEvents (_s : State) (c gid : Fin 128) (g : Group) : List Event :=
  (match g.stop with
      | .requested _ => [.groupStopComplete c gid]
      | _ => [])
    ++ (if g.idle && g.woken then [.idleWake c gid] else [])
    ++ (if g.dels.isEmpty then [] else [.handlerBankGrant c g.part])
    ++ (if g.enlarge != 0 then [.coreReserveLoan c] else [])

/-- The events of a team's half. -/
def Team.events (t : Team) (c : Fin 128) (slot : Fin 16) : List Event :=
  (if t.exited then [.teamRelease c slot] else [])
    ++ (if t.stop.isSome then [.safePointTimeout c slot, .teamSave c slot] else [])
    ++ [.brmWindowExpiry c slot]

/-- The events of a core. -/
def State.coreEvents (s : State) (c : Fin 128) : List Event :=
  let k := s.core c
  (match k.power with
    | .active | .ramping _ | .waking _ => []
    | .clockGated _ => [.coreWake c, .breakEvenHold c]
    | .held since => .coreWake c :: (if since < s.reft.toNat then [.powerGate c] else [])
    | .gated => [.coreWake c])
    ++ (match k.engine with
      | some (_, 0) => [.matrixInstructionComplete c]
      | _ => [])
    ++ ((List.finRange 128).flatMap fun i => (k.groups.get i).elim [] (s.groupEvents c i))
    ++ ((List.finRange 16).flatMap fun i => (k.teams.get i).elim [] fun t => t.events c i)

/-- The check of a core's idle count (R341): it comes after the placements of its cycle. -/
def State.swapEvents (s : State) (c : Fin 128) : List Event :=
  let k := s.core c
  if k.fpwin != 0 && decide ((k.fpwin.toNat : Int) ≤ k.idleCount) && !k.teamList.isEmpty then [.forwardProgressSwap c] else []

/-- The ends of a core's waits: they come after every issue of their cycle, for a wait satisfied in the cycle in which its bound
expires is satisfied (R40). [DESIGN CHOICE, log 5] -/
def State.timeouts (s : State) (c : Fin 128) : List Event :=
  let k := s.core c
  ((List.finRange 128).filter fun i => ((k.groups.get i).bind Group.wait).isSome).map (fun i => .waitTimeout (.group c i))
    ++ ([false, true].filter fun copy => ((k.stream copy).bind Stream.wait).isSome).map (fun copy => .waitTimeout (.stream c copy))

/-- The events that may happen now, in the order in which the model takes them. [DESIGN CHOICE, log 2; DESIGN CHOICE, log 6] -/
def State.events (s : State) : List Event :=
  allDies.flatMap s.dieEvents ++ s.reqs.flatMap Req.events ++ s.copies.flatMap Copy.events
    ++ s.tokens.map (fun t => .tokenWrite t.id) ++ s.late.map (fun w => .thawRetranslate w.id)
    ++ s.xlinvs.map (fun x => .xlinvCompletion x.id)
    ++ s.retiring.filterMap (fun r => (s.diesOf r.part).head?.map fun d => .retirementComplete d r.space)
    ++ allCores.flatMap s.coreEvents ++ s.graphs.flatMap Graph.events
    ++ (if s.pkg.suspPhase = 0 then [] else [.suspendStep]) ++ (if s.waiting.isEmpty then [] else [.teamPlacement])
    ++ allCores.flatMap s.swapEvents

/-- The command that a die's front end takes next, if taking it changes the machine. -/
def State.nextCommand (s : State) : Option Action :=
  allDies.findSome? fun d => (s.nextQueue d).bind fun q =>
    let q : Byte := BitVec.ofNat 8 q
    if State.changes { s with cur := none } (State.takeCommand { s with cur := none } d q) then some (.command d q) else none

/-! ### Issue (R339) -/

/-- The groups of a partition that may be offered a slot, from the first at or behind a pointer round the ring. -/
def State.ringFrom (s : State) (c : Fin 128) (p : Fin 4) (ptr : Nat × Nat) : List (Fin 128) :=
  let place (a : Nat × Nat) : Nat := a.1 * 2 ^ 64 + a.2
  let all := (List.finRange 128).filterMap fun i => match s.group c i with
    | some g => if g.part = p ∧ s.groupReady c i ∧ (s.ctxOf c i).isSome then some (i, place g.age) else none
    | none => none
  let sorted := sortBy Prod.snd all
  ((sorted.filter fun x => decide (place ptr ≤ x.2)) ++ sorted.filter fun x => decide (x.2 < place ptr)).map Prod.fst

/-- Whether the next instruction of a group takes the vector slot; none when the issue comes to no instruction. -/
def State.nextIsVector (s : State) (c gid : Fin 128) : Option Bool :=
  match s.prepare (.group c gid) with
  | .run i _ => some (vectorClass i)
  | .idle _ => none

/-- The groups that the free slots of a partition go to: one for each class of instruction. -/
def State.slotPicks (s : State) (c : Fin 128) (p : Fin 4) : List (Fin 128) :=
  let r := (s.core c).ring.get p
  let pick (vector used : Bool) (ptr : Nat × Nat) : List (Fin 128) :=
    if used then []
    else ((s.ringFrom c p ptr).find? fun i => match s.nextIsVector c i with
      | some v => v == vector
      | none => !vector).toList
  pick true r.vecUsed r.vec ++ pick false r.nonUsed r.non

/-- Whether an issue of a group offered a slot now would take it: its instruction issues, rather than being held. -/
def State.issuesNow (s : State) (c gid : Fin 128) : Bool :=
  match s.group c gid, s.prepare (.group c gid) with
  | some g, .run i t =>
    match exec i t with
    | .next u => u.hasIssued c gid g.uid
    | _ => true
  | _, _ => false

/-- The group that issues next on a core: the lowest number among those that the free slots go to, where a group of them that could only
find that it must wait finds so first, for a slot that is not taken goes on round its ring (R237, R240, R255, R339). -/
def State.groupPick (s : State) (c : Fin 128) : Option Agent :=
  if (s.core c).runs && !(s.core c).resident.isEmpty then
    let picks := (List.finRange 128).filter ((List.finRange 4).flatMap (s.slotPicks c)).contains
    ((picks.find? fun i => !s.issuesNow c i).or picks.head?).map (Agent.group c)
  else none

/-- A stream of a core that may issue, with an instruction for the matrix engine or with another one. -/
def State.streamPick (s : State) (engine copy : Bool) (c : Fin 128) : Option Agent :=
  if (s.core c).runs && s.streamReady c copy then
    let takes := match s.prepare (.stream c copy) with
      | .run i _ => engineClass i
      | .idle _ => false
    if takes == engine then some (.stream c copy) else none
  else none

/-- The agent that issues next. The issues of one cycle on a pair of cores stand in the order in which their arrivals and their flags
take effect: the groups of the even core, those of the odd core, each in ascending group number, then the matrix streams and the copy
streams (R237, R240, R271); but what a stream gives to the matrix engine comes before what the groups give it (R255). [DESIGN CHOICE, log 2] -/
def State.nextIssuer (s : State) : Option Agent :=
  allCores.findSome? fun c =>
    if c.val % 2 = 0 then
      let pair := [c, partner c]
      (pair.findSome? (s.streamPick true false)).orElse fun _ =>
      (pair.findSome? s.groupPick).orElse fun _ =>
      (pair.findSome? (s.streamPick false false)).orElse fun _ => pair.findSome? (s.streamPick false true)
    else none

/-- The action that comes next when the agenda is empty: the start of the device, an event, a command, an issue, the end of
a wait, a cycle of a die that has one left in this tick, and then the next tick. A mailbox command comes before them all. In the safe state, and while suspended, only time passes. [DESIGN CHOICE, log 2; DEDUCED, log 49] -/
def State.nextAction (s : State) : Action :=
  match s.pkg.mbstate with
  | .booting => .event .boot
  | .safe | .suspended => if s.pkg.cmd.isSome then .event .mailbox else .tick
  | .running =>
    if s.pkg.cmd.isSome then .event .mailbox else
    match s.events.find? s.changedBy with
    | some e => .event e
    | none =>
      match s.nextCommand with
      | some a => a
      | none =>
        match s.nextIssuer with
        | some who => .issue who
        | none =>
          match (allCores.flatMap s.timeouts).find? s.changedBy with
          | some e => .event e
          | none =>
            match allDies.find? fun d => s.clocked d && (s.die d).cycLeft != 0 with
            | some d => .cycle d
            | none => .tick

end Sys2Proof.Machine
end

