-- ==== Sys2Proof/Machine/Step.lean ====
section
/-! DEFINITION. One step: the next action of the agenda, or the one that the schedule names, is carried out. -/
namespace Sys2Proof.Machine

/-- The issue of an agent: its instruction is fetched, decoded and executed, and the issue slot it took is marked. -/
def stepIssue (who : Agent) (s : State) : Host.Outcome State Fault Refusal :=
  match s.prepare who with
  | .idle s' => .next s'
  | .run i s' =>
    match exec i s' with
    | .next t => .next (State.slotTaken s t who i)
    | .fault f => .fault f
    | .refused r => .refused r

/-- An event of the table happens; an encoded instruction is no event. [DESIGN CHOICE, log 28] -/
def stepEvent (i : Instr) (s : State) : Host.Outcome State Fault Refusal :=
  if (encode i).isSome then .next s else exec i { s with cur := none }

/-- One action; an upset is a soft error that strikes a word of an array (R390). [DESIGN CHOICE, log 12] -/
def perform (a : Action) (s : State) : Host.Outcome State Fault Refusal :=
  match a with
  | .issue who => stepIssue who s
  | .happen i => stepEvent i s
  | .event e => e.run { s with cur := none }
  | .command d q => State.takeCommand { s with cur := none } d q
  | .cycle d => .next (s.cycle d)
  | .tick => .next s.tick
  | .upset m => .next { s with marks := { m with inj := false } :: s.marks }

/-- The state that an action leaves: the entries of the spaces being retired still read RET = 1 (R314). [DEDUCED, log 78] -/
def rested (o : Host.Outcome State Fault Refusal) : Host.Outcome State Fault Refusal :=
  match o with
  | .next t => .next t.keepRets
  | .fault f => .fault f
  | .refused r => .refused r

/-- One step: the first action of the agenda, or, when it is empty, the action that the schedule names. [DESIGN CHOICE, log 2] -/
def step (s : State) : Host.Outcome State Fault Refusal :=
  match s.agenda with
  | a :: rest => rested (perform a { s with agenda := rest })
  | [] => rested (perform s.nextAction s)

/-- The state in which the instruction of `nbits` bits `w` is fetched and executed next: its bytes stand at the code base of
a group placed on core 0, whose issue is the next action. [DESIGN CHOICE, log 3] -/
def State.withFetchWord (s : State) (nbits w : Nat) : State :=
  s.placeCode (if nbits ≤ 16 then (Code.mk false w).bytes else (Code.mk true w).bytes)

end Sys2Proof.Machine
end

