-- ==== Sys2Proof/Safety.lean ====
section
/-! DEFINITION. What counts as a safe run: the invariants that claims name, and the words in which they say when an agent issues
an instruction and what the instruction leaves alone. -/
namespace Sys2Proof.Machine

/-! ### Invariants -/

/-- Device memory is in its canonical form. -/
def State.memWf (s : State) : Prop := s.mem.wf = true

/-- A run's next states. -/
def Steps (s t : State) : Prop := step s = .next t

/-! ### An issue -/

/-- A group issues and nothing holds its instruction: `x` is what it sees, none of the uniform registers `toks` holds a pending
token (R109), none of the registers `uses` is a result still inside its producer's latency (R43), and the rows of its lane registers
hold no error and await none (R390, R392). -/
structure State.Issues (s : State) (x : Ctx) (toks : List (Fin 128)) (uses : List Nat) : Prop where
  cur : s.cur = some (.group x.c x.gid)
  ctx : s.ctxOf x.c x.gid = some x
  toks : ∀ r ∈ toks, x.g.tok.getLsbD r.val = false
  uses : ∀ b ∈ x.g.busy, b.reg ∉ uses
  sound : s.regsSound x.c x.t = true

/-- A stream issues and none of the uniform registers `toks` holds a pending token (R109, R269). -/
structure State.StreamIssues (s : State) (y : SCtx) (toks : List (Fin 128)) : Prop where
  cur : s.cur = some (.stream y.c y.copy)
  ctx : s.sctx = some y
  toks : ∀ r ∈ toks, y.st.tok.getLsbD r.val = false

/-- Where the lanes stand once those of ACT have gone to `next`. -/
def Ctx.lpcAfter (x : Ctx) (next : Fin 64 → Word) : LaneVec := Tab.ofFn fun p => if x.act.has p then next p else x.g.lpc.get p

/-- The length of the section that a lane of a group runs in: the handler's in handler mode, else the kernel's. -/
def State.laneLen (s : State) (c gid : Fin 128) (g : Group) (p : Fin 64) : Nat :=
  if g.hlanes.has p then s.handLen c gid g else s.kernLen c g

/-- No running lane but one that waits for a delivery stands past its section's last instruction once ACT has gone to `next`, so none
ends (R23). -/
def State.Inside (s : State) (x : Ctx) (next : Fin 64 → Word) : Prop :=
  ∀ p, x.g.lst.get p = .running → (x.g.dels.any fun d => d.lanes.has p) = false →
    ((x.lpcAfter next).get p).toNat ≠ s.laneLen x.c x.gid x.g p

/-- The state after an instruction of a group that leaves `g` in its place and changes nothing else in the machine, but for the
core's idle count (R341) and a reserve returned (R62). -/
def State.Becomes (s : State) (x : Ctx) (g : Group) (t : State) : Prop :=
  ∃ l, t = s.setCore x.c { s.core x.c with
    groups := (s.core x.c).groups.set x.gid (some g), loan := l, idleCount := -1 }

/-- `g` is the group `h` after an instruction whose ACT went to `next`, with `st` as its STALL: all but the lane registers, which
`Ctx.Regs` tells of, the scoreboard and the lanes counted in handler mode is as in `h`. -/
def Ctx.Leaves (x : Ctx) (h g : Group) (next : Fin 64 → Word) (st : Nat) : Prop :=
  g = { h with
    v := g.v, mapped := g.mapped, pendFree := g.pendFree, busy := g.busy, hlanes := g.hlanes, hwrote := g.hwrote
    lpc := x.lpcAfter next, stall := 1 + st, wait := none, polled := false, enlarge := 0, held := none }

/-- The lane registers after an instruction that writes the registers of `writes` in the lanes of `m`, each with its values, and
marks those of `last` as read for the last time: a register not written keeps what it held, unless it is marked or was already
pending free, when it may read as 0 from now on (R55, R56). -/
def Ctx.Regs (x : Ctx) (g : Group) (m : Lanes) (last : List (Fin 64)) (writes : List (Fin 64 × (Fin 64 → Word))) : Prop :=
  (∀ w ∈ writes, ∀ p, g.readV w.1 p = if m.has p then w.2 p else x.g.readV w.1 p) ∧
  ∀ r, r ∉ writes.map Prod.fst → r ∉ last → (∀ e ∈ x.g.pendFree, e.1 ≠ r) → ∀ p, g.readV r p = x.g.readV r p

/-- The lane registers that a LAST bit marks (R126). -/
def lastOf (r : Fin 64) (last : Bool) : List (Fin 64) := if last then [r] else []
def mixedLast (b : Mixed) (last : Bool) : List (Fin 64) :=
  match b with
  | .v r => lastOf r last
  | .s _ => []

/-- The flags that the lanes of ACT raise, each with its own. -/
def Ctx.raised (x : Ctx) (f : Fin 64 → Flags) : Flags := x.act.list.foldl (fun a p => a ||| f p) 0

/-- AN INSTRUCTION OF A GROUP COMPLETES: `exec` answers a next state, in which the group of `x` is as in `h` with ACT at `next` and
`writes` written in the lanes of `m`, and all else is as in `s'`, which is `s` with what the instruction stores elsewhere. -/
def State.Completes (s s' : State) (x : Ctx) (i : Instr) (h : Group) (next : Fin 64 → Word) (st : Nat) (m : Lanes)
    (last : List (Fin 64)) (writes : List (Fin 64 × (Fin 64 → Word))) : Prop :=
  ∃ g t, exec i s = .next t ∧ s'.Becomes x g t ∧ x.Leaves h g next st ∧ x.Regs g m last writes

/-- A stream after an instruction that leaves its registers as in `h`, its next address `next` and its STALL `st`. -/
def State.StreamCompletes (s s' : State) (y : SCtx) (i : Instr) (h : Stream) (next : Word) (st : Nat) : Prop :=
  exec i s = .next (s'.setStream y.c y.copy (some
    { h with pc := next, stall := 1 + st, wait := none, polled := false, held := none }))

end Sys2Proof.Machine
end

