-- ==== Sys2Proof/Certificates/Slice0/Lanes.lean ====
section
/-! DEFINITION. The value that each lane, mask and uniform instruction writes, as its rule gives it: exact arithmetic on integers,
narrowed at the end. The statements of Obligations.lean range over these tables. -/
namespace Sys2Proof.Certificates
open Sys2Proof.Machine

/-! ### Lane instructions -/

/-- A lane instruction of one destination: its length, STALL and destination, the registers that hold it, those that it marks
LAST, and each lane's value with the flags that it raises. -/
structure LaneRow where
  len : Word
  st : Nat
  d : Fin 64
  toks : List (Fin 128)
  uses : List Nat
  last : List (Fin 64)
  value : Ctx → Fin 64 → Word × Flags

/-- An operation on A, the mixed B, and with `old` the destination as it was (R193). -/
def rowL (d a : Fin 64) (b : Mixed) (la lb : Bool) (st : Fin 8) (old : Bool) (f : Word → Word → Word → Word × Flags) : LaneRow :=
  ⟨4, st.val, d, mixedToks b, keyV a :: mixedUses b ++ (if old then [keyV d] else []), lastOf a la ++ mixedLast b lb,
    fun x p => f (x.g.readV a p) (x.g.mixed b p) (x.g.readV d p)⟩

/-- An operation on A alone. -/
def rowU (d a : Fin 64) (la : Bool) (st : Fin 8) (f : Word → Word × Flags) : LaneRow :=
  ⟨4, st.val, d, [], [keyV a], lastOf a la, fun x p => f (x.g.readV a p)⟩

/-- A compact operation: D is also the first source (R200). -/
def rowC (d a : Fin 32) (last first : Bool) (f : Word → Word → Word × Flags) : LaneRow :=
  ⟨2, 0, smallV d, [], keyV (smallV a) :: (if first then [keyV (smallV d)] else []), lastOf (smallV a) last,
    fun x p => f (x.g.readV (smallV d) p) (x.g.readV (smallV a) p)⟩

/-- A result that raises no flag, from a natural and from an integer. -/
def nat (n : Nat) : Word × Flags := (BitVec.ofNat 32 n, 0)
def int (n : Int) : Word × Flags := (BitVec.ofInt 32 n, 0)
def word (w : Word) : Word × Flags := (w, 0)

/-- The start and the length of a bit field (R198). -/
def fieldAt (b : Word) : Nat × Nat := (b.toNat % 32, min (b.toNat / 256 % 64) (32 - b.toNat % 32))

/-- The zero bits above the highest set bit of a number of `w` bits (R169, R199). -/
def zerosAbove (w n : Nat) : Nat := if n = 0 then w else w - 1 - Nat.log2 n

/-- The lane instructions on integers and bits (R195 to R200, R204). -/
def laneInt (i : Instr) : Option LaneRow :=
  match i with
  | .iadd d a b la lb st => some (rowL d a b la lb st false fun a b _ => nat (a.toNat + b.toNat))
  | .isub d a b la lb st => some (rowL d a b la lb st false fun a b _ => int ((a.toNat : Int) - b.toNat))
  | .imul d a b la lb st => some (rowL d a b la lb st false fun a b _ => nat (a.toNat * b.toNat))
  | .imulhI32 d a b la lb st => some (rowL d a b la lb st false fun a b _ => int (a.toInt * b.toInt / 2 ^ 32))
  | .imulhN32 d a b la lb st => some (rowL d a b la lb st false fun a b _ => nat (a.toNat * b.toNat / 2 ^ 32))
  | .imad d a b la lb st => some (rowL d a b la lb st true fun a b c => nat (a.toNat * b.toNat + c.toNat))
  | .lea d a b la lb st => some (rowL d a b la lb st false fun a b _ => nat (a.toNat + 4 * b.toNat))
  | .iminI32 d a b la lb st => some (rowL d a b la lb st false fun a b _ => int (min a.toInt b.toInt))
  | .iminN32 d a b la lb st => some (rowL d a b la lb st false fun a b _ => nat (min a.toNat b.toNat))
  | .imaxI32 d a b la lb st => some (rowL d a b la lb st false fun a b _ => int (max a.toInt b.toInt))
  | .imaxN32 d a b la lb st => some (rowL d a b la lb st false fun a b _ => nat (max a.toNat b.toNat))
  | .and d a b la lb st => some (rowL d a b la lb st false fun a b _ => word (a &&& b))
  | .or d a b la lb st => some (rowL d a b la lb st false fun a b _ => word (a ||| b))
  | .xor d a b la lb st => some (rowL d a b la lb st false fun a b _ => word (a ^^^ b))
  | .shl d a b la lb st => some (rowL d a b la lb st false fun a b _ => nat (a.toNat * 2 ^ (b.toNat % 64)))
  | .shr d a b la lb st => some (rowL d a b la lb st false fun a b _ => nat (a.toNat / 2 ^ (b.toNat % 64)))
  | .sra d a b la lb st => some (rowL d a b la lb st false fun a b _ => int (a.toInt / 2 ^ (b.toNat % 64)))
  | .rot d a b la lb st => some (rowL d a b la lb st false fun a b _ =>
      nat (a.toNat * 2 ^ (b.toNat % 32) + a.toNat / 2 ^ (32 - b.toNat % 32)))
  | .bfeI32 d a b la lb st => some (rowL d a b la lb st false fun a b _ =>
      let v := a.toNat / 2 ^ (fieldAt b).1 % 2 ^ (fieldAt b).2
      int (if 2 ^ (fieldAt b).2 ≤ 2 * v then (v : Int) - 2 ^ (fieldAt b).2 else v))
  | .bfeN32 d a b la lb st => some (rowL d a b la lb st false fun a b _ => nat (a.toNat / 2 ^ (fieldAt b).1 % 2 ^ (fieldAt b).2))
  | .bfi d a b la lb st => some (rowL d a b la lb st true fun a b c =>
      let (lo, n) := fieldAt b
      nat (c.toNat % 2 ^ lo + a.toNat % 2 ^ n * 2 ^ lo + c.toNat / 2 ^ (lo + n) * 2 ^ (lo + n)))
  | .mov d b lb st => some ⟨4, st.val, d, mixedToks b, mixedUses b, mixedLast b lb, fun x p => word (x.g.mixed b p)⟩
  | .iabs d a la st => some (rowU d a la st fun a => nat a.toInt.natAbs)
  | .ineg d a la st => some (rowU d a la st fun a => int (-a.toInt))
  | .not d a la st => some (rowU d a la st fun a => nat (2 ^ 32 - 1 - a.toNat))
  | .popc d a la st => some (rowU d a la st fun a => nat ((List.range 32).countP fun k => a.getLsbD k))
  | .clz d a la st => some (rowU d a la st fun a => nat (zerosAbove 32 a.toNat))
  | .brev d a la st => some (rowU d a la st fun a => word a.reverse)
  | .isel d k b lb st => some ⟨4, st.val, d, mixedToks b, keyV d :: keyK k.val :: mixedUses b, mixedLast b lb,
      fun x p => word (if (x.g.mask k).has p then x.g.mixed b p else x.g.readV d p)⟩
  | .movCompact d a last => some (rowC d a last false fun _ b => word b)
  | .iaddCompact d a last => some (rowC d a last true fun a b => nat (a.toNat + b.toNat))
  | .isubCompact d a last => some (rowC d a last true fun a b => int ((a.toNat : Int) - b.toNat))
  | .imulCompact d a last => some (rowC d a last true fun a b => nat (a.toNat * b.toNat))
  | .andCompact d a last => some (rowC d a last true fun a b => word (a &&& b))
  | .orCompact d a last => some (rowC d a last true fun a b => word (a ||| b))
  | .xorCompact d a last => some (rowC d a last true fun a b => word (a ^^^ b))
  | .shlCompact d a last => some (rowC d a last true fun a b => nat (a.toNat * 2 ^ (b.toNat % 64)))
  | .shrCompact d a last => some (rowC d a last true fun a b => nat (a.toNat / 2 ^ (b.toNat % 64)))
  | .sraCompact d a last => some (rowC d a last true fun a b => int (a.toInt / 2 ^ (b.toNat % 64)))
  | .leaCompact d a last => some (rowC d a last true fun a b => nat (a.toNat + 4 * b.toNat))
  | _ => none

/-- The lane instructions on binary32 and on packed binary16 values (R200, R204, R206 to R210): the operations of the number files
on each lane's words. -/
def laneFloat (i : Instr) : Option LaneRow :=
  match i with
  | .fadd d a b la lb st => some (rowL d a b la lb st false fun a b _ => f32AddF a b)
  | .fsub d a b la lb st => some (rowL d a b la lb st false fun a b _ => f32SubF a b)
  | .fmul d a b la lb st => some (rowL d a b la lb st false fun a b _ => f32Op2 mulV a b)
  | .ffma d a b la lb st => some (rowL d a b la lb st true fun a b c => f32Fma a b c)
  | .fmin d a b la lb st => some (rowL d a b la lb st false fun a b _ => f32Pick true a b)
  | .fmax d a b la lb st => some (rowL d a b la lb st false fun a b _ => f32Pick false a b)
  | .fdiv d a b la lb st => some (rowL d a b la lb st false fun a b _ => f32Op2 divV a b)
  | .hadd2 d a b la lb st => some (rowL d a b la lb st false (halves fun a b _ => binary16.op2 addV a b))
  | .hmul2 d a b la lb st => some (rowL d a b la lb st false (halves fun a b _ => binary16.op2 mulV a b))
  | .hfma2 d a b la lb st => some (rowL d a b la lb st true (halves fun a b c =>
      binary16.finishOp (fmaV (binary16.decode a) (binary16.decode b) (binary16.decode c))))
  | .frcp d a la st => some (rowU d a la st fun a => f32Op1 (fun v => divV (.fin false 1 0) v) a)
  | .frsq d a la st => some (rowU d a la st fun a => f32Op1 rsqV a)
  | .fsqrt d a la st => some (rowU d a la st fun a => f32Op1 sqrtV a)
  | .fexp2 d a la st => some (rowU d a la st fun a => f32Op1 exp2V a)
  | .flog2 d a la st => some (rowU d a la st fun a => f32Op1 log2V a)
  | .fsin d a la st => some (rowU d a la st fun a => f32Op1 sinV a)
  | .fcos d a la st => some (rowU d a la st fun a => f32Op1 cosV a)
  | .fabs d a la st => some (rowU d a la st fun a => nat (a.toNat % 2 ^ 31))
  | .fneg d a la st => some (rowU d a la st fun a => nat (a.toNat + 2 ^ 31))
  | .fclass d a la st => some (rowU d a la st fun a => word (f32Class a))
  | .frndRn d a la st => some (rowU d a la st fun a => f32Integral .rn a)
  | .frndRz d a la st => some (rowU d a la st fun a => f32Integral .rz a)
  | .frndRp d a la st => some (rowU d a la st fun a => f32Integral .rp a)
  | .frndRm d a la st => some (rowU d a la st fun a => f32Integral .rm a)
  | .fsel d k b lb st => some ⟨4, st.val, d, mixedToks b, keyV d :: keyK k.val :: mixedUses b, mixedLast b lb,
      fun x p => word (if (x.g.mask k).has p then x.g.mixed b p else x.g.readV d p)⟩
  | .cvti mode signed d a la st => some (rowU d a la st fun a => f32ToInt mode signed a)
  | .cvtf mode signed d a la st => some (rowU d a la st fun a => f32OfInt mode signed a)
  | .faddCompact d a last => some (rowC d a last true fun a b => f32AddF a b)
  | .fsubCompact d a last => some (rowC d a last true fun a b => f32SubF a b)
  | .fmulCompact d a last => some (rowC d a last true fun a b => f32Op2 mulV a b)
  | .fminCompact d a last => some (rowC d a last true fun a b => f32Pick true a b)
  | .fmaxCompact d a last => some (rowC d a last true fun a b => f32Pick false a b)
  | _ => none

/-- The position that a shuffle reads for a lane (R213): the one computed, if a lane of ACT stands there, else the lane's own. -/
def shuffled (x : Ctx) (p : Fin 64) (q : Int) : Fin 64 :=
  if 0 ≤ q ∧ q < x.g.grant.lanes ∧ x.act.has (Fin.ofNat 64 q.toNat) then Fin.ofNat 64 q.toNat else p

/-- A shuffle; `f` gives the position from a lane's own and from B[5:0]. -/
def rowShuffle (d a : Fin 64) (b : Mixed) (la lb : Bool) (st : Fin 8) (f : Nat → Nat → Int) : LaneRow :=
  ⟨4, st.val, d, mixedToks b, keyV a :: mixedUses b, lastOf a la ++ mixedLast b lb,
    fun x p => word (x.g.readV a (shuffled x p (f p.val ((x.g.mixed b p).toNat % 64))))⟩

/-- A reduction: the root of the canonical tree in every lane of ACT (R20, R216). -/
def rowReduce (d a : Fin 64) (la : Bool) (st : Fin 8) (op : LaneOp) : LaneRow :=
  ⟨4, st.val, d, [], [keyV a], lastOf a la, fun x _ => (treeNode op (x.present a) x.g.grant.levels 0).getD (0, 0)⟩

/-- A scan from the carry in the old destination over the canonical subtrees of the lanes up to a lane, or before it (R217). -/
def rowScan (d a : Fin 64) (la : Bool) (st : Fin 8) (exc : Bool) (op : LaneOp) : LaneRow :=
  ⟨4, st.val, d, [], [keyV a, keyV d], lastOf a la,
    fun x p => scanFold op (x.present a) (if exc then p.val else p.val + 1) 64 0 (x.g.readV d p, 0)⟩

/-- The lane instructions that read across lanes (R212 to R218). -/
def laneCross (i : Instr) : Option LaneRow :=
  match i with
  | .shfl d a b la lb st => some (rowShuffle d a b la lb st fun _ n => n)
  | .shflup d a b la lb st => some (rowShuffle d a b la lb st fun p n => (p : Int) - n)
  | .shfldn d a b la lb st => some (rowShuffle d a b la lb st fun p n => (p : Int) + n)
  | .shflx d a b la lb st => some (rowShuffle d a b la lb st fun p n => (p ^^^ n : Nat))
  | .bcast d a b la lb st => some ⟨4, st.val, d, mixedToks b, keyV a :: mixedUses b, lastOf a la ++ mixedLast b lb, fun x _ =>
      let n := Fin.ofNat 64 (x.g.mixed b x.act.first).toNat
      word (x.g.readV a (if x.act.has n then n else x.act.first))⟩
  | .matchV d a la st => some ⟨4, st.val, d, [], [keyV a], lastOf a la, fun x p =>
      nat ((x.act.list.find? fun q => x.g.readV a q == x.g.readV a p).getD p).val⟩
  | .redaddN32 d a la st => some (rowReduce d a la st fun x y => nat (x.toNat + y.toNat))
  | .redaddF32 d a la st => some (rowReduce d a la st f32AddF)
  | .redminI32 d a la st => some (rowReduce d a la st fun x y => int (min x.toInt y.toInt))
  | .redminN32 d a la st => some (rowReduce d a la st fun x y => nat (min x.toNat y.toNat))
  | .redminF32 d a la st => some (rowReduce d a la st (f32Pick true))
  | .redmaxI32 d a la st => some (rowReduce d a la st fun x y => int (max x.toInt y.toInt))
  | .redmaxN32 d a la st => some (rowReduce d a la st fun x y => nat (max x.toNat y.toNat))
  | .redmaxF32 d a la st => some (rowReduce d a la st (f32Pick false))
  | .scanaddN32 d a la st => some (rowScan d a la st false fun x y => nat (x.toNat + y.toNat))
  | .scanaddF32 d a la st => some (rowScan d a la st false f32AddF)
  | .scanaddN32Exc d a la st => some (rowScan d a la st true fun x y => nat (x.toNat + y.toNat))
  | .scanaddF32Exc d a la st => some (rowScan d a la st true f32AddF)
  | _ => none

/-- A lane's identity (R34, R182). -/
def rowId (d : Fin 64) (st : Fin 8) (f : Ctx → Fin 64 → Nat) : LaneRow := ⟨4, st.val, d, [], [], [], fun x p => nat (f x p)⟩

/-- The lane instructions that tell a thread who it is (R182). -/
def laneIdentity (i : Instr) : Option LaneRow :=
  match i with
  | .tid d st => some (rowId d st fun x p => (x.g.tid.get p).toNat)
  | .hlane d st => some (rowId d st fun x p => (x.g.tid.get p).toNat % 64)
  | .rank d st => some (rowId d st fun x p => (x.act.list.filter fun q => decide (q.val < p.val)).length)
  | .team d axis st => some (rowId d st fun x p => teamCoord x.grid.shape axis (x.g.tid.get p).toNat)
  | _ => none

/-- A conversion through a format slot (R84, R210): the slot, whether its descriptor is accepted, and the lane row when the slot
holds descriptor `D` with format `F`. -/
structure SlotRow where
  fs : Fin 8
  accepts : Word → Bool
  row : Word → Fmt → LaneRow

/-- The conversions that go through a format slot. -/
def laneSlot (i : Instr) : Option SlotRow :=
  match i with
  | .cvtNarrow fs d a la st => some ⟨fs, cvtSlot, fun D F => rowU d a la st fun v => word32 (narrow D F v)⟩
  | .cvtWiden fs d a la st => some ⟨fs, cvtSlot, fun _ F => rowU d a la st fun v => widen F v.toNat⟩
  | .pk8 fs e d a la st => some ⟨fs, pkSlot 8, fun D F => { rowU d a la st word with
      uses := [keyV a, keyV d]
      value := fun x p => (putElem (x.g.readV d p) 8 e.val (narrow D F (x.g.readV a p)).1, (narrow D F (x.g.readV a p)).2) }⟩
  | .upk8 fs e d a la st => some ⟨fs, pkSlot 8, fun _ F => rowU d a la st fun v => widen F (v.toNat / 2 ^ (8 * e.val) % 2 ^ 8)⟩
  | .pk4 fs e d a la st => some ⟨fs, pkSlot 4, fun D F => { rowU d a la st word with
      uses := [keyV a, keyV d]
      value := fun x p => (putElem (x.g.readV d p) 4 e.val (narrow D F (x.g.readV a p)).1, (narrow D F (x.g.readV a p)).2) }⟩
  | .upk4 fs e d a la st => some ⟨fs, pkSlot 4, fun _ F => rowU d a la st fun v => widen F (v.toNat / 2 ^ (4 * e.val) % 2 ^ 4)⟩
  | _ => none

/-! ### Mask instructions -/

/-- An instruction that writes mask `kd` in the lanes of ACT: each lane's bit and the flags that it raises. -/
structure MaskRow where
  st : Nat
  kd : Fin 7
  toks : List (Fin 128)
  uses : List Nat
  last : List (Fin 64)
  bit : Ctx → Fin 64 → Bool × Flags

/-- An integer comparison (R201). -/
def holds (cnd : ICnd) (a b : Int) : Bool :=
  match cnd with
  | .eq => decide (a = b)
  | .ne => decide (a ≠ b)
  | .lt => decide (a < b)
  | .le => decide (a ≤ b)
  | .gt => decide (b < a)
  | .ge => decide (b ≤ a)

/-- A comparison of A with the mixed B. -/
def rowCmp (kd : Fin 7) (a : Fin 64) (b : Mixed) (la lb : Bool) (st : Fin 8) (f : Word → Word → Bool × Flags) : MaskRow :=
  ⟨st.val, kd, mixedToks b, keyV a :: mixedUses b, lastOf a la ++ mixedLast b lb, fun x p => f (x.g.readV a p) (x.g.mixed b p)⟩

/-- An operation on masks (R205). -/
def rowMask (kd : Fin 7) (ks : List (Fin 8)) (st : Fin 8) (f : Ctx → Fin 64 → Bool) : MaskRow :=
  ⟨st.val, kd, [], ks.map fun k => keyK k.val, [], fun x p => (f x p, 0)⟩

/-- The instructions that write a mask (R201 to R205). -/
def maskWrite (i : Instr) : Option MaskRow :=
  match i with
  | .icmpI32 kd cnd a b la lb st => some (rowCmp kd a b la lb st fun a b => (holds cnd a.toInt b.toInt, 0))
  | .icmpN32 kd cnd a b la lb st => some (rowCmp kd a b la lb st fun a b => (holds cnd a.toNat b.toNat, 0))
  | .fcmp kd cnd a b la lb st => some (rowCmp kd a b la lb st fun a b => f32Test cnd a b)
  | .vote kd a la st => some ⟨st.val, kd, [], [keyV a], lastOf a la, fun x p => (decide (x.g.readV a p ≠ 0), 0)⟩
  | .kand kd ka kb st => some (rowMask kd [ka, kb] st fun x p => (x.g.mask ka).has p && (x.g.mask kb).has p)
  | .kor kd ka kb st => some (rowMask kd [ka, kb] st fun x p => (x.g.mask ka).has p || (x.g.mask kb).has p)
  | .kxor kd ka kb st => some (rowMask kd [ka, kb] st fun x p => (x.g.mask ka).has p != (x.g.mask kb).has p)
  | .knot kd ka st => some (rowMask kd [ka] st fun x p => !(x.g.mask ka).has p)
  | .kmov kd ka st => some (rowMask kd [ka] st fun x p => (x.g.mask ka).has p)
  | _ => none

/-! ### Uniform instructions -/

/-- A uniform instruction: its STALL, destination and sources, and the value that S[d] takes (R166 to R170). -/
structure UniRow where
  st : Nat
  d : Fin 128
  srcs : List (Fin 128)
  value : (Fin 128 → DWord) → DWord

/-- A doubleword from a natural and from an integer. -/
def nat64 (n : Nat) : DWord := BitVec.ofNat 64 n
def int64 (n : Int) : DWord := BitVec.ofInt 64 n

/-- The arithmetic of groups and streams on uniform registers. -/
def uniform (i : Instr) : Option UniRow :=
  match i with
  | .sadd d a b st => some ⟨st.val, d, [a, b], fun S => nat64 ((S a).toNat + (S b).toNat)⟩
  | .ssub d a b st => some ⟨st.val, d, [a, b], fun S => int64 (((S a).toNat : Int) - (S b).toNat)⟩
  | .smul d a b st => some ⟨st.val, d, [a, b], fun S => nat64 ((S a).toNat * (S b).toNat)⟩
  | .smulh d a b st => some ⟨st.val, d, [a, b], fun S => int64 ((S a).toInt * (S b).toInt / 2 ^ 64)⟩
  | .sand d a b st => some ⟨st.val, d, [a, b], fun S => S a &&& S b⟩
  | .sor d a b st => some ⟨st.val, d, [a, b], fun S => S a ||| S b⟩
  | .sxor d a b st => some ⟨st.val, d, [a, b], fun S => S a ^^^ S b⟩
  | .sshl d a b st => some ⟨st.val, d, [a, b], fun S => nat64 ((S a).toNat * 2 ^ ((S b).toNat % 64))⟩
  | .sshr d a b st => some ⟨st.val, d, [a, b], fun S => nat64 ((S a).toNat / 2 ^ ((S b).toNat % 64))⟩
  | .ssra d a b st => some ⟨st.val, d, [a, b], fun S => int64 ((S a).toInt / 2 ^ ((S b).toNat % 64))⟩
  | .sminI64 d a b st => some ⟨st.val, d, [a, b], fun S => int64 (min (S a).toInt (S b).toInt)⟩
  | .smaxI64 d a b st => some ⟨st.val, d, [a, b], fun S => int64 (max (S a).toInt (S b).toInt)⟩
  | .sminN64 d a b st => some ⟨st.val, d, [a, b], fun S => nat64 (min (S a).toNat (S b).toNat)⟩
  | .smaxN64 d a b st => some ⟨st.val, d, [a, b], fun S => nat64 (max (S a).toNat (S b).toNat)⟩
  | .scmp d a b st => some ⟨st.val, d, [a, b], fun S =>
      nat64 ((if S a = S b then 1 else 0) + (if (S a).toInt < (S b).toInt then 2 else 0) + (if (S a).toNat < (S b).toNat then 4 else 0)
        + (if (S b).toInt < (S a).toInt then 8 else 0) + (if (S b).toNat < (S a).toNat then 16 else 0))⟩
  | .ssel d a b st => some ⟨st.val, d, [a, b, d], fun S => if S d ≠ 0 then S a else S b⟩
  | .smov d a st => some ⟨st.val, d, [a], fun S => S a⟩
  | .spopc d a st => some ⟨st.val, d, [a], fun S => nat64 ((List.range 64).countP fun k => (S a).getLsbD k)⟩
  | .sclz d a st => some ⟨st.val, d, [a], fun S => nat64 (zerosAbove 64 (S a).toNat)⟩
  | .sli d imm st => some ⟨st.val, d, [], fun _ => int64 imm.toInt⟩
  | .slih d imm st => some ⟨st.val, d, [d], fun S => nat64 ((S d).toNat * 2 ^ 14 + imm.toNat)⟩
  | _ => none

/-- An instruction of a group that writes a uniform register and changes nothing else. -/
structure ReadRow where
  st : Nat
  d : Fin 128
  srcs : List (Fin 128)
  uses : List Nat
  value : State → Ctx → DWord

/-- The reads of a group's width and place, of the clocks, of a lane and of a mask (R19, R172, R182, R183, R205). -/
def uniformRead (i : Instr) : Option ReadRow :=
  match i with
  | .getw d st => some ⟨st.val, d, [d], [], fun _ x => nat64 x.g.grant.lanes⟩
  | .grid d axis st => some ⟨st.val, d, [d], [], fun _ x =>
      nat64 (if axis.val = 0 then x.t.coord.1 else if axis.val = 1 then x.t.coord.2.1 else x.t.coord.2.2)⟩
  | .gid d st => some ⟨st.val, d, [d], [], fun _ x => nat64 x.gid.val⟩
  | .core d st => some ⟨st.val, d, [d], [], fun _ x => nat64 x.c.val⟩
  | .die d st => some ⟨st.val, d, [d], [], fun _ x => nat64 (x.c.val / 32)⟩
  | .cyc d st => some ⟨st.val, d, [d], [], fun s x => (s.die (dieOf x.c)).cyc⟩
  | .reft d st => some ⟨st.val, d, [d], [], fun s _ => s.reft⟩
  | .srdl d a b st => some ⟨st.val, d, [d, b], [keyV a, keyS b], fun _ x =>
      let p := Fin.ofNat 64 (x.g.s.get b).toNat
      if p.val < x.g.grant.lanes ∧ (x.g.lst.get p = .running ∨ x.g.lst.get p = .parked) then nat64 (x.g.readV a p).toNat else 0⟩
  | .kpopc d ka st => some ⟨st.val, d, [d], [keyK ka.val], fun _ x =>
      nat64 ((List.finRange 64).countP fun p => (x.g.mask ka).has p && x.act.has p)⟩
  | _ => none

/-! ### When such an instruction runs, and what it leaves -/

/-- A lane instruction runs: nothing holds it, its destination has its slice (R57, R61), and no lane passes the section's end. -/
def LaneRow.Runs (row : LaneRow) (s : State) (x : Ctx) : Prop :=
  s.Issues x row.toks row.uses ∧ s.alloc x.c x.gid x.g x.t x.grid [row.d] = .ok ∧ s.Inside x fun _ => x.pc + row.len

/-- A lane instruction's effect (R192, R193): the destination takes each lane's value in the lanes of ACT, the flags raised join
XFLAGS, ACT goes on, and nothing else changes. -/
def LaneRow.Done (row : LaneRow) (s : State) (x : Ctx) (i : Instr) : Prop :=
  s.Completes s x i { x.g with xflags := x.g.xflags ||| x.raised fun p => (row.value x p).2 } (fun _ => x.pc + row.len) row.st
    x.act row.last [(row.d, fun p => (row.value x p).1)]

/-- A mask instruction's effect: the bits of ACT's lanes in the mask are those given, the others stay. -/
def MaskRow.Done (row : MaskRow) (s : State) (x : Ctx) (i : Instr) : Prop :=
  s.Completes s x i { x.g with
      xflags := x.g.xflags ||| x.raised fun p => (row.bit x p).2
      k := x.g.k.set row.kd (Lanes.ofFn fun p => if x.act.has p then (row.bit x p).1 else (x.g.k.get row.kd).has p) }
    (fun _ => x.pc + 4) row.st x.act row.last []

end Sys2Proof.Certificates
end

