-- ==== Sys2Proof/Certificates/Slice0/Effects.lean ====
section
/-! DEFINITION. What instructions do beside their group's registers: pool accesses, synchronisation, copies and the matrix engine,
as the statements of Obligations.lean name it. -/
namespace Sys2Proof.Certificates
open Sys2Proof.Machine

/-- A release at a scope may perform (R100, R101, R108): it has thread scope, or no older replay entry is left in its core, its
threads' earlier reads have performed, and so have the earlier writes that its scope names. -/
def Releases (s : State) (x : Ctx) (sc : Scope) : Prop :=
  sc = .thr ∨ ((s.core x.c).replayBefore (x.g.held.getD s.nextId) = false ∧ s.writesOpen x.c x.t.paired sc = false ∧
    s.readsOpen x = false)

/-- The same for a stream. -/
def ReleasesStream (s : State) (y : SCtx) (sc : Scope) : Prop :=
  sc = .thr ∨ ((s.core y.c).replayBefore (y.st.held.getD s.nextId) = false ∧ s.writesOpen y.c y.t.paired sc = false)

/-- No word of any array holds an error, and no injection is armed (R390, R392). -/
def Sound (s : State) : Prop := s.marks = [] ∧ ∀ d, (s.die d).errinj.getLsbD 8 = false

/-! ### Pool accesses (R65 to R68, R221 to R225) -/

/-- A pool access of `words` words a lane at V[a] plus `disp` bytes: its data registers from `d` on, and its LAST bits. -/
structure PoolRow where
  words : Nat
  d : Fin 64
  a : Fin 64
  disp : Int
  la : Bool
  ld : Bool
  st : Nat

/-- The pool loads. -/
def poolLoads (i : Instr) : Option PoolRow :=
  match i with
  | .pld d a imm la st => some ⟨1, d, a, 4 * imm.toInt, la, false, st.val⟩
  | .pldw x4 d a imm la st => some ⟨if x4 then 4 else 2, d, a, (if x4 then 16 else 8) * imm.toInt, la, false, st.val⟩
  | _ => none

/-- The pool stores. -/
def poolStores (i : Instr) : Option PoolRow :=
  match i with
  | .pst d a imm la ld st => some ⟨1, d, a, 4 * imm.toInt, la, ld, st.val⟩
  | .pstw x4 d a imm la ld st => some ⟨if x4 then 4 else 2, d, a, (if x4 then 16 else 8) * imm.toInt, la, ld, st.val⟩
  | _ => none

/-- A lane's address, the registers of the access, its passes (R67) and what it adds to the group's next issue (R66, R68). -/
def PoolRow.addr (r : PoolRow) (x : Ctx) (p : Fin 64) : Nat := poolAddr x.g r.a (BitVec.ofInt 32 r.disp) p
def PoolRow.regs (r : PoolRow) : List (Fin 64) := (List.range r.words).map (nextV r.d)
def PoolRow.passes (r : PoolRow) (x : Ctx) (write : Bool) : Nat :=
  Sys2Proof.Machine.passes write (x.act.list.flatMap fun p => (List.range r.words).map fun k => r.addr x p / 4 + k)
def PoolRow.time (r : PoolRow) (s : State) (x : Ctx) (write : Bool) : Nat :=
  r.st + s.poolTime x (4 * r.words) (r.passes x write) (x.act.list.map (r.addr x))

/-- The group with the cycles that count against the caller: those of passes above the recorded count (R68). -/
def PoolRow.group (r : PoolRow) (x : Ctx) (write : Bool) : Group := { x.g with extra := r.passes x write - x.recorded }

/-- A pool access runs: no acquire is out, every lane's address is aligned and inside scratch, and its passes are no more than the
table records where they are checked. -/
def PoolRow.Runs (r : PoolRow) (s : State) (x : Ctx) (write : Bool) : Prop :=
  s.acquiring x = false ∧ (∀ p, x.act.has p = true → r.addr x p % (4 * r.words) = 0 ∧ r.addr x p + 4 * r.words ≤ x.grid.scratchBytes) ∧
    (s.schk x = true → r.passes x write ≤ x.recorded) ∧ s.Inside x fun _ => x.pc + 4

/-- The group after a pool access that reads and promotes nothing: it notes the tags of a pair's banks that its lanes meet (R104). -/
def PoolRow.noted (r : PoolRow) (s : State) (x : Ctx) (write : Bool) : Group :=
  s.notePool x (r.addr x) x.act.list (r.group x write)

/-- The state after a pool store: each lane's registers in its bytes of scratch, the lanes in ascending order, and the tags that a
fence before them asks for (R104). -/
def PoolRow.stored (r : PoolRow) (s : State) (x : Ctx) : State :=
  (x.act.list.foldl (fun s p => s.scratchStore x.c x.t (r.addr x p)
    (r.regs.flatMap fun q => leBytes 4 (x.g.readV q p).toNat)) s).tagPool x (r.addr x) x.act.list

/-- What an atomic writes (R225); none where CAS compares unequal. -/
def atomicValue (op : Aop) (m v v2 : Word) : Option Word :=
  match op with
  | .addN32 => some (BitVec.ofNat 32 (m.toNat + v.toNat))
  | .minI32 => some (BitVec.ofInt 32 (min m.toInt v.toInt))
  | .minN32 => some (BitVec.ofNat 32 (min m.toNat v.toNat))
  | .maxI32 => some (BitVec.ofInt 32 (max m.toInt v.toInt))
  | .maxN32 => some (BitVec.ofNat 32 (max m.toNat v.toNat))
  | .and => some (m &&& v)
  | .or => some (m ||| v)
  | .xor => some (m ^^^ v)
  | .exch => some v
  | .cas => if m = v then some v2 else none
  | .addF32 => some (f32AddF m v).1

/-- The pool atomics of lanes one after another (R224): each lane's old word, and the state after them. -/
def atomicRun (x : Ctx) (op : Aop) (d : Fin 64) (addr : Fin 64 → Nat) : State → List (Fin 64) → (Fin 64 → Word) × State
  | s, [] => (fun _ => 0, s)
  | s, p :: ps =>
    let old : Word := BitVec.ofNat 32 (s.scratchNum x.c x.t (addr p) 4)
    let s1 := match atomicValue op old (x.g.readV d p) (x.g.readV (nextV d 1) p) with
      | some w => s.scratchPut x.c x.t (addr p) 4 w.toNat
      | none => s
    let r := atomicRun x op d addr s1 ps
    (fun q => if q = p then old else r.1 q, r.2)

/-! ### Barriers and flags (R236 to R240) -/

/-- No group and no stream waits at a barrier, and no stream has arrived there. -/
def NoneAt (s : State) (i : Fin 16) : Prop :=
  (∀ c gid g, s.group c gid = some g → ∀ w ∈ g.barWaits, w.bar ≠ i) ∧
  ∀ c copy st, (s.core c).stream copy = some st → st.bars.get i ≠ .arrived ∧ st.barWait ≠ some i

/-- The stream of a team stands at the core and slot at which its team's home knows it (R13). -/
def Mated (s : State) (y : SCtx) : Prop :=
  (y.home = y.c ∧ y.slot = y.st.team) ∨
    ∃ t, s.team y.home y.slot = some t ∧ t.paired = true ∧ y.c = partner y.home ∧ y.st.team = t.mate

/-- No group and no stream waits for a flag. -/
def NoneWaits (s : State) (f : Fin 64) : Prop :=
  (∀ c gid g w n, s.group c gid = some g → g.wait = some w → w.on ≠ .flag f n) ∧
  ∀ c copy st w n, (s.core c).stream copy = some st → st.wait = some w → w.on ≠ .flag f n

/-- A barrier after `n` arrivals within its phase, those of the threads `tids` among them, each dropping if `drop`, and `drops` the
number of drops: the phase is complete when all have arrived, and no thread stands as arrived then (R236, R237). -/
def Arrived (b b' : Barrier) (n drops : Nat) (tids : List (BitVec 12) := []) (drop : Bool := false) : Prop :=
  (∀ t : BitVec 12, b'.droppedSet.getLsbD t.toNat = (b.droppedSet.getLsbD t.toNat || (drop && decide (t ∈ tids)))) ∧
  if b.arrived.toNat + n = b.expect.toNat then
    b'.phase = b.phase + 1 ∧ b'.expect.toNat = b.expect.toNat - (b.pendDrop.toNat + drops) ∧ b'.arrived = 0 ∧ b'.pendDrop = 0 ∧
      b'.arrivedSet = 0
  else b'.phase = b.phase ∧ b'.expect = b.expect ∧ b'.arrived.toNat = b.arrived.toNat + n ∧
    b'.pendDrop.toNat = b.pendDrop.toNat + drops ∧
    ∀ t : BitVec 12, b'.arrivedSet.getLsbD t.toNat = (b.arrivedSet.getLsbD t.toNat || (!drop && decide (t ∈ tids)))

/-- A team's barrier or flags replaced. -/
def withBarrier (s : State) (c : Fin 128) (slot i : Fin 16) (b : Barrier) : State :=
  s.modTeam c slot fun t => { t with bars := t.bars.set i b }
def withFlag (s : State) (c : Fin 128) (slot : Fin 16) (f : Fin 64) (v : Bool) : State :=
  s.modTeam c slot fun t => { t with flags := if v then t.flags ||| (1#64 <<< f.val) else t.flags &&& ~~~(1#64 <<< f.val) }

/-! ### Queue pushes (R226 to R229) -/

/-- The request that lane `r.pos` of an instruction made: its address, what it does and how it was translated. -/
def Requested (x : Ctx) (space : Word) (kind : AccKind) (base : Fin 128) (a : Fin 64) (scope : Scope) (acq rel : Bool)
    (entry : Option (Fin 8 × Nat)) (hits : List (Fin 64 × Hit)) (r : Req) : Prop :=
  r.core = x.c ∧ r.uid = x.g.uid ∧ r.team = x.t.admitted ∧ r.tid = x.g.tid.get r.pos ∧ r.tids = [x.g.tid.get r.pos] ∧ r.space = space ∧
    r.va = laneAddr x.g base a r.pos ∧ r.kind = kind ∧ r.scope = scope ∧ r.acq = acq ∧ r.rel = rel ∧ r.entry = entry ∧
    r.tagScope = (if kind = .load then none else x.g.tagScope r.pos rel scope) ∧
    ((r.phase = .sent ∧ (r.pos, Hit.sent r.pa r.xl) ∈ hits) ∨ (r.phase = .frozen ∧ (r.pos, Hit.frozen r.pa) ∈ hits))

/-! ### Copies (R241 to R243) -/

/-- A copy instruction: its token register, index register, block, and each lane's addresses from the block, the sign-extended index
and the thread's number. -/
structure CopyRow where
  ds : Fin 64
  a : Fin 64
  sb : Fin 128
  la : Bool
  st : Nat
  src : CopyBlock → DWord → DWord → DWord
  dst : CopyBlock → DWord → DWord → DWord

/-- The copy instructions. -/
def copies (i : Instr) : Option CopyRow :=
  match i with
  | .cpy ds a sb la st => some ⟨ds, a, sb, la, st.val, fun b n _ => b.src + n, fun b n _ => b.dst + n⟩
  | .cpyg ds a sb la st => some ⟨ds, a, sb, la, st.val, fun b n _ => b.src + n, fun b _ t => b.dst + t * b.stride⟩
  | .cpys ds a sb la st => some ⟨ds, a, sb, la, st.val, fun b _ t => b.src + t * b.stride, fun b n _ => b.dst + n⟩
  | _ => none

/-- A lane's addresses. -/
def CopyRow.from_ (r : CopyRow) (x : Ctx) (p : Fin 64) : DWord :=
  r.src (x.g.copyBlock r.sb) (BitVec.ofInt 64 (x.g.readV r.a p).toInt) (BitVec.ofNat 64 (x.g.tid.get p).toNat)
def CopyRow.to_ (r : CopyRow) (x : Ctx) (p : Fin 64) : DWord :=
  r.dst (x.g.copyBlock r.sb) (BitVec.ofInt 64 (x.g.readV r.a p).toInt) (BitVec.ofNat 64 (x.g.tid.get p).toNat)

/-- The four registers of its block. -/
def CopyRow.block (r : CopyRow) : List (Fin 128) := (List.range 4).map (nextS r.sb)

/-! ### The matrix engine (R253 to R267) -/

/-- A matrix instruction: what its issuer waits for and reads, what the rules ask of its operands, its cycles, the state with its
effect, the uniform register that it writes, and the spans of scratch, each an offset and a length, that it reads and writes. -/
structure EngineRow where
  toks : List (Fin 128)
  uses : List Nat
  st : Nat
  ok : Eng → State → Prop
  cycles : Eng → State → Nat
  after : Eng → State → State
  write : Eng → State → Option (Fin 128 × DWord)
  reads : Eng → State → List (Nat × Nat)
  writes : Eng → State → List (Nat × Nat)

/-- One that reads the `n` uniform registers from `a` on, and writes none. -/
def engine (st : Fin 8) (n : Nat) (a : Fin 128) (ok : Eng → State → Prop) (cycles : Eng → State → Nat) (after : Eng → State → State) :
    EngineRow :=
  ⟨(List.range n).map (nextS a), ((List.range n).map (nextS a)).map keyS, st.val, ok, cycles, after, fun _ _ => none, fun _ _ => [],
    fun _ _ => []⟩

/-- One that reads or writes spans of scratch. -/
def EngineRow.reading (f : Eng → State → List (Nat × Nat)) (r : EngineRow) : EngineRow := { r with reads := f }
def EngineRow.writing (f : Eng → State → List (Nat × Nat)) (r : EngineRow) : EngineRow := { r with writes := f }

/-- The value of the register `n` after `a`. -/
def engReg (e : Eng) (a : Fin 128) (n : Nat) : Nat := (e.s (nextS a n)).toNat

/-- A tile of the engine's core replaced. -/
def withTile (s : State) (e : Eng) (t : Fin 16) (m : Memory) : State :=
  s.modCore e.c fun k => { k with tiles := k.tiles.set t m }

/-- The bytes of a tile's rows in scratch, at an offset and a pitch, and those rows as register `v` places them. -/
def tileSpan (t : Tile) (pitch : Nat) : Nat := (t.rows - 1) * pitch + t.rowBytes
def tileRows (t : Tile) (v : DWord) : List (Nat × Nat) := (List.range t.rows).map fun r => (tileOff v + r * tilePitch v t, t.rowBytes)

/-- A span of scratch, none when it is empty. -/
def span (o n : Nat) : List (Nat × Nat) := if n = 0 then [] else [(o, n)]

/-- The product of two tiles (R263), and the sparse one (R264), as MMA and MMAS run it on operation word `m`. -/
def denseProduct (s : State) (e : Eng) (tx ty : Fin 16) (m : Nat) : Product :=
  let x := s.tile e tx
  let y := s.tile e ty
  let kb := blockSize x.desc
  ⟨x.rows, y.rows, x.cols / kb, opAcc m, s.scaleOf e x.desc (opScaleA m) (x.cols / kb), s.scaleOf e y.desc (opScaleB m) (x.cols / kb),
    fun i j b => (List.range kb).map fun k => (x.value i (b * kb + k), y.value j (b * kb + k))⟩
def sparseProduct (s : State) (e : Eng) (tx ty : Fin 16) (m : Nat) : Product :=
  let x := s.tile e tx
  let y := s.tile e ty
  let md := s.tile e (Fin.ofNat 16 (tx.val + 1))
  let kb := blockSize x.desc
  let nb := 2 * x.cols / kb
  ⟨x.rows, y.rows, nb, opAcc m, s.scaleOf e x.desc (opScaleA m) nb, s.scaleOf e y.desc (opScaleB m) nb,
    fun i j b => (List.range (kb / 4)).flatMap fun q =>
      let g := b * kb / 4 + q
      [(x.value i (2 * g), y.value j (4 * g + (keptAt md i g).1)), (x.value i (2 * g + 1), y.value j (4 * g + (keptAt md i g).2))]⟩

/-- What the registers of an ACCST say (R266): the accumulator's offset, the block's size, where it goes, and the three formats with
the factors of the two inputs, 1 where a slot has no scale register. -/
structure Readout where
  acc : Nat
  rows : Nat
  cols : Nat
  dst : Nat
  pitchField : Nat
  desc : Word
  da : Word
  db : Word
  sA : Word
  sB : Word
  deriving DecidableEq, Repr

/-- The registers from `a` on as an ACCST through slot `fs` reads them. -/
def readoutOf (e : Eng) (fs : Fin 8) (a : Fin 128) : Readout :=
  let v := engReg e a 0
  let da := e.grid.fmt.get (Fin.ofNat 8 (field v 48 3))
  let db := e.grid.fmt.get (Fin.ofNat 8 (field v 52 3))
  let factor (d : Word) (n : Nat) : Word := if slotSck d = 1 ∨ slotSck d = 2 then BitVec.ofNat 32 (field n 0 32) else 0x3F800000
  ⟨opAcc v, field v 32 8, field v 40 8, field (engReg e a 1) 32 32, field (engReg e a 2) 32 32, e.grid.fmt.get fs, da, db,
    factor da (engReg e a 1), factor db (engReg e a 2)⟩

/-- The bytes of its rows, their pitch, and those from its first to its last. -/
def Readout.rowBytes (r : Readout) : Nat := ceilDiv (r.cols * slotWidth r.desc) 8
def Readout.pitch (r : Readout) : Nat := if r.pitchField = 0 then r.rowBytes else r.pitchField
def Readout.span (r : Readout) : Nat := (r.rows - 1) * r.pitch + r.rowBytes
def Readout.spans (r : Readout) : List (Nat × Nat) := (List.range r.rows).map fun k => (r.dst + k * r.pitch, r.rowBytes)

/-- The matrix instructions, but TTRN. -/
def engineRow (i : Instr) : Option EngineRow :=
  match i with
  | .tcfg t a st => some (engine st 1 a
      (fun e _ =>
        let v := engReg e a 0
        let w : Word := BitVec.ofNat 32 v
        field v 32 32 = 0 ∧ field v 3 1 = 0 ∧ field v 20 12 = 0 ∧ slotKind (e.grid.fmt.get (tshSlot w)) ≠ 0 ∧ 1 ≤ field v 4 4 ∧
          field v 4 4 ≤ 8 ∧ tshCols w ≠ 0 ∧ tshCols w % 16 = 0 ∧
          tshRows w * tshCols w * slotWidth (e.grid.fmt.get (tshSlot w)) / 8 ≤ 16384)
      (fun _ _ => 2)
      fun e s => s.modCore e.c fun k =>
        { k with tsh := k.tsh.set t (BitVec.ofNat 32 (engReg e a 0)), tiles := k.tiles.set t [] })
  | .tld t a st => some (.reading (fun e s => tileRows (s.tile e t) (e.s (nextS a 0))) <| engine st 1 a
      (fun e s => firstFailed (tileChecks e (s.tile e t) t (e.s (nextS a 0))) = none)
      (fun e s =>
        let y := s.tile e t
        let v := e.s (nextS a 0)
        4 + ceilDiv y.size 256 + s.bridge e (tileOff v) (tileSpan y (tilePitch v y)))
      fun e s =>
        let y := s.tile e t
        let v := e.s (nextS a 0)
        withTile s e t (Memory.store [] 0 ((List.range y.rows).flatMap fun r =>
          s.scratchBytes e.c e.t (tileOff v + r * tilePitch v y) y.rowBytes)))
  | .tst t a st => some (.writing (fun e s => tileRows (s.tile e t) (e.s (nextS a 0))) <| engine st 1 a
      (fun e s => firstFailed (tileChecks e (s.tile e t) t (e.s (nextS a 0))) = none)
      (fun e s =>
        let y := s.tile e t
        let v := e.s (nextS a 0)
        4 + ceilDiv y.size 256 + s.bridge e (tileOff v) (tileSpan y (tilePitch v y)))
      fun e s =>
        let y := s.tile e t
        let v := e.s (nextS a 0)
        (List.range y.rows).foldl (fun u r => u.scratchStore e.c e.t (tileOff v + r * tilePitch v y)
          (y.bytes.bytes (r * y.rowBytes) y.rowBytes)) s)
  | .tzero t st => some (engine st 0 0 (fun e s => (s.tile e t).rows ≠ 0) (fun _ _ => 2) fun e s => withTile s e t [])
  | .scld a st => some (.reading (fun e _ => span (field (engReg e a 0) 0 32) (field (engReg e a 1) 32 18)) <| engine st 2 a
      (fun e _ =>
        let src := field (engReg e a 0) 0 32
        let dst := field (engReg e a 1) 0 17
        let len := field (engReg e a 1) 32 18
        field (engReg e a 0) 32 32 = 0 ∧ field (engReg e a 1) 17 15 = 0 ∧ field (engReg e a 1) 50 14 = 0 ∧ dst + len ≤ 0x20000 ∧
          (len = 0 ∨ src + len ≤ e.grid.scratchBytes) ∧ src % 16 = 0 ∧ dst % 16 = 0 ∧ len % 16 = 0)
      (fun e s => 4 + ceilDiv (field (engReg e a 1) 32 18) 256 + s.bridge e (field (engReg e a 0) 0 32) (field (engReg e a 1) 32 18))
      fun e s =>
        let bytes := s.scratchBytes e.c e.t (field (engReg e a 0) 0 32) (field (engReg e a 1) 32 18)
        s.modCore e.c fun k => { k with scale := k.scale.store (field (engReg e a 1) 0 17) bytes })
  | .mma tx ty a st => some (engine st 1 a
      (fun e s => firstFailed (productChecks e (s.tile e tx) (s.tile e ty) tx (engReg e a 0) (s.tile e tx).cols false
        (wordOf (.mma tx ty a st))) = none)
      (fun e s => ceilDiv ((s.tile e tx).rows * (s.tile e ty).rows * (s.tile e tx).cols) (macRate (s.tile e tx).w))
      fun e s => s.runProduct e (denseProduct s e tx ty (engReg e a 0)))
  | .mmas tx ty a st => some (engine st 1 a
      (fun e s => firstFailed (productChecks e (s.tile e tx) (s.tile e ty) tx (engReg e a 0) (2 * (s.tile e tx).cols)
        (metaBad (s.tile e tx) (s.tile e (Fin.ofNat 16 (tx.val + 1)))) (wordOf (.mmas tx ty a st))) = none)
      (fun e s => ceilDiv ((s.tile e tx).rows * (s.tile e ty).rows * (2 * (s.tile e tx).cols)) (2 * macRate (s.tile e tx).w))
      fun e s => s.runProduct e (sparseProduct s e tx ty (engReg e a 0)))
  | .accz a st => some (engine st 1 a
      (fun e _ =>
        let v := engReg e a 0
        rangeReserved v = false ∧ opAcc v + rangeLen v ≤ e.grid.accBytes ∧ opAcc v % 64 = 0 ∧ rangeLen v % 64 = 0)
      (fun e _ => 4 + ceilDiv (rangeLen (engReg e a 0)) 1024)
      fun e s => (List.range (rangeLen (engReg e a 0) / 4)).foldl (fun u k => u.putAcc e (opAcc (engReg e a 0) + 4 * k) 0) s)
  | .accld a st => some (.reading (fun e _ => span (field (engReg e a 1) 0 32) (rangeLen (engReg e a 0))) <| engine st 2 a
      (fun e _ =>
        let v := engReg e a 0
        let w := engReg e a 1
        rangeReserved v = false ∧ field w 32 32 = 0 ∧ opAcc v + rangeLen v ≤ e.grid.accBytes ∧
          (rangeLen v = 0 ∨ field w 0 32 + rangeLen v ≤ e.grid.scratchBytes) ∧ opAcc v % 64 = 0 ∧ rangeLen v % 64 = 0 ∧ field w 0 32 % 16 = 0)
      (fun e s => 4 + ceilDiv (rangeLen (engReg e a 0)) 256 + s.bridge e (field (engReg e a 1) 0 32) (rangeLen (engReg e a 0)))
      fun e s => (List.range (rangeLen (engReg e a 0) / 4)).foldl (fun u k => u.putAcc e (opAcc (engReg e a 0) + 4 * k)
        (BitVec.ofNat 32 (s.scratchNum e.c e.t (field (engReg e a 1) 0 32 + 4 * k) 4))) s)
  | .accst fs a st => some (.writing (fun e _ => (readoutOf e fs a).spans) <| engine st 3 a
      (fun e _ =>
        let r := readoutOf e fs a
        field (engReg e a 0) 22 10 = 0 ∧ field (engReg e a 0) 51 1 = 0 ∧ field (engReg e a 0) 55 9 = 0 ∧
          r.acc + 4 * r.rows * r.cols ≤ e.grid.accBytes ∧ r.dst + r.span ≤ e.grid.scratchBytes ∧ r.acc % 64 = 0 ∧ r.dst % 4 = 0 ∧
          r.pitchField % 4 = 0 ∧ (slotFmt r.desc).isSome = true ∧ slotKind r.desc ≠ 0 ∧ slotKind r.da ≠ 0 ∧ slotKind r.db ≠ 0 ∧
          1 ≤ r.rows ∧ r.rows ≤ 128 ∧ 1 ≤ r.cols ∧ r.cols ≤ 128 ∧ (slotWidth r.desc = 4 → r.cols % 2 = 0) ∧
          (r.pitchField = 0 ∨ r.rowBytes ≤ r.pitchField))
      (fun e s =>
        let r := readoutOf e fs a
        8 + ceilDiv (r.rows * r.cols * 4) 256 + s.bridge e r.dst r.span)
      fun e s => match slotFmt (readoutOf e fs a).desc with
        | none => s
        | some f =>
          let r := readoutOf e fs a
          let row (k : Nat) : List Nat × Flags := s.readoutRow e r.acc r.cols k r.sA r.sB r.desc f
          let u := (List.range r.rows).foldl (fun u k => u.scratchStore e.c e.t (r.dst + k * r.pitch)
            (packRow (slotWidth r.desc) (row k).1)) s
          let flags : Flags := (List.range r.rows).foldl (fun fl k => fl ||| (row k).2) 0
          u.modCore e.c fun k => { k with mflags := k.mflags ||| flags })
  | .mfrd d clr st => some ⟨[d], [], st.val, fun _ _ => True, fun _ _ => 2,
      fun e s => if clr then s.modCore e.c fun k => { k with mflags := 0 } else s,
      fun e s => some (d, BitVec.ofNat 64 (s.core e.c).mflags.toNat), fun _ _ => [], fun _ _ => []⟩
  | _ => none

/-- A matrix instruction whose effect on the state is `after` (R255): the group that issued it goes on, held until its cycles have
passed; on a pair its reads of scratch note promotion tags and its writes set them (R102, R104). -/
def EngineRow.Done (r : EngineRow) (s : State) (x : Ctx) (i : Instr) : Prop :=
  let e : Eng := ⟨x.c, x.t, x.grid, x.gid.val, x.g.s.get⟩
  let noted := (r.reads e s).foldl (fun g w => s.noteSpan x w.1 w.2 g) x.g
  s.Completes (((r.writes e s).foldl (fun u w => u.tagSpan x w.1 w.2) (r.after e s)).takeEngine x.c (.group x.c x.gid) (r.cycles e s)) x i
    { noted with engHeld := true, s := (r.write e s).elim x.g.s fun w => x.g.s.set w.1 w.2 } (fun _ => x.pc + 4) r.st x.act [] []

/-- The same of a matrix stream. -/
def EngineRow.DoneStream (r : EngineRow) (s : State) (y : SCtx) (i : Instr) : Prop :=
  let e : Eng := ⟨y.c, y.t, y.grid, 0, y.st.s.get⟩
  s.StreamCompletes ((r.after e s).takeEngine y.c (.stream y.c y.copy) (r.cycles e s)) y i
    { y.st with engHeld := true, s := (r.write e s).elim y.st.s fun w => y.st.s.set w.1 w.2 } (y.st.pc + 4) r.st

end Sys2Proof.Certificates
end

