-- ==== Sys2Proof/Certificates/Slice0/Terms.lean ====
section
/-! DEFINITION. The words in which the statements about control flow, exceptions and commands are said. -/
namespace Sys2Proof.Certificates
open Sys2Proof.Machine

/-- What a step answers when the agent `who`, offered the issue in `s`, has fetched `i`, which leaves `u`: the outcome of `exec` there,
with the issue slot that the instruction took marked (R339). -/
def ran (s u : State) (who : Agent) (i : Instr) : Host.Outcome State Fault Refusal :=
  match exec i u with
  | .next t => .next (State.slotTaken s t who i).keepRets
  | .fault f => .fault f
  | .refused r => .refused r

/-- Device memory and every core's pool, scale store and tiles are in canonical form. -/
def memsWf (s : State) : Prop :=
  s.memWf ∧ ∀ c, (s.core c).pool.wf = true ∧ (s.core c).scale.wf = true ∧ ∀ t, ((s.core c).tiles.get t).wf = true

/-- No die's locked reserved-frame map, 0x30000 bytes, holds one of the `n` bytes at `a` (R296). -/
def Unlocked (s : State) (a n : Nat) : Prop := ∀ d, (s.die d).krlock = false ∨
  a + n ≤ field (s.die d).krmap.toNat 12 36 * 4096 ∨ field (s.die d).krmap.toNat 12 36 * 4096 + 0x30000 ≤ a

/-- The memory after the device writes a little-endian field of `n` bytes at a physical address: all but what is locked (R296). -/
def storedField (s : State) (a n v : Nat) : Memory := s.stored a (leBytes n v)

/-- Whether an address may be branched to: even and inside the group's section (R173). -/
def goodTarget (s : State) (x : Ctx) (a : Word) : Prop := a.toNat % 2 = 0 ∧ a.toNat < s.codeLen x.c x.gid x.g

/-- The target of an offset counted in parcels (R130). -/
def targetAt {w : Nat} (pc : Word) (off : BitVec w) : Word := BitVec.ofInt 32 ((pc.toNat : Int) + 2 * off.toInt)

/-- A branch of the lanes `take` completes: each lane of ACT stands at the target or at the next instruction, and nothing else
changes but what `h` says of the group. -/
def Branches (s : State) (x : Ctx) (i : Instr) (h : Group) (target : Word) (take : Fin 64 → Bool) (st : Nat) : Prop :=
  (∀ p, x.act.has p = true → take p = true → goodTarget s x target) →
  (s.Inside x fun p => if take p then target else x.pc + 4) →
  s.Completes s x i h (fun p => if take p then target else x.pc + 4) st x.act [] []

/-- A group that would settle unchanged: no handler, no delivery due, some lane running, and none past the section's end. -/
def Settled (s : State) (c gid : Fin 128) (g : Group) : Prop :=
  g.hmode = false ∧ g.dels = [] ∧ (∃ p, g.lst.get p = .running) ∧ ∀ p, g.lst.get p = .running → (g.lpc.get p).toNat ≠ s.codeLen c gid g

/-- A delivery of the lanes `m` of the group of `x` can begin: no handler runs in the group, a valid handler is installed, its
partition's bank is free, no older group waits for it, and the handler does not start past its end (R297, R298, R300). -/
def HandlerFree (s : State) (x : Ctx) : Prop :=
  x.g.hmode = false ∧ x.g.halted = false ∧ (s.core x.c).trapvec.getLsbD 0 = true ∧
  (∃ b, s.handler x.c x.gid x.g = some b ∧ (s.handlerEntry x.c).toNat ≠ b.hlen.toNat) ∧
  (s.core x.c).banks.get x.g.part = none ∧ s.olderPending x.c x.gid x.g = false

/-- The group `g` has entered a handler (R301): the lanes of ACT stand at HENTRY and are those in handler mode, the record `ws` is
in S112 to S119, S120 to S127 are 0, and everything below S112 and the threads are as they were. -/
def EnteredHandler (s : State) (x : Ctx) (g : Group) (ws : List DWord) : Prop :=
  (∀ p, g.lpc.get p = if x.act.has p then s.handlerEntry x.c else x.g.lpc.get p) ∧ g.hlanes = x.act ∧ g.tid = x.g.tid ∧
  (∀ i : Fin 128, g.s.get i = if i.val < 112 then x.g.s.get i else if i.val < 120 then ws.getD (i.val - 112) 0 else 0) ∧
  g.k = x.g.k ∧ g.depth = x.g.depth

/-- The privileged instructions with the uniform registers that each waits for and reads (R185 to R190). -/
def privileged (i : Instr) : Option (List (Fin 128) × List Nat) :=
  match i with
  | .crr d _ _ => some ([lowS d], [])
  | .crw a _ _ => some ([lowS a], [keyS (lowS a)])
  | .xlinv a _ => some ((List.range 4).map (nextS (lowS a)), ((List.range 4).map (nextS (lowS a))).map keyS)
  | .ctxsv a _ => some ([lowS a, nextS (lowS a) 1], [keyS (lowS a), keyS (nextS (lowS a) 1)])
  | .ctxld a _ => some ([lowS a, nextS (lowS a) 1], [keyS (lowS a)])
  | .eret _ => some ([], [keyS 113])
  | .idle _ => some ([], [])
  | _ => none

/-- The front end of die `d` takes the command of queue `q` next, and it is `n`, with no reserved bit set (R317). -/
def Taken (s : State) (d : Fin 4) (q : Byte) (n : Nat) : Prop :=
  s.pkg.mbstate = .running ∧ s.nextQueue d = some q.toNat ∧ (s.commandOf d q.toNat).opc = n ∧ (s.commandOf d q.toNat).zero = true

/-- The 64 bytes of a REJECT's header (R397): KIND 5, its own sequence number, that of the message it rejects, and the status. -/
def rejectBytes (own seq : Word) (status : Byte) : List Byte :=
  leBytes 8 (5 + own.toNat * 2 ^ 32) ++ leBytes 8 (seq.toNat + status.toNat * 2 ^ 32) ++ List.replicate 48 0

end Sys2Proof.Certificates
end

