-- ==== Sys2Proof/Certificates/Slice0/Obligations.lean ====
section
/-! DEFINITION. The statements for the provers. Each docstring names the rules of the specification that a statement rests on. -/
section
open Sys2Proof Sys2Proof.Machine Sys2Proof.Certificates

/-! ### Decoding, the step, memory and reset -/

/-- R128, R134, R142: decoding is exact on the encodings. Every well-formed instruction that has a code is read back from that code, whole and
from its bytes with its length. -/
def Obligations.DecodeOfEncode : Prop :=
  ∀ (i : Instr) (c : Code), encode i = some c → i.wellFormed = true →
    decodeCode c = .ok i ∧ decodeBytes c.bytes = .ok (i, if c.wide then 4 else 2)

/-- R123, R128, R133, R134, R142: each 32-bit word with LEN 1, and each parcel with LEN 0, that decodes is the code of what it decodes to,
which is well formed: two words never decode to one instruction, and no set reserved bit is passed over. -/
def Obligations.EncodeOfDecode : Prop :=
  (∀ w i, w < 2 ^ 32 → w % 2 = 1 → decode32 w = .ok i → encode i = some ⟨true, w⟩ ∧ i.wellFormed = true) ∧
  ∀ p, p < 2 ^ 16 → p % 2 = 0 → encode (decode16 p) = some ⟨false, p⟩ ∧ (decode16 p).wellFormed = true

/-- The words of the encoding examples that the specification works out bit by bit: each decodes to its instruction. -/
def Obligations.DecodeWords : Prop :=
  decode32 0x1210B0E7 = .ok (.ffma 5 2 (.v 9) true false 3) ∧ decode32 0x8A1C8063 = .ok (.sadd 100 3 70 1) ∧
  decode32 0xFE0EA6C1 = .ok (.brb 0xFE0 7 5 0) ∧ decode32 0x84088941 = .ok (.imad 4 1 (.s 2) false false 0) ∧
  decode32 0x2A213401 = .ok (.pk4 1 5 9 4 false 0) ∧ decode32 0x082579D1 = .ok (.cntwait .dev 4 5 0) ∧
  decode32 0x4628FA41 = .ok (.mmas 4 6 20 0) ∧ decode32 0x000865C1 = .ok (.crw 3 0 0) ∧ decode32 0x010085C1 = .ok (.crr 4 4 0)

/-- R123, R142, R301, R339, and the model's order of actions (log entries 2 and 3): when the next action is the issue of an agent that may
issue, and the bytes at its next address decode to an instruction, the step is `exec` of that instruction, with the issue slot that it
took marked; bytes that decode to none, and a first parcel with LEN 1 that is the section's last, fault the group's ACT, or the stream,
with ILLOP. The bytes are those of the frame that the address translates to, where that is a vault's and nothing holds the access or
is in error. An event is `exec` of it. After a step the entries of the spaces being retired still read RET = 1 (R314).
The model's choices that it rests on: log entries 78, 86, 97. -/
def Obligations.StepRunsDecoded : Prop :=
  (∀ (s : State) (rest : List Action) (who : Agent),
    let s0 : State := { s with agenda := rest }
    let s1 : State := { s0 with cur := some who }
    (s.agenda = .issue who :: rest ∨ s.agenda = [] ∧ rest = [] ∧ s.nextAction = .issue who) → s0.ready who = true →
    let runs (w : Fetcher) (va : DWord) (room : Nat) (illegal : State → DWord → State) : Prop :=
      ∀ lo t, s1.fetchParcel w va Config.unfetchedWide = (.ok lo, t) →
        (∀ i, leNat lo % 2 = 0 → decodeBytes lo = .ok (i, 2) → step s = ran s0 t who i) ∧
        (leNat lo % 2 = 1 → room < 4 → step s = .next (illegal t (BitVec.ofNat 64 (leNat lo))).keepRets) ∧
        ∀ hi u, leNat lo % 2 = 1 → 4 ≤ room → t.fetchParcel w (va + 2) true = (.ok hi, u) →
          (∀ i, decodeBytes (lo ++ hi) = .ok (i, 4) → step s = ran s0 u who i) ∧
          ∀ e, decodeBytes (lo ++ hi) = .error e →
            step s = .next (illegal u (BitVec.ofNat 64 (leNat (lo ++ hi)))).keepRets
    (∀ x : Ctx, who = .group x.c x.gid → s1.ctxOf x.c x.gid = some x → ¬(x.g.stop = .atSafePoint ∧ x.atSafePoint s1 = true) →
      runs (s1.groupFetcher x) (s1.fetchVa x) (s1.groupRoom x)
        fun u bits => u.faultAll x { ctl 0 [] with wide := bits.getLsbD 0 } 0x05 0 bits 0) ∧
    (∀ y : SCtx, who = .stream y.c y.copy → s1.sctx = some y → y.st.pc.toNat < y.grid.kern.len →
      runs y.fetcher (y.grid.kern.base + y.st.pc.setWidth 64) y.room
        fun u bits => u.streamFault y 0x05 .other 0 bits 0 (bits.getLsbD 0))) ∧
  (∀ (s t : State) (w : Fetcher) (va : DWord) (wide : Bool) (pa xl : Nat), s.translate w.c w.space va .load .fetch (some (w.gid.val, w.space)) = (.ok pa xl, t) →
    inVault pa = true → t.linkHeld w.c pa = false → Sound t → s.fetchParcel w va wide = (.ok (t.mem.bytes pa 2), t)) ∧
  ∀ (s : State) (rest : List Action) (i : Instr), s.agenda = .happen i :: rest → encode i = none →
    step s = rested (exec i { s with agenda := rest, cur := none })

/-- The model's own form of memory: device memory and every pool, scale store and tile stay in canonical form, whatever a step does, from
any state in which they are.
The model's choices that it rests on: log entry 4. -/
def Obligations.StepKeepsMemory : Prop :=
  ∀ s t : State, memsWf s → step s = .next t → memsWf t

/-- R296, R361, R385, R392, R395: the values at reset that the register tables give; the other fields of these registers (CORESTAT.CAP,
ENVSTAT.LIVE, THERM.TMAX) have none. Memory is in canonical form.
The model's choices that it rests on: log entry 4. -/
def Obligations.ResetState : Prop :=
  let s := State.reset
  memsWf s ∧
  (∀ c : Fin 128, s.readReg c 0x008 = BitVec.allOnes 64 ∧ s.readReg c 0x00A = 65536 ∧ s.readReg c 0x110 = 50 + 72 * 2 ^ 8 + 50 * 2 ^ 16 ∧
    (s.readReg c 0x009).toNat / 4 = 0 ∧ (s.readReg c 0x114).toNat / 16 = 0 ∧ (s.readReg c 0x115).toNat / 256 = 0 ∧
    (∀ sel ∈ [0x000, 0x001, 0x002, 0x003, 0x004, 0x006, 0x007, 0x00B, 0x00C, 0x00D, 0x100, 0x102, 0x103, 0x104, 0x111, 0x112, 0x113,
      0x116, 0x117, 0x118, 0x119, 0x130, 0x131, 0x132, 0x133, 0x134, 0x136], s.readReg c sel = 0) ∧
    ∀ sel, (0x120 ≤ sel ∧ sel ≤ 0x12B) ∨ (0x140 ≤ sel ∧ sel ≤ 0x14F) → s.readReg c sel = 0) ∧
  s.pkg.mbstate = .booting ∧ s.pkg.failcode = 0 ∧ s.pkg.linkdn = 0 ∧ s.pkg.mbarg = 0 ∧ s.pkg.doneCmd = 0 ∧ s.pkg.doneStatus = 0 ∧
  s.pkg.doneSeq = 0 ∧ s.pkg.quoteSeq = 1

/-! ### Lane, mask and uniform instructions of a group -/

/-- R192, R193, R204, R206 to R210: every lane instruction on binary32 or packed binary16 values completes with the rounded result
in the lanes of ACT, joins the flags raised to XFLAGS, and changes nothing else.
The model's choices that it rests on: log entries 24, 29. -/
def Obligations.LaneFloatResult : Prop :=
  ∀ i row (s : State) x, laneFloat i = some row → row.Runs s x → row.Done s x i

/-- R20, R21, R212 to R218: every shuffle, broadcast, match, reduction and scan completes with its value in the lanes of ACT, and
changes nothing else but XFLAGS. -/
def Obligations.LaneCrossResult : Prop :=
  ∀ i row (s : State) x, laneCross i = some row → row.Runs s x → row.Done s x i

/-- R131, R197: IADD64 completes with the wrapping 64-bit sum in the register pair of D in the lanes of ACT, the low word in the
even register, and changes nothing else; B is a pair or a whole uniform register. R192, R193, R195 to R200 and R204: every
lane instruction on integers completes with its exact result narrowed to 32 bits in the lanes of ACT, raises no flag, and
changes nothing else. R34, R182: TID, HLANE, RANK and TEAM complete with each lane's identity in the lanes of ACT, and change
nothing else. -/
def Obligations.LaneIntegerResult : Prop :=
  (∀ (d a : Fin 64) (b : Mixed) (la lb : Bool) (st : Fin 8) (s : State) (x : Ctx), d.val % 2 = 0 →
     let sum (p : Fin 64) : Nat := (x.g.readV a p).toNat + 2 ^ 32 * (x.g.readV (nextV a 1) p).toNat + (match b with
       | .v r => (x.g.readV r p).toNat + 2 ^ 32 * (x.g.readV (nextV r 1) p).toNat
       | .s r => (x.g.s.get (lowS r)).toNat)
     let wide (r : Fin 64) (last : Bool) := lastOf r last ++ lastOf (nextV r 1) last
     let more : List Nat := match b with
       | .v r => [keyV (nextV r 1)]
       | .s _ => []
     s.Issues x (mixedToks b) (keyV a :: keyV (nextV a 1) :: mixedUses b ++ more) →
     s.alloc x.c x.gid x.g x.t x.grid [d, nextV d 1] = .ok → (s.Inside x fun _ => x.pc + 4) →
     s.Completes s x (.iadd64 d a b la lb st) x.g (fun _ => x.pc + 4) st.val x.act
       (wide a la ++ (match b with
         | .v r => wide r lb
         | .s _ => []))
       [(d, fun p => BitVec.ofNat 32 (sum p)), (nextV d 1, fun p => BitVec.ofNat 32 (sum p / 2 ^ 32))]) ∧
  (∀ i row (s : State) x, laneInt i = some row → row.Runs s x → row.Done s x i) ∧
  ∀ i row (s : State) x, laneIdentity i = some row → row.Runs s x → row.Done s x i

/-- R84, R210: a conversion through a format slot whose descriptor it accepts completes with the converted value in the lanes of
ACT; with one that it does not accept, or that names no format, every lane of ACT faults with SLOT and nothing else happens, but with
BOUND, the lower code (R9), where its register would also pass the ceiling.
The model's choices that it rests on: log entry 105. -/
def Obligations.LaneSlotResult : Prop :=
  ∀ i row (s : State) x, laneSlot i = some row →
    (∀ F, slotFmt (x.grid.fmt.get row.fs) = some F → row.accepts (x.grid.fmt.get row.fs) = true →
      (row.row (x.grid.fmt.get row.fs) F).Runs s x → (row.row (x.grid.fmt.get row.fs) F).Done s x i) ∧
    (∀ F, (slotFmt (x.grid.fmt.get row.fs) = none ∨ row.accepts (x.grid.fmt.get row.fs) = false) →
      s.Issues x (row.row (x.grid.fmt.get row.fs) F).toks (row.row (x.grid.fmt.get row.fs) F).uses →
      (s.alloc x.c x.gid x.g x.t x.grid [(row.row (x.grid.fmt.get row.fs) F).d] ≠ .ceiling →
        ∃ sh, exec i s = .next (s.faultAll x sh 0x0D 0 (BitVec.ofNat 64 row.fs.val) 0)) ∧
      (s.alloc x.c x.gid x.g x.t x.grid [(row.row (x.grid.fmt.get row.fs) F).d] = .ceiling →
        ∃ sh, exec i s = .next (s.faultAll x sh 0x01 0 2 0)))

/-- R201 to R205: a comparison, a vote or a mask operation completes with its bits in the lanes of ACT of the destination mask,
and changes nothing else but the flags that a comparison raises. -/
def Obligations.MaskWriteResult : Prop :=
  ∀ i row (s : State) x, maskWrite i = some row → s.Issues x row.toks row.uses → (s.Inside x fun _ => x.pc + 4) → row.Done s x i

/-- R166 to R170: uniform arithmetic of a group completes with S[d] holding the value computed from the registers as they were,
and changes nothing else. R166, R269: the same arithmetic in a stream writes the stream's own S[d], moves the stream on, and
changes nothing else. -/
def Obligations.UniformResult : Prop :=
  (∀ i row (s : State) x, uniform i = some row → s.Issues x (row.d :: row.srcs) (row.srcs.map keyS) → (s.Inside x fun _ => x.pc + 4) →
     s.Completes s x i { x.g with s := x.g.s.set row.d (row.value x.g.s.get) } (fun _ => x.pc + 4) row.st x.act [] []) ∧
  ∀ i row (s : State) y, uniform i = some row → s.StreamIssues y (row.d :: row.srcs) →
    s.StreamCompletes s y i { y.st with s := y.st.s.set row.d (row.value y.st.s.get) } (y.st.pc + 4) row.st

/-- R19, R172, R182, R183, R205: the reads of a group's width and place, of the clocks, of one lane and of a mask complete with
S[d] holding what they read, and change nothing else. -/
def Obligations.UniformReadResult : Prop :=
  ∀ i row (s : State) x, uniformRead i = some row → s.Issues x row.srcs row.uses → (s.Inside x fun _ => x.pc + 4) →
    s.Completes s x i { x.g with s := x.g.s.set row.d (row.value s x) } (fun _ => x.pc + 4) row.st x.act [] []

/-! ### Control flow of a group -/

/-- R30, R31, R175: a group that may not take part in a regroup (a lane elsewhere, a queue in use or an asynchronous operation)
takes a BRM as an ordinary branch; one that may, while another group of its team runs on, waits at the BRM with every lane
where it stood.
The model's choices that it rests on: log entry 110. -/
def Obligations.RegroupBranchResult : Prop :=
  ∀ (s : State) (x : Ctx) (st : Fin 8) (neg : Bool) (off : BitVec 16) (k : Fin 8), s.Issues x [] [keyK k.val] → x.g.brm = none →
    (s.mayRegroup x = false →
      Branches s x (.brm off k neg st) x.g (targetAt x.pc off) (fun p => (x.g.mask k).has p != neg) st.val) ∧
    (s.mayRegroup x = true → goodTarget s x (targetAt x.pc off) → (s.Inside x fun _ => x.pc) →
      (∃ e ∈ s.teamGroups x.c x.g.team, e.1 ≠ x.gid) →
      (∀ e ∈ s.teamGroups x.c x.g.team, e.1 ≠ x.gid → e.2.brm = none ∧ Settled s x.c e.1 e.2) →
      ∃ t g, exec (.brm off k neg st) s = .next t ∧ t.group x.c x.gid = some g ∧
        g.brm = some ⟨x.pc, targetAt x.pc off, k, neg, 0⟩ ∧ g.lpc = x.g.lpc ∧ g.tid = x.g.tid)

/-- R130, R173, R174: BRC takes the lanes of ACT whose mask bit differs from NEG to the target, and BRU takes all of them or none
by a uniform register. R37, R176: LENTER sets a loop counter to 0; BRB adds 1 to it and takes the lanes of ACT whose mask bit
is 1 to the target, while the count stays within the loop's declared bound; beyond the bound every lane of ACT faults with
BOUND, cause 0 and the loop's id. -/
def Obligations.BranchResult : Prop :=
  (∀ (s : State) (x : Ctx) (st : Fin 8) (neg : Bool),
     (∀ (off : BitVec 16) (k : Fin 8), s.Issues x [] [keyK k.val] →
       Branches s x (.brc off k neg st) x.g (targetAt x.pc off) (fun p => (x.g.mask k).has p != neg) st.val) ∧
     (∀ (off : BitVec 13) (r : Fin 64), s.Issues x [lowS r] [keyS (lowS r)] →
       Branches s x (.bru off r neg st) x.g (targetAt x.pc off) (fun _ => decide (x.g.s.get (lowS r) ≠ 0) != neg) st.val)) ∧
  ∀ (s : State) (x : Ctx) (st : Fin 8) (lid : Fin 64) (n : Nat), s.loopBound x.c x.gid x.g x.grid lid = some n →
    (s.Issues x [] [] → (s.Inside x fun _ => x.pc + 4) →
      s.Completes s x (.lenter lid st) { x.g with loops := x.g.loops.set lid 0 } (fun _ => x.pc + 4) st.val x.act [] []) ∧
    (∀ (off : BitVec 12) (k : Fin 8), s.Issues x [] [keyK k.val] →
      ((x.g.loops.get lid).toNat + 1 ≤ n →
        Branches s x (.brb off k lid st)
          { x.g with loops := x.g.loops.set lid (BitVec.ofNat 32 ((x.g.loops.get lid).toNat + 1)) } (targetAt x.pc off)
          (fun p => (x.g.mask k).has p) st.val) ∧
      (n < (x.g.loops.get lid).toNat + 1 →
        ∃ sh, exec (.brb off k lid st) s = .next (s.faultAll x sh 0x01 0 0 (BitVec.ofNat 64 lid.val))))

/-- R38, R177, R178, R179: CALL and CALLI put the address of the next instruction into V63, go one level deeper and continue at
the target; RET goes back to V63 one level up. -/
def Obligations.CallResult : Prop :=
  ∀ (s : State) (x : Ctx) (st : Fin 8),
    let deeper : Group := { x.g with depth := Tab.ofFn fun p => if x.act.has p then x.g.depth.get p + 1 else x.g.depth.get p }
    let shallow : Group := { x.g with depth := Tab.ofFn fun p => if x.act.has p then x.g.depth.get p - 1 else x.g.depth.get p }
    let room := x.g.hmode = false ∧ (∀ p, x.act.has p = true → (x.g.depth.get p).toNat < x.grid.kern.depth) ∧
      s.alloc x.c x.gid x.g x.t x.grid [63] = .ok
    (∀ (off : BitVec 21), s.Issues x [] [] → room → goodTarget s x (targetAt x.pc off) → (s.Inside x fun _ => targetAt x.pc off) →
      s.Completes s x (.call off st) deeper (fun _ => targetAt x.pc off) st.val x.act [] [(63, fun _ => x.pc + 4)]) ∧
    (∀ (a : Fin 64) (la : Bool), s.Issues x [] [keyV a] → room →
      (∀ p, x.act.has p = true → goodTarget s x (x.g.readV a p) ∧ (x.pc.toNat, (x.g.readV a p).toNat) ∈ x.grid.kern.targets) →
      s.Inside x (x.g.readV a) →
      s.Completes s x (.calli a la st) deeper (x.g.readV a) st.val x.act (lastOf a la) [(63, fun _ => x.pc + 4)]) ∧
    (s.Issues x [] [keyV 63] → (∀ p, x.act.has p = true → x.g.depth.get p ≠ 0 ∧ goodTarget s x (x.g.readV 63 p)) →
      s.Inside x (x.g.readV 63) →
      s.Completes s x (.ret st) shallow (x.g.readV 63) st.val x.act [] [])

/-- R28, R180, R339: NOP, RCV with no lane parked, YIELD, and BRK with CORECTL.DBG clear go on to the next instruction and change
nothing, but that YIELD moves the pointers of its partition's issue slots to the group after it. -/
def Obligations.NopResult : Prop :=
  ∀ (s : State) (x : Ctx) (st : Fin 8), s.Issues x [] [] → (s.Inside x fun _ => x.pc + 4) →
    s.Completes s x (.nop st) x.g (fun _ => x.pc + 4) st.val x.act [] [] ∧
    ((∀ p, x.g.lst.get p ≠ .parked) → s.Completes s x (.rcv st) x.g (fun _ => x.pc + 4) st.val x.act [] []) ∧
    ((s.core x.c).corectl.getLsbD 1 = false → s.Completes s x (.brk st) x.g (fun _ => x.pc + 4) st.val x.act [] []) ∧
    s.Completes (s.setCore x.c { s.core x.c with
        ring := (s.core x.c).ring.modify x.g.part fun r =>
          { r with vec := s.ringNext x.c x.g.part x.g.age, non := s.ringNext x.c x.g.part x.g.age } })
      x (.yield st) x.g (fun _ => x.pc + 4) st.val x.act [] []

/-- R35, R76, R179: EXIT, and RET at depth 0, end the lanes of ACT and leave the other lanes where they are; unfilled deferred
slots of theirs leave their queue entries. R24, R35: when no lane of a group in no handler is running or parked after its
EXIT, the group leaves its core. -/
def Obligations.ExitResult : Prop :=
  (∀ (s : State) (x : Ctx) (st : Fin 8), (∃ p, x.g.issuing.has p = true ∧ x.act.has p = false) → (s.Inside x fun _ => x.pc) →
     (s.Issues x [] [] → s.Completes s x (.exit st) (x.g.exitLanes x.act) (fun _ => x.pc) st.val x.act [] []) ∧
     (s.Issues x [] [keyV 63] → (∀ p, x.act.has p = true → x.g.depth.get p = 0) →
       s.Completes s x (.ret st) (x.g.exitLanes x.act) (fun _ => x.pc) st.val x.act [] []) ∧
     ∀ p, (x.g.exitLanes x.act).lst.get p = if x.act.has p then .exited else x.g.lst.get p) ∧
  ∀ (s : State) (x : Ctx) (st : Fin 8), s.Issues x [] [] → x.g.hmode = false →
    (∀ p, x.g.lst.get p = .running ∨ x.g.lst.get p = .parked → x.act.has p = true) →
    ∃ t, exec (.exit st) s = .next t ∧ t.group x.c x.gid = none

/-- R269, R270, R272: in a stream BRU and BRB branch, LENTER clears a loop counter, NOP goes on and MEND ends the stream; nothing
else changes. A stream's BRB branches while its count is below the bound. -/
def Obligations.StreamControlResult : Prop :=
  ∀ (s : State) (y : SCtx) (st : Fin 8),
    let good (a : Word) := a.toNat % 2 = 0 ∧ a.toNat < y.grid.kern.len
    (∀ (off : BitVec 13) (r : Fin 64) (neg : Bool), s.StreamIssues y [lowS r] →
      let take := decide (y.st.s.get (lowS r) ≠ 0) != neg
      (take = true → good (targetAt y.st.pc off)) →
      s.StreamCompletes s y (.bru off r neg st) y.st (if take then targetAt y.st.pc off else y.st.pc + 4) st.val) ∧
    (∀ (off : BitVec 12) (lid : Fin 64) (n : Nat), s.StreamIssues y [] →
      (y.grid.kern.loops.find? fun e => e.1 == lid.val) = some (lid.val, n) →
      let c := (y.st.loops.get lid).toNat + 1
      (c < n → good (targetAt y.st.pc off)) →
      s.StreamCompletes s y (.brb off 7 lid st) { y.st with loops := y.st.loops.set lid (BitVec.ofNat 32 c) }
        (if c < n then targetAt y.st.pc off else y.st.pc + 4) st.val ∧
      s.StreamCompletes s y (.lenter lid st) { y.st with loops := y.st.loops.set lid 0 } (y.st.pc + 4) st.val) ∧
    (s.StreamIssues y [] →
      s.StreamCompletes s y (.nop st) y.st (y.st.pc + 4) st.val ∧ exec (.mend st) s = .next (s.setStream y.c y.copy none))

/-! ### Taking an exception, returning from it, and the privileged instructions -/

/-- R180, R297, R301, R303: TRAP, and BRK with CORECTL.DBG set, are delivered to the handler with a record of KIND 3 or 4 whose
SITE is the next instruction; the bank is taken and keeps the group's own registers, loop counters and queues, and all else is as it was:
in the group V0 to V55 but for those pending free, XFLAGS and, while no other lane stands at its section's end, the lane states and Q2
to Q7; in the core all but its groups, the bank, the idle count and a reserve returned; every other group, and the rest of the machine.
The model's choices that it rests on: log entry 108. -/
def Obligations.TrapTaken : Prop :=
  ∀ (s : State) (x : Ctx) (st : Fin 8) (code : BitVec 8), s.Issues x [] [] → HandlerFree s x →
    let ws (kind : Nat) (n : Byte) := recordWords 0 kind .other true false n 0 (x.pc + 4) 0 x.act (x.g.tid.get x.act.first).toNat
      (x.g.home x.act.first) x.gid.val x.c.val 0 x.grid.space 0 0
    let taken (i : Instr) (kind : Nat) (n : Byte) := ∃ t g b, exec i s = .next t ∧ t.group x.c x.gid = some g ∧
      EnteredHandler s x g (ws kind n) ∧ (t.core x.c).banks.get x.g.part = some b ∧ b.gid = x.gid ∧
      b.snap.s = x.g.s ∧ b.snap.loops = x.g.loops ∧ b.snap.q = x.g.q ∧
      (∀ r : Fin 64, (∀ e ∈ x.g.pendFree, e.1 ≠ r) → ∀ p, b.snap.readV r p = x.g.readV r p ∧
        (r.val < 56 → g.readV r p = x.g.readV r p)) ∧
      g.xflags = x.g.xflags ∧ ((s.Inside x fun _ => x.pc) → g.lst = x.g.lst ∧ ∀ q : Fin 8, 2 ≤ q.val → g.q.get q = x.g.q.get q) ∧
      t = { s with cores := t.cores } ∧ (∀ k, k ≠ x.c → t.core k = s.core k) ∧
      (∃ groups banks loan, t.core x.c = { s.core x.c with groups := groups, banks := banks, loan := loan, idleCount := -1 }) ∧
      (∀ p, p ≠ x.g.part → (t.core x.c).banks.get p = (s.core x.c).banks.get p) ∧
      ∀ c i, (c, i) ≠ (x.c, x.gid) → t.group c i = s.group c i
    taken (.trap code st) 3 code ∧ ((s.core x.c).corectl.getLsbD 1 = true → taken (.brk st) 4 0)

/-- R9, R297, R301, R303: a fault that every lane of ACT takes is delivered to the handler with a record of KIND 2 that names the
code and the faulting instruction, and the instruction does nothing else. R297, R303, R304: with no handler installed a fault
of ACT ends its lanes as EXIT does, and a record of KIND 5 that names the code and the instruction is written at TAIL of the
core's fault queue, which then moves on by one.
The model's choices that it rests on: log entry 108. -/
def Obligations.FaultTaken : Prop :=
  (∀ (s : State) (x : Ctx) (sh : Shape) (code : Byte) (va d0 d1 : DWord), s.ctxOf x.c x.gid = some x → HandlerFree s x →
     code.toNat < 18 →
     ∃ g b, (s.faultAll x sh code va d0 d1).group x.c x.gid = some g ∧
       EnteredHandler s x g (recordWords code 2 sh.acc sh.wide false 0 0 x.pc va x.act (x.g.tid.get x.act.first).toNat
         (x.g.home x.act.first) x.gid.val x.c.val 0 x.grid.space d0 d1) ∧
       ((s.faultAll x sh code va d0 d1).core x.c).banks.get x.g.part = some b ∧ b.gid = x.gid ∧ b.code = code ∧ b.site = x.pc ∧
       (s.faultAll x sh code va d0 d1).mem = s.mem) ∧
  ∀ (s : State) (x : Ctx) (sh : Shape) (code : Byte) (va d0 d1 : DWord), s.ctxOf x.c x.gid = some x → code.toNat < 18 →
    x.g.hmode = false → x.g.halted = false → (s.core x.c).trapvec.getLsbD 0 = false → (s.core x.c).queueFull = false →
    (s.core x.c).recPend = [] → ringBase (s.core x.c).faultqb ≠ 0 →
    (∃ p, x.g.issuing.has p = true ∧ x.act.has p = false) → (s.Inside x fun _ => x.pc) →
    let t := s.faultAll x sh code va d0 d1
    (t.core x.c).faultqt = (s.core x.c).faultqt + 1 ∧
    t.mem = s.stored (ringBase (s.core x.c).faultqb + 64 * ((s.core x.c).faultqt.toNat % ringSize (s.core x.c).faultqb))
      (dwordBytes (recordWords code 5 sh.acc sh.wide false 0 (s.core x.c).faultqt.toNat x.pc va x.act
        (x.g.tid.get x.act.first).toNat (x.g.home x.act.first) x.gid.val x.c.val 0 x.grid.space d0 d1)) ∧
    ∃ g, t.group x.c x.gid = some g ∧ ∀ p, g.lst.get p = if x.act.has p then .exited else x.g.lst.get p

/-- R302: ERET with every lane of the handler in ACT returns to the kernel at the offset in S113; the bank is free, the group is
in no handler, and the registers whose names the bank took hold again what they held when the delivery began. -/
def Obligations.ReturnFromTrap : Prop :=
  ∀ (s : State) (x : Ctx) (st : Fin 8) (b : Bank), s.Issues x [] [keyS 113] → x.g.hmode = true → x.g.hlanes = x.act →
    s.bankOf x.c x.gid x.g = some b → x.g.dels = [] →
    let dest : Word := (x.g.s.get 113).setWidth 32
    dest.toNat % 2 = 0 → dest.toNat < x.grid.kern.len →
    (∀ p, x.g.lst.get p = .running → x.act.has p = false → (x.g.lpc.get p).toNat ≠ x.grid.kern.len) →
    ∃ t g, exec (.eret st) s = .next t ∧ t.group x.c x.gid = some g ∧ g.hmode = false ∧
      (∀ p, g.lpc.get p = if x.act.has p then dest else x.g.lpc.get p) ∧
      (∀ i : Fin 128, g.s.get i = if i.val < 112 then x.g.s.get i else b.snap.s.get i) ∧
      (∀ r : Fin 64, 56 ≤ r.val → (∀ e ∈ b.snap.pendFree, e.1 ≠ r) → ∀ p, g.readV r p = b.snap.readV r p) ∧
      g.loops = b.snap.loops ∧ g.q.get 0 = b.snap.q.get 0 ∧ g.q.get 1 = b.snap.q.get 1 ∧
      (t.core x.c).banks.get x.g.part = none ∧ t.mem = s.mem ∧ t.dies = s.dies

/-- R185, R295: a privileged instruction of a group that is neither privileged nor in a handler faults every lane of ACT with
PRIV, its own word in DETAIL0, and has none of its effect. -/
def Obligations.PrivilegeFault : Prop :=
  ∀ i w (s : State) x, privileged i = some w → s.Issues x w.1 w.2 → x.g.priv = false → x.g.hmode = false →
    ∃ sh, sh.acc = .other ∧ sh.wide = true ∧ exec i s = .next (s.faultAll x sh 0x06 0 (wordOf i) 0)

/-- R186, R190, R295: in privileged mode or in a handler CRR reads a register into S[s], CRW writes S[s] into a register once the
instruction has completed, and IDLE marks the group idle; for either a selector that no map assigns faults with ILLOP, and one of level
M with PRIV.
The model's choices that it rests on: log entry 54. -/
def Obligations.SystemResult : Prop :=
  ∀ (s : State) (x : Ctx) (st : Fin 8), x.privileged = true →
    (∀ (d : Fin 64) (sel : BitVec 10), s.Issues x [lowS d] [] →
      (regAssigned sel.toNat = true → regLevelM sel.toNat = false → (s.Inside x fun _ => x.pc + 4) →
        s.Completes s x (.crr d sel st) { x.g with s := x.g.s.set (lowS d) (s.readReg x.c sel.toNat) } (fun _ => x.pc + 4) st.val
          x.act [] []) ∧
      (regAssigned sel.toNat = false → ∃ sh, exec (.crr d sel st) s = .next (s.faultAll x sh 0x05 0 (wordOf (.crr d sel st)) 0)) ∧
      (regAssigned sel.toNat = true → regLevelM sel.toNat = true →
        ∃ sh, exec (.crr d sel st) s = .next (s.faultAll x sh 0x06 0 (wordOf (.crr d sel st)) 0))) ∧
    (∀ (a : Fin 64) (sel : BitVec 10), s.Issues x [lowS a] [keyS (lowS a)] →
      (regAssigned sel.toNat = true → regLevelM sel.toNat = false → (s.Inside x fun _ => x.pc + 4) →
        ∃ g t, exec (.crw a sel st) s = .next (t.writeReg x.c sel.toNat (x.g.s.get (lowS a))) ∧ s.Becomes x g t ∧
          x.Leaves x.g g (fun _ => x.pc + 4) st.val ∧ x.Regs g x.act [] []) ∧
      (regAssigned sel.toNat = false → ∃ sh, exec (.crw a sel st) s = .next (s.faultAll x sh 0x05 0 (wordOf (.crw a sel st)) 0)) ∧
      (regAssigned sel.toNat = true → regLevelM sel.toNat = true →
        ∃ sh, exec (.crw a sel st) s = .next (s.faultAll x sh 0x06 0 (wordOf (.crw a sel st)) 0))) ∧
    (s.Issues x [] [] → (s.Inside x fun _ => x.pc + 4) →
      s.Completes s x (.idle st) { x.g with idle := true, woken := false } (fun _ => x.pc + 4) st.val x.act [] [])

/-- R5, R296: CORECTL, TRAPVEC, CTXBASE, CTXLEN, TIMERM, RETCNT and SPACETB read back their writable fields after a write, with 0
in the reserved bits, and CORESTAT's TEV and HBAD clear where a 1 is written.
The model's choices that it rests on: log entry 54. -/
def Obligations.RegisterReadsBack : Prop :=
  ∀ (s : State) (c : Fin 128) (v : DWord),
    let back (sel : Nat) := (s.writeReg c sel v).readReg c sel
    back 0x000 = v &&& 3 ∧ back 0x001 = v &&& 0x0000FFFFFFFFFFC1 ∧ back 0x006 = v &&& 0x0000FFFFFFFFF000 ∧
    back 0x007 = v &&& 0x0000FFFFFFFFF000 ∧ back 0x008 = v ∧ back 0x100 = v &&& 0x0000FFFFFFFFFFFF ∧
    back 0x102 = v &&& 0x0000FFFFFFFFFFF8 ∧
    ((s.writeReg c 0x009 v).core c).tev = ((s.core c).tev && !v.getLsbD 6) ∧
    ((s.writeReg c 0x009 v).core c).hbad = ((s.core c).hbad && !v.getLsbD 7)

/-- R114, R187: XLINV with aligned operands and a valid space drops every entry of the range from the slices of its home die and
puts the invalidation in flight; a misaligned operand faults with ALIGN, ahead of SPACE.
The model's choices that it rests on: log entry 42. -/
def Obligations.InvalidateResult : Prop :=
  ∀ (s : State) (x : Ctx) (st : Fin 8) (a : Fin 64), x.privileged = true →
    let rs := (List.range 4).map (nextS (lowS a))
    let r (i : Nat) : Nat := (x.g.s.get (nextS (lowS a) i)).toNat
    let d := homeDie (BitVec.ofNat 64 (r 1))
    let space : Word := BitVec.ofNat 32 (r 0)
    s.Issues x rs (rs.map keyS) →
    (r 1 % 65536 ≠ 0 ∨ r 2 % 65536 ≠ 0 ∨ r 3 % 8 ≠ 0 → ∃ sh, exec (.xlinv a st) s = .next (s.faultAll x sh 0x0A 0 0 0)) ∧
    (r 1 % 65536 = 0 → r 2 % 65536 = 0 → r 3 % 8 = 0 → r 2 ≠ 0 → r 1 / 2 ^ 54 = (r 1 + r 2 - 1) / 2 ^ 54 → Sound s →
      r 0 < 2 ^ 32 → (s.die d).part = (s.die (dieOf x.c)).part → (s.spaceRoot d space).isSome = true →
      (s.Inside x fun _ => x.pc + 4) →
      ∃ s', s.Completes s' x (.xlinv a st) x.g (fun _ => x.pc + 4) st.val x.act [] [] ∧
        (s'.die d).tlb = (s.die d).tlb.filter (fun t => !t.within space (r 1) (r 2)) ∧
        (∃ v, s'.xlinvs = s.xlinvs ++ [v] ∧ v.die = d ∧ v.core = x.c ∧ v.team = x.t.admitted ∧ v.tids = x.act.list.map x.g.tid.get ∧ v.counter = x.g.s.get (nextS (lowS a) 3) ∧ v.pa = none ∧
          ∀ t ∈ (s.die d).tlb, t.within space (r 1) (r 2) = true → t.uid ∈ v.drops) ∧
        s'.mem = s.mem ∧ s'.cores = s.cores ∧ ∀ e, e ≠ d → s'.die e = s.die e)

/-- R188, R306: CTXSV of a stopped group whose context fits the save area, with nothing of it outstanding, completes: it writes the
context, frees the group's slots and goes on. At the save address stand MAGIC, VERSION, GRANT, BLOCK, FLAGS, SPACE, MAPMASK, XFLAGS,
K0 to K6, every LPC, DEPTH and loop counter, S0 to S127 and every mapped lane register; the group is gone from its core, every other
group is as it was, and the device holds one save more. R189, R307: CTXLD of a context that the device wrote completes: the group that
fits its team's core stands there, once the releases that its threads met have performed (R103), under the lowest free number with what
memory holds of it, S[s+1] is 1, and memory and every other
group are as they were; where the core lacks a group slot nothing is loaded and S[s+1] is 0. A context that fails its checks faults with
SPACE.
The model's choices that it rests on: log entries 16, 46, 95. -/
def Obligations.ContextResult : Prop :=
  ∀ (s : State) (x : Ctx) (st : Fin 8) (a : Fin 64), x.privileged = true →
    let s1 := nextS (lowS a) 1
    let n := (x.g.s.get (lowS a)).toNat
    let addr := (x.g.s.get s1).toNat
    (∀ g, s.Issues x [lowS a, s1] [keyS (lowS a), keyS s1] → n < 128 → n ≠ x.gid.val → s.group x.c (Fin.ofNat 128 n) = some g →
      (g.halted = true ∨ g.stop = .doubleFault) → (s.core x.c).saveArea.1 ≤ addr →
      addr + s.saveSize x.c (Fin.ofNat 128 n) g ≤ (s.core x.c).saveArea.1 + (s.core x.c).saveArea.2 → addr % 0x1000 = 0 →
      s.saveWaits x.c g = false → ((s.saveGroup x.c (Fin.ofNat 128 n) addr).Inside x fun _ => x.pc + 4) →
      s.Completes (s.saveGroup x.c (Fin.ofNat 128 n) addr) x (.ctxsv a st) x.g (fun _ => x.pc + 4) st.val x.act [] []) ∧
    (∀ (c i : Fin 128) g t grid, s.memWf → Unlocked s addr (s.saveSize c i g) → s.group c i = some g → s.team c g.team = some t → s.grid t.grid = some grid → g.dels = [] →
      g.stop ≠ .doubleFault → (s.teamGroups c g.team).length ≠ 1 →
      let u := s.saveGroup c i addr
      let at_ (off k : Nat) : Nat := u.mem.num (addr + off) k
      at_ 0 4 = 0x43585447 ∧ at_ 4 2 = 1 ∧ at_ 0x0C 1 = g.grant.lanes ∧ at_ 0x0D 1 = g.block % 256 ∧ at_ 0x0E 1 = g.saveFlags ∧
      at_ 0x10 4 = grid.space.toNat ∧ at_ 0x38 8 = g.mapped.toNat ∧ at_ 0x50 8 = g.xflags.toNat ∧
      (∀ k : Fin 7, at_ (0x60 + 8 * k.val) 8 = (g.k.get k).toNat) ∧
      (∀ p : Fin 64, at_ (0x100 + 4 * p.val) 4 = (if g.lst.get p = .vacant then 0 else (g.lpc.get p).toNat) ∧
        at_ (0x200 + p.val) 1 = (g.depth.get p).toNat ∧ at_ (0x240 + 4 * p.val) 4 = (g.loops.get p).toNat) ∧
      (∀ r : Fin 128, at_ (0x400 + 8 * r.val) 8 = (g.s.get r).toNat) ∧
      (∀ r p : Fin 64, g.mapped.getLsbD r.val = true → p.val < g.grant.lanes →
        at_ (0x800 + 4 * g.grant.lanes * ((List.finRange 64).filter fun q => g.mapped.getLsbD q.val && decide (q.val < r.val)).length
          + 4 * p.val) 4 = ((g.v.get r).get p).toNat) ∧
      u.group c i = none ∧ (∀ c' i', (c', i') ≠ (c, i) → u.group c' i' = s.group c' i') ∧
      ∃ z, u.saved = s.saved ++ [z] ∧ z.grid = t.grid ∧ z.team = t.index ∧ z.software = true ∧ z.continuation = false) ∧
    (s.Issues x [lowS a, s1] [keyS (lowS a)] → Sound s →
      (s.savedAt (dieOf x.c) n = none → ∃ sh, exec (.ctxld a st) s =
        .next (s.faultAll x sh 0x10 0 (BitVec.ofNat 64 (s.mem.num (n + 0x10) 4)) 0)) ∧
      (∀ y part, s.savedAt (dieOf x.c) n = some (y, part) → (∀ t ∈ part.metTags, s.tagWaits ⟨0, t.1, t.2⟩ .dev = false) →
        let r := if y.continuation then s.loadCont x.c y else s.loadGroup x.c y part n
        (r.2.Inside x fun _ => x.pc + 4) →
        s.Completes r.2 x (.ctxld a st) { x.g with s := x.g.s.set s1 (BitVec.ofNat 64 r.1) } (fun _ => x.pc + 4) st.val
          x.act [] []) ∧
      ∀ y part grid slot t, s.savedAt (dieOf x.c) n = some (y, part) →
        (∀ t ∈ part.metTags, s.tagWaits ⟨0, t.1, t.2⟩ .dev = false) → y.continuation = false → s.grid y.grid = some grid →
        grid.paired = false → s.slotOfTeam x.c y = some slot → s.team x.c slot = some t →
        let g := (readGroup s.mem n part s.nextId).1
        g.grant.lanes ≤ (s.core x.c).healthCap →
        ((s.core x.c).freeGroups = [] → (s.Inside x fun _ => x.pc + 4) →
          s.Completes s x (.ctxld a st) { x.g with s := x.g.s.set s1 0 } (fun _ => x.pc + 4) st.val x.act [] []) ∧
        ∀ i rest, (s.core x.c).freeGroups = i :: rest → (s.core x.c).threadsUsed + g.grant.lanes ≤ 2048 →
          columnsFit [g.seat grid] (s.slotsFree x.c slot t grid) = true → s.mem.num (n + 0x0E) 1 / 4 % 2 = 0 →
          let u := (s.loadGroup x.c y part n).2
          (u.Inside x fun _ => x.pc + 4) →
          s.Completes u x (.ctxld a st) { x.g with s := x.g.s.set s1 1 } (fun _ => x.pc + 4) st.val x.act [] [] ∧
          u.mem = s.mem ∧ (∀ c' i', (c', i') ≠ (x.c, i) → u.group c' i' = s.group c' i') ∧
          ∃ h, u.group x.c i = some h ∧ h.team = slot ∧ h.mapped = BitVec.ofNat 64 (s.mem.num (n + 0x38) 8) ∧
            (∀ k : Fin 7, h.k.get k = BitVec.ofNat 64 (s.mem.num (n + 0x60 + 8 * k.val) 8)) ∧
            (∀ p : Fin 64, h.lpc.get p = BitVec.ofNat 32 (s.mem.num (n + 0x100 + 4 * p.val) 4) ∧
              h.depth.get p = s.mem.get (n + 0x200 + p.val) ∧
              h.loops.get p = BitVec.ofNat 32 (s.mem.num (n + 0x240 + 4 * p.val) 4)) ∧
            (∀ r : Fin 128, h.s.get r = BitVec.ofNat 64 (s.mem.num (n + 0x400 + 8 * r.val) 8)) ∧ h.q = g.q ∧ h.v = g.v)

/-! ### Pool memory -/

/-- R65 to R68, R222: a pool load completes with each lane's words of scratch in its registers, the low word first, and changes
nothing else; its passes beyond the first and the pair bridge delay the group's next issue, those above the recorded count
are marked as the caller's, and a pair's load notes the promotion tags that it meets (R104). R65 to R68, R222, R223: a pool
store completes with each lane's registers in its bytes of scratch, the lanes in ascending order, and changes nothing else.
Such stores change no byte of any pool but those at the places they name, and nothing in device memory. -/
def Obligations.PoolAccessResult : Prop :=
  (∀ i r (s : State) x, poolLoads i = some r → Sound s → s.Issues x [] [keyV r.a] → r.Runs s x false →
     s.alloc x.c x.gid x.g x.t x.grid r.regs = .ok →
     s.Completes s x i (r.noted s x false) (fun _ => x.pc + 4) (r.time s x false) x.act (lastOf r.a r.la)
       ((List.range r.words).map fun k => (nextV r.d k, fun p => BitVec.ofNat 32 (s.scratchNum x.c x.t (r.addr x p + 4 * k) 4)))) ∧
  (∀ i r (s : State) x, poolStores i = some r → s.Issues x [] (keyV r.a :: r.regs.map keyV) → r.Runs s x true →
    s.Completes (r.stored s x) x i (r.group x true) (fun _ => x.pc + 4) (r.time s x true) x.act
      (lastOf r.a r.la ++ r.regs.flatMap fun q => lastOf q r.ld) []) ∧
  ∀ (s : State) (c : Fin 128) (t : Team) (o : Nat) (bs : List Byte), (∀ k, (s.core k).pool.wf = true) →
    let u := s.scratchStore c t o bs
    u.mem = s.mem ∧
    (∀ k a, (∀ n < bs.length, s.scratchLoc c t (o + n) ≠ (k, a)) → (u.core k).pool.get a = (s.core k).pool.get a) ∧
    ((∀ m < bs.length, ∀ n < bs.length, s.scratchLoc c t (o + m) = s.scratchLoc c t (o + n) → m = n) →
      u.scratchBytes c t o bs.length = bs)

/-- R224, R225: a pool atomic completes with each lane's old word in D, one lane after another in ascending order, each writing
what its operation makes of the word and of D; CAS writes only where the word equals D. R102, R104: an acquire waits for the writes that
a tag of its lines covers, and any other atomic notes the tags that it meets. -/
def Obligations.PoolAtomicResult : Prop :=
  ∀ (aop : Aop) (ord : MemOrd) (d a : Fin 64) (la : Bool) (st : Fin 8) (s : State) (x : Ctx),
    let r : PoolRow := ⟨1, d, a, 0, la, false, st.val⟩
    let run := atomicRun x aop d (r.addr x) s x.act.list
    Sound s → s.Issues x [] (keyV a :: keyV d :: if aop = .cas then [keyV (nextV d 1)] else []) → r.Runs s x true →
    s.alloc x.c x.gid x.g x.t x.grid [d] = .ok → (ord = .rel ∨ ord = .ar → Releases s x .team) →
    let acq := ord = .acq ∨ ord = .ar
    (acq → ∀ t ∈ s.poolTagsMet x (r.addr x) x.act.list, s.tagWaits t .team = false) →
    s.Completes (run.2.tagPool x (r.addr x) x.act.list) x (.patom aop ord d a la st) (if acq then r.group x true else r.noted s x true)
      (fun _ => x.pc + 4) (r.time s x true) x.act (lastOf a la) [(d, run.1)]

/-- R66, R171: SLD reads 8 aligned bytes of scratch into S[d], SST writes S[d] there, and neither changes anything else but, on a pair, the
promotion tags that SLD notes and SST sets (R102, R104); outside scratch or misaligned, either faults every lane of ACT, PERM ahead of ALIGN. -/
def Obligations.ScratchUniformResult : Prop :=
  ∀ (s : State) (x : Ctx) (st : Fin 8) (d a : Fin 128) (imm : BitVec 7),
    let va : DWord := BitVec.ofInt 64 ((x.g.s.get a).toNat + 8 * imm.toInt)
    let time := st.val + if s.scratchFar x.c x.t va.toNat then 16 else 0
    s.acquiring x = false → (s.Inside x fun _ => x.pc + 4) →
    (va.toNat + 8 ≤ x.grid.scratchBytes → va.toNat % 8 = 0 →
      (Sound s → s.Issues x [d, a] [keyS a] →
        s.Completes s x (.sld d a imm st)
          { s.noteSpan x va.toNat 8 x.g with s := x.g.s.set d (BitVec.ofNat 64 (s.scratchNum x.c x.t va.toNat 8)) } (fun _ => x.pc + 4) time x.act [] []) ∧
      (s.Issues x [d, a] [keyS a, keyS d] →
        s.Completes ((s.scratchStore x.c x.t va.toNat (leBytes 8 (x.g.s.get d).toNat)).tagSpan x va.toNat 8) x (.sst d a imm st) x.g (fun _ => x.pc + 4) time
          x.act [] [])) ∧
    (s.Issues x [d, a] [keyS a, keyS d] →
      (x.grid.scratchBytes < va.toNat + 8 → ∃ u v, exec (.sld d a imm st) s = .next (s.faultAll x u 0x08 va (plainDetail 0x08) 0) ∧
        exec (.sst d a imm st) s = .next (s.faultAll x v 0x08 va (plainDetail 0x08) 0)) ∧
      (va.toNat + 8 ≤ x.grid.scratchBytes → va.toNat % 8 ≠ 0 → ∃ u v, exec (.sld d a imm st) s = .next (s.faultAll x u 0x0A va 0 0) ∧
        exec (.sst d a imm st) s = .next (s.faultAll x v 0x0A va 0 0)))

/-! ### Fences, barriers and flags -/

/-- R236, R237: BARA and BARD count each lane of ACT as arrived or dropped and go on; with the last arrival the phase is complete. R238: the
lanes beyond the expected count, those whose threads have arrived or dropped already, and every lane of a phase that expects none fault
with BARFLOW and do not arrive. BARW writes PHASE once no thread of ACT stands as arrived. R236 to R238: BAR and BARX count their arrivals and wait for the phase:
with the last arrival the group goes on at once, and before it the group stays where it is, waiting. BARX over the expected
count faults with BARFLOW.
The model's choices that it rests on: log entry 5. -/
def Obligations.BarrierResult : Prop :=
  (∀ (s : State) (x : Ctx) (bar : Fin 16) (st : Fin 8), x.g.hmode = false → bar.val < x.grid.kern.nbar → (s.Inside x fun _ => x.pc + 4) →
     let b := s.barrier x.home x.slot bar
     (∀ (drop : Bool), s.Issues x [] [] → Releases s x .team → NoneAt s bar → (s.team x.home x.slot).isSome = true →
       (∀ p q, x.act.has p = true → x.act.has q = true → x.g.tid.get p = x.g.tid.get q → p = q) →
       (∀ p, x.act.has p = true → b.arrivedSet.getLsbD (x.g.tid.get p).toNat = false ∧ b.droppedSet.getLsbD (x.g.tid.get p).toNat = false) →
       b.arrived.toNat + x.act.list.length ≤ b.expect.toNat → b.pendDrop.toNat + x.act.list.length ≤ b.expect.toNat →
       ∃ b', Arrived b b' x.act.list.length (if drop then x.act.list.length else 0) (x.act.list.map x.g.tid.get) drop ∧
         s.Completes (withBarrier s x.home x.slot bar b') x (if drop then .bard bar st else .bara bar st) x.g (fun _ => x.pc + 4) st.val
           x.act [] []) ∧
     (∀ (drop : Bool), s.Issues x [] [] → Releases s x .team → NoneAt s bar → (s.team x.home x.slot).isSome = true →
       let stops (u : State) (ps : List (Fin 64)) : Prop := exec (if drop then .bard bar st else .bara bar st) s =
         .next (u.finish x ⟨true, st.val, [], [], [], .other⟩ x.g (fun _ => x.pc + 4) (ps.map (barflow bar b.phase)))
       (b.arrived ≠ b.expect ∨ b.expect = 0 → (∀ p, x.act.has p = true → b.arrivedSet.getLsbD (x.g.tid.get p).toNat = true ∨
         b.droppedSet.getLsbD (x.g.tid.get p).toNat = true ∨ b.expect = 0) → stops s x.act.list) ∧
       (let room := b.expect.toNat - b.arrived.toNat
        0 < room → room < x.act.list.length → NoneAt s bar → b.pendDrop.toNat + room ≤ b.expect.toNat →
        (∀ p q, x.act.has p = true → x.act.has q = true → x.g.tid.get p = x.g.tid.get q → p = q) →
        (∀ p, x.act.has p = true → b.arrivedSet.getLsbD (x.g.tid.get p).toNat = false ∧ b.droppedSet.getLsbD (x.g.tid.get p).toNat = false) →
        ∃ b', Arrived b b' room (if drop then room else 0) ((x.act.list.take room).map x.g.tid.get) drop ∧
          stops (withBarrier s x.home x.slot bar b') (x.act.list.drop room))) ∧
     ∀ (r : Fin 64), s.Issues x [lowS r] [] → (∀ p, x.act.has p = true → b.arrivedSet.getLsbD (x.g.tid.get p).toNat = false) →
       s.Completes s x (.barw bar r st) { x.g with s := x.g.s.set (lowS r) (BitVec.ofNat 64 b.phase.toNat) } (fun _ => x.pc + 4) st.val
         x.act [] []) ∧
  ∀ (s : State) (x : Ctx) (bar : Fin 16) (st : Fin 8), x.g.hmode = false → bar.val < x.grid.kern.nbar → (∀ w ∈ x.g.barWaits, w.site ≠ x.pc) →
    NoneAt s bar → (s.team x.home x.slot).isSome = true → Releases s x .team → (∀ e ∈ s.teamGroups x.c x.g.team, e.2.brm = none) →
    let b := s.barrier x.home x.slot bar
    b.pendDrop.toNat ≤ b.expect.toNat →
    let goes (i : Instr) (n : Nat) (tids : List (BitVec 12)) : Prop :=
      (b.arrived.toNat + n = b.expect.toNat → b.expect ≠ 0 → (s.Inside x fun _ => x.pc + 4) →
        ∃ b', Arrived b b' n 0 tids ∧
          s.Completes (withBarrier s x.home x.slot bar b') x i x.g (fun _ => x.pc + 4) st.val x.act [] []) ∧
      (b.arrived.toNat + n < b.expect.toNat → (s.Inside x fun _ => x.pc) →
        ∃ b' t g, Arrived b b' n 0 tids ∧ exec i s = .next t ∧ t.group x.c x.gid = some g ∧ t.barrier x.home x.slot bar = b' ∧
          g.barWaits = ⟨bar, x.pc, x.act, st.val⟩ :: x.g.barWaits ∧ g.lpc = x.g.lpc ∧ g.s = x.g.s ∧ t.mem = s.mem)
    (s.Issues x [] [] →
      (∀ p q, x.act.has p = true → x.act.has q = true → x.g.tid.get p = x.g.tid.get q → p = q) →
      (∀ p, x.act.has p = true → b.arrivedSet.getLsbD (x.g.tid.get p).toNat = false ∧ b.droppedSet.getLsbD (x.g.tid.get p).toNat = false) →
      goes (.bar bar st) x.act.list.length (x.act.list.map x.g.tid.get)) ∧
    ∀ (r : Fin 64), s.Issues x [lowS r] [keyS (lowS r)] →
      let n := (x.g.s.get (lowS r)).toNat % 8192
      goes (.barx bar r st) n [] ∧
      (b.expect.toNat < b.arrived.toNat + n →
        exec (.barx bar r st) s = .next (s.finish x ⟨true, st.val, [], [], [], .other⟩ x.g (fun _ => x.pc)
          (x.act.list.map (barflow bar b.phase))))

/-- R104, R115, R234, R235: FENCE and XFENCE complete, once the earlier reads that they order have returned and the tags that those met
are promoted, the earlier reads and writes at their scope have performed and, for XFENCE, the thread's migration copies and XLINVs have
completed; they make the threads' later writes releases at their scope, and change nothing else. R236, R240:
FSET and FCLR write the team flag and go on; FWAIT goes on while the flag is 1, and else waits where it is.
The model's choices that it rests on: log entries 5, 10. -/
def Obligations.SyncResult : Prop :=
  (∀ (s : State) (x : Ctx) (st : Fin 8), s.Issues x [] [] → (s.Inside x fun _ => x.pc + 4) →
     (∀ ord sc, (ord ≠ .rel → s.readsOut x = false ∧ s.metWaits x sc = false) → (ord ≠ .acq → Releases s x sc) →
       s.Completes s x (.fence ord sc st) (x.fenced ord sc) (fun _ => x.pc + 4) st.val x.act [] []) ∧
     ((∀ v ∈ s.xlinvs, v.team = x.t.admitted → ∀ p, x.act.has p = true → x.g.tid.get p ∉ v.tids) →
       s.migrating x = false → s.readsOut x = false → s.metWaits x .sys = false → Releases s x .sys →
       s.Completes s x (.xfence st) (x.fenced .ar .sys) (fun _ => x.pc + 4) st.val x.act [] [])) ∧
  ∀ (s : State) (x : Ctx) (f : Fin 64) (st : Fin 8), s.Issues x [] [] → x.g.hmode = false → f.val < x.grid.kern.nflag →
    (s.Inside x fun _ => x.pc + 4) → (s.team x.home x.slot).isSome = true →
    (Releases s x .team → NoneWaits s f →
      s.Completes (withFlag s x.home x.slot f true) x (.fset f st) x.g (fun _ => x.pc + 4) st.val x.act [] [] ∧
      s.Completes (withFlag s x.home x.slot f false) x (.fclr f st) x.g (fun _ => x.pc + 4) st.val x.act [] []) ∧
    (s.flag x.home x.slot f = true → s.Completes s x (.fwait f st) x.g (fun _ => x.pc + 4) st.val x.act [] []) ∧
    (s.flag x.home x.slot f = false → (∀ e ∈ s.teamGroups x.c x.g.team, e.2.brm = none) →
      ∃ w, w.on = .flag f st.val ∧ w.site = x.pc ∧
        exec (.fwait f st) s = .next (s.setGroup x.c x.gid (some { x.g with polled := true, wait := some w })))

/-- R236, R269 to R271: in a stream the flags, BARA, BARD, BARW and the like act on the stream's team: FSET and FCLR write the
flag, FWAIT goes on while it is 1, BARA and BARD make one arrival, BAR and BARX make theirs and wait for the phase, and BARW writes
PHASE; the arrival that completes a phase lets the stream go on, and one over the expected count ends it with BARFLOW (R273).
The model's choices that it rests on: log entry 10. -/
def Obligations.StreamSyncResult : Prop :=
  ∀ (s : State) (y : SCtx) (st : Fin 8), (s.team y.home y.slot).isSome = true →
    (∀ f : Fin 64, s.StreamIssues y [] → f.val < y.grid.kern.nflag →
      (ReleasesStream s y .team → NoneWaits s f →
        s.StreamCompletes (withFlag s y.home y.slot f true) y (.fset f st) y.st (y.st.pc + 4) st.val ∧
        s.StreamCompletes (withFlag s y.home y.slot f false) y (.fclr f st) y.st (y.st.pc + 4) st.val) ∧
      (s.flag y.home y.slot f = true → s.StreamCompletes s y (.fwait f st) y.st (y.st.pc + 4) st.val)) ∧
    (∀ (bar : Fin 16), bar.val < y.grid.kern.nbar → y.st.bars.get bar = .notArrived → y.st.barWait = none →
      let b := s.barrier y.home y.slot bar
      let own (b' : Barrier) : State := withBarrier s y.home y.slot bar b'
      (∀ drop : Bool, s.StreamIssues y [] → ReleasesStream s y .team → b.pendDrop.toNat + 1 ≤ b.expect.toNat →
        let i : Instr := if drop then .bard bar st else .bara bar st
        (b.arrived.toNat + 1 < b.expect.toNat → ∃ b', Arrived b b' 1 (if drop then 1 else 0) ∧
          s.StreamCompletes (own b') y i { y.st with bars := y.st.bars.set bar (if drop then .dropped else .arrived) } (y.st.pc + 4)
            st.val) ∧
        (b.arrived.toNat + 1 = b.expect.toNat → NoneAt s bar → Mated s y → ∃ b', Arrived b b' 1 (if drop then 1 else 0) ∧
          s.StreamCompletes (own b') y i { y.st with bars := if drop then y.st.bars.set bar .dropped else y.st.bars } (y.st.pc + 4)
            st.val)) ∧
      (let arrives (i : Instr) (n : Nat) (bars : Tab BarSt 16) : Prop :=
         (b.arrived.toNat + n < b.expect.toNat → ∃ b', Arrived b b' n 0 ∧
           exec i s = .next ((own b').setStream y.c y.copy (some { y.st with
             bars := bars, barWait := some bar, barSt := st.val, polled := true, held := none, wait := some ⟨y.st.pc, 0, .phase bar⟩ }))) ∧
         (b.arrived.toNat + n = b.expect.toNat → b.expect ≠ 0 → b.pendDrop.toNat ≤ b.expect.toNat → NoneAt s bar → Mated s y →
           ∃ b', Arrived b b' n 0 ∧ s.StreamCompletes (own b') y i { y.st with barWait := none, barSt := st.val } (y.st.pc + 4) st.val) ∧
         (b.expect.toNat < b.arrived.toNat + n → exec i s =
           .next (s.streamFault y 0x0C .other 0 (BitVec.ofNat 64 bar.val) (BitVec.ofNat 64 b.phase.toNat)))
       (s.StreamIssues y [] → ReleasesStream s y .team → arrives (.bar bar st) 1 (y.st.bars.set bar .arrived)) ∧
       ∀ r : Fin 64, s.StreamIssues y [lowS r] → ReleasesStream s y .team →
         arrives (.barx bar r st) ((y.st.s.get (lowS r)).toNat % 8192) y.st.bars) ∧
      ∀ (r : Fin 64), s.StreamIssues y [lowS r] →
        s.StreamCompletes s y (.barw bar r st) { y.st with s := y.st.s.set (lowS r) (BitVec.ofNat 64 b.phase.toNat) } (y.st.pc + 4)
          st.val)

/-! ### Decoupling queues -/

/-- R74 to R76, R99, R226 to R229: QLD, QST and QATOM with room in their queue complete by pushing one entry with a slot for each
lane of ACT and making one request for each lane whose address is translated or frozen; they change nothing else. R76, R230 to
R232: QPOP takes the oldest load or atomic entry whose slots have arrived: D takes each lane's value, 0 in a lane without a
slot, and the entry leaves the queue. QWAIT goes on while at most CNT entries are incomplete, and QPF only asks for
translations. With no entry to pop QPOP faults with QEMPTY.
The model's choices that it rests on: log entry 88. -/
def Obligations.QueueResult : Prop :=
  (∀ (s : State) (x : Ctx) (q : Fin 8) (st : Fin 8),
     let base := queueBase (s.queueWord x.c x.gid x.g x.grid q)
     let es := x.g.q.get q
     let space := s.spaceOf x.c x.g
     queueDepth (s.queueWord x.c x.gid x.g x.grid q) ≠ 0 → es.length < queueDepth (s.queueWord x.c x.gid x.g x.grid q) →
     s.requestsFull x = false → (∀ e ∈ es, e.site ≠ x.pc) → (∀ p, x.g.lst.get p ≠ .parked) → (s.Inside x fun _ => x.pc + 4) →
     let pushes (i : Instr) (kind : QKind) (acc : AccKind) (a : Fin 64) (sc : Scope) (acq rel : Bool) (last : List (Fin 64))
         (data : Req → Prop) : Prop :=
       let hit := s.laneHits x.c x.g.uid space acc 4 (laneAddr x.g base a) x.act.list
       (∀ e ∈ hit.1, (∃ pa, e.2 = .frozen pa) ∨ ∃ pa u, e.2 = .sent pa u) →
       ∃ rs uid, rs.map Req.pos = x.act.list ∧
         (∀ r ∈ rs, Requested x space acc base a sc acq rel (some (q, uid)) hit.1 r ∧ data r) ∧
         s.Completes { hit.2 with reqs := hit.2.reqs ++ rs, nextId := hit.2.nextId + 65 } x i
           { x.g with q := x.g.q.set q (es ++ [⟨uid, kind, x.act, 0, 0, 0, 0, Tab.replicate 64 0, x.pc⟩]) }
           (fun _ => x.pc + 4) st.val x.act last []
     (∀ acq sc a la, s.Issues x [base] [keyV a, keyS base] →
       pushes (.qld q acq sc a la st) .ld .load a sc acq false (lastOf a la) fun _ => True) ∧
     (∀ rel sc a d la ld, s.Issues x [base] [keyV a, keyV d, keyS base] →
       (rel = true → sc = .thr ∨ (s.core x.c).replayBefore (x.g.held.getD s.nextId) = false) → (s.core x.c).replay.length ≤ 64 →
       pushes (.qst q rel sc a d la ld st) .st .store a sc false rel (lastOf a la ++ lastOf d ld) fun r =>
         r.data.toNat = (x.g.readV d r.pos).toNat) ∧
     ∀ aop ord sc a d, s.Issues x [base] (keyV a :: keyV d :: keyS base :: if aop = .cas then [keyV (nextV d 1)] else []) →
       (ord = .rel ∨ ord = .ar → sc = .thr ∨ (s.core x.c).replayBefore (x.g.held.getD s.nextId) = false) →
       pushes (.qatom aop ord sc q a d st) .atom .atomic a sc (decide (ord = .acq ∨ ord = .ar)) (decide (ord = .rel ∨ ord = .ar)) []
         fun r => r.aop = aop ∧ r.data.toNat = (x.g.readV d r.pos).toNat ∧ r.data2 = x.g.readV (nextV d 1) r.pos) ∧
  ∀ (s : State) (x : Ctx) (q : Fin 8) (st : Fin 8), queueDepth (s.queueWord x.c x.gid x.g x.grid q) ≠ 0 →
    let es := x.g.q.get q
    (∀ d, s.Issues x [] [] →
      (∀ e, es.find? (fun e => e.kind != .st) = some e → e.pending = 0 → e.deferred = 0 → e.lanes &&& ~~~e.filled = 0 → e.ecc = 0 →
        s.alloc x.c x.gid x.g x.t x.grid [d] = .ok → (s.Inside x fun _ => x.pc + 4) →
        s.Completes s x (.qpop d q st) { x.g with q := x.g.q.set q (es.filter fun y => y.uid != e.uid) } (fun _ => x.pc + 4) st.val x.act
          [] [(d, fun p => if e.lanes.has p then e.vals.get p else 0)]) ∧
      ((∀ e ∈ es, e.kind = .st) → ∃ sh, exec (.qpop d q st) s = .next (s.faultAll x sh 0x0B 0 (BitVec.ofNat 64 q.val) 0))) ∧
    (∀ cnt : Fin 64, s.Issues x [] [] → (s.Inside x fun _ => x.pc + 4) → (es.filter QEntry.incomplete).length ≤ cnt.val →
      s.Completes s x (.qwait q cnt st) x.g (fun _ => x.pc + 4) st.val x.act [] []) ∧
    ∀ a la, s.Issues x [queueBase (s.queueWord x.c x.gid x.g x.grid q)] [keyV a, keyS (queueBase (s.queueWord x.c x.gid x.g x.grid q))] →
      (s.Inside x fun _ => x.pc + 4) →
      ∃ s', s.Completes s' x (.qpf q a la st) x.g (fun _ => x.pc + 4) st.val x.act (lastOf a la) [] ∧
        s' = { s with dies := s'.dies, nextId := s'.nextId } ∧
        ∀ d, s'.die d = { s.die d with xlreqs := (s'.die d).xlreqs } ∧
          (s'.die d).xlreqs.map (fun r => (r.core, r.space, r.va)) = (s.die d).xlreqs.map (fun r => (r.core, r.space, r.va)) ++
            ((x.act.list.map fun p => laneAddr x.g (queueBase (s.queueWord x.c x.gid x.g x.grid q)) a p).filter fun va =>
              decide (va.toNat < 2 ^ 57) && homeDie va == d).map fun va => (x.c, s.spaceOf x.c x.g, va)

/-! ### Copies, transfers and counters -/

/-- R109, R110, R241 to R244: CPY, CPYG and CPYS complete, once no acquire of their threads is out (R99), by starting one copy for each lane of ACT, with S[ds] pending until they
are done, or written 0 at once when they move no bytes; CSEAL makes each thread's open copies its next batch, whose token S[b]
waits for.
The model's choices that it rests on: log entry 9. -/
def Obligations.CopyResult : Prop :=
  ∀ (s : State) (x : Ctx), (s.Inside x fun _ => x.pc + 4) →
    (∀ i r, copies i = some r →
      let b := x.g.copyBlock r.sb
      s.Issues x (lowS r.ds :: r.block) (keyV r.a :: r.block.map keyS) → s.acquiring x = false → b.w2 / 2 ^ 15 = 0 → b.w3 / 2 ^ 32 = 0 → b.bytes ≤ 4096 →
      b.bytes % 4 = 0 →
      (∀ p, x.act.has p = true → (r.from_ x p).toNat % 4 = 0 ∧ (r.to_ x p).toNat % 4 = 0 ∧
        (b.srcp = true → (r.from_ x p).toNat + b.bytes ≤ x.grid.scratchBytes) ∧
        (b.dstp = true → (r.to_ x p).toNat + b.bytes ≤ x.grid.scratchBytes)) →
      let made (k : Copy) : Prop := k.core = x.c ∧ k.uid = x.g.uid ∧ k.tid = x.g.tid.get k.pos ∧ k.space = s.spaceOf x.c x.g ∧
        k.job = .lane (r.from_ x k.pos) (r.to_ x k.pos) b.bytes b.srcp b.dstp ∧ k.next = 0 ∧ k.token = s.nextId ∧ k.batchTok = none ∧
        k.phase = if b.bytes = 0 then .done else .moving
      ∃ ks, ks.map Copy.pos = x.act.list ∧ (∀ k ∈ ks, made k) ∧
        s.Completes { s with
            copies := s.copies ++ ks, nextId := s.nextId + 65
            tokens := if b.bytes = 0 then s.tokens
              else s.tokens ++ [⟨s.nextId, x.c, x.g.uid, x.gid, false, lowS r.ds, false⟩] } x i
          { x.g with
            s := if b.bytes = 0 then x.g.s.set (lowS r.ds) 0 else x.g.s
            tok := if b.bytes = 0 then x.g.tok else x.g.tok ||| (1#128 <<< r.ds.val) } (fun _ => x.pc + 4) r.st x.act (lastOf r.a r.la) []) ∧
    ∀ (b : Fin 128) (st : Fin 8), s.Issues x [b] [] → (∀ p, x.act.has p = true → (x.g.batch.get p).toNat + 1 < 2 ^ 32) →
      let mine (k : Copy) : Bool := k.openFor x x.act.list
      let h : Group := { x.g with batch := Tab.ofFn fun p => if x.act.has p then x.g.batch.get p + 1 else x.g.batch.get p }
      (s.copies.any mine = true → s.Completes { s with
          copies := s.copies.map fun k => if mine k then { k with batchTok := some s.nextId } else k, nextId := s.nextId + 1
          tokens := s.tokens ++ [⟨s.nextId, x.c, x.g.uid, x.gid, false, b, true⟩] } x (.cseal b st)
        { h with tok := x.g.tok ||| (1#128 <<< b.val) } (fun _ => x.pc + 4) st.val x.act [] []) ∧
      (s.copies.any mine = false → s.Completes { s with nextId := s.nextId + 1 } x (.cseal b st)
        { h with s := x.g.s.set b 0 } (fun _ => x.pc + 4) st.val x.act [] [])

/-- R245, R246, R248, R249: a CBULK that passes its checks opens the transfer that its descriptor names and records its slice; one that
finds its transfer open records its slice there, whatever its own scope, and faults with BOUND on an index that the transfer does not
have; with the last slice the transfer closes and its copy starts. RPUT and RGET that pass theirs start a copy and make S[b]
pending. -/
def Obligations.TransferResult : Prop :=
  ∀ (s : State) (x : Ctx) (st : Fin 8) (a b : Fin 128), Sound s → s.acquiring x = false → (s.Inside x fun _ => x.pc + 4) →
    let k := s.callerOf x
    let addr := (x.g.s.get a).toNat
    (∀ sc, s.Issues x [a, b] [keyS a, keyS b] → (s.team x.home x.slot).isSome = true →
      let slice := (x.g.s.get b).toNat % 64
      let open_ := (s.team x.home x.slot).elim [] Team.bulks
      (∀ o ∈ open_, o.desc ≠ addr) → addr + 64 ≤ x.grid.scratchBytes → addr % 64 = 0 → (s.bulkAt k addr).2 = false →
      let d := (s.bulkAt k addr).1
      bulkChecks k d false slice open_.length (wordOf (.cbulk sc a b st)) = none →
      (d.nsl = 1 → ∃ c, c.job = .bulk d sc ∧ c.core = x.c ∧ c.uid = x.g.uid ∧ c.next = 0 ∧ (d.rows ≠ 0 → d.rowb ≠ 0 → c.phase = .moving) ∧
        s.Completes { s with copies := s.copies ++ [c], nextId := s.nextId + 1 } x (.cbulk sc a b st) x.g (fun _ => x.pc + 4) st.val
          x.act [] []) ∧
      (d.nsl ≠ 1 → s.Completes
        (s.modTeam x.home x.slot fun t => { t with bulks := t.bulks ++ [⟨addr, sc, d, 1#64 <<< slice⟩] }) x (.cbulk sc a b st) x.g
        (fun _ => x.pc + 4) st.val x.act [] [])) ∧
    (∀ sc o, s.Issues x [a, b] [keyS a, keyS b] → (s.team x.home x.slot).isSome = true →
      ((s.team x.home x.slot).elim [] Team.bulks).find? (fun e => e.desc == addr) = some o →
      let slice := (x.g.s.get b).toNat % 64
      let rest (t : Team) : List BulkOpen := t.bulks.filter fun e => e.desc != addr
      let now := o.arrived ||| (1#64 <<< slice)
      let all : Prop := (List.finRange 64).countP (fun k => now.getLsbD k.val) = o.body.nsl
      (slice < o.body.nsl → ¬all → s.Completes (s.modTeam x.home x.slot fun t => { t with bulks := rest t ++ [{ o with arrived := now }] })
        x (.cbulk sc a b st) x.g (fun _ => x.pc + 4) st.val x.act [] []) ∧
      (slice < o.body.nsl → all → ∃ c, c.job = .bulk o.body o.scope ∧ c.core = x.c ∧ c.uid = x.g.uid ∧ c.next = 0 ∧
        c.phase = (if o.body.rows = 0 ∨ o.body.rowb = 0 then .status else .moving) ∧
        let u := s.modTeam x.home x.slot fun t => { t with bulks := rest t }
        s.Completes { u with copies := s.copies ++ [c], nextId := s.nextId + 1 } x (.cbulk sc a b st) x.g (fun _ => x.pc + 4) st.val
          x.act [] []) ∧
      (o.body.nsl ≤ slice → ∃ sh, exec (.cbulk sc a b st) s = .next (s.faultAll x sh 0x01 0 5 (BitVec.ofNat 64 slice)))) ∧
    (s.Issues x [a, b] [keyS a] → addr + 32 ≤ x.grid.scratchBytes → addr % 32 = 0 →
      let d := s.peerAt k addr
      let starts (i : Instr) (job : CopyJob) : Prop := ∃ c, c.job = job ∧ c.core = x.c ∧ c.uid = x.g.uid ∧ c.next = 0 ∧ c.phase = .moving ∧
        c.token = s.nextId + 1 ∧
        s.Completes { s with
            copies := s.copies ++ [c], nextId := s.nextId + 2
            tokens := s.tokens ++ [⟨s.nextId + 1, x.c, x.g.uid, x.gid, false, b, false⟩] } x i
          { x.g with tok := x.g.tok ||| (1#128 <<< b.val) } (fun _ => x.pc + 4) st.val x.act [] []
      (∀ sc, s.peerChecks k d true (wordOf (.rput sc a b st)) = none →
        starts (.rput sc a b st) (.rput d.loc d.locp d.remote d.len d.rcnt sc)) ∧
      (s.peerChecks k d false (wordOf (.rget a b st)) = none → starts (.rget a b st) (.rget d.loc d.locp d.remote d.len)))

/-- R111, R247: CNTADD sends its add to the counter's location and goes on; CNTWAIT goes on once a read of the counter has
returned a value no less than the target, and until then its group waits.
The model's choices that it rests on: log entries 5, 10. -/
def Obligations.CounterResult : Prop :=
  ∀ (s : State) (x : Ctx) (sc : Scope) (st : Fin 8) (a b : Fin 128), s.Issues x [a, b] [keyS a, keyS b] → (s.Inside x fun _ => x.pc + 4) →
    let k := s.callerOf x
    let va := x.g.s.get a
    ((sc = .thr ∨ (s.core x.c).replayBefore (x.g.held.getD s.nextId) = false) →
      ∀ pa u t, s.laneHit x.c x.g.uid k.space .atomic 8 k.pos va = (.sent pa u, t) →
        ∃ r, r.kind = .store ∧ r.add64 = true ∧ r.va = va ∧ r.pa = pa ∧ r.data = x.g.s.get b ∧ r.scope = sc ∧ r.rel = true ∧ r.phase = .sent ∧
          s.Completes { t with reqs := t.reqs ++ [r], nextId := t.nextId + 1 } x (.cntadd sc a b st) x.g (fun _ => x.pc + 4) st.val x.act
            [] []) ∧
    (∀ r v, s.counterRead k va = some r → r.phase = .done v false →
      ((x.g.s.get b).toNat ≤ v.toNat → s.Completes { s with reqs := s.reqs.filter fun e => e.id != r.id } x (.cntwait sc a b st) x.g
        (fun _ => x.pc + 4) st.val x.act [] []) ∧
      (v.toNat < (x.g.s.get b).toNat → (∀ e ∈ s.teamGroups x.c x.g.team, e.2.brm = none) →
        ∃ t g w, exec (.cntwait sc a b st) s = .next t ∧ t.group x.c x.gid = some g ∧ g.wait = some w ∧ w.site = x.pc ∧
          w.on = .counter va (x.g.s.get b) ∧ g.lpc = x.g.lpc ∧ t.mem = s.mem))

/-- R250, R251, R287, R290, R353: WQPOP takes the record at HEAD of a work queue into eight registers and moves HEAD on, WQPUSH
writes eight registers at TAIL and moves TAIL on; GREC and GEMIT do the same with the next record of a firing's edge and move
its cursor, a record outside the vaults being sent, and one at a frozen page leaving with its stores held (R401). They wait for a pending acquire of their threads (R99), the pop and GREC as acquires
for the writes that a tag of the record's line covers (R102), the push and GEMIT as releases for what came before them (R101).
The model's choices that it rests on: log entry 35. -/
def Obligations.RecordResult : Prop :=
  ∀ (s : State) (x : Ctx) (st : Fin 8) (d a : Fin 128), (s.Inside x fun _ => x.pc + 4) →
    let h := x.g.s.get a
    let die := dieOf x.c
    let space := s.spaceOf x.c x.g
    let e := s.workEntry die h.toNat
    let rs := (List.range 8).map (nextS d)
    (h.toNat < 65536 → s.Issues x (a :: rs) [keyS a] → s.workExists die h.toNat space false = true → s.workCount e ≠ 0 →
      s.olderWaiter die h.toNat x.c x.gid x.waited = false → (∀ g ∈ s.teamGroups x.c x.g.team, g.2.brm = none) →
      (∀ r ∈ s.served, r.takenBy x.t.admitted x.g.threads = false) → s.acquiring x = false → Sound s →
      s.lineTagged x (s.workRecord e (s.workHead e)) = false →
      ∃ l, s.Completes (({ s with served := l } : State).pput (e + 8) 4 ((s.workHead e + 1) % 2 ^ 32)) x
        (.wqpop d a st) (x.g.putRecord d (s.mem.bytes (s.workRecord e (s.workHead e)) 64)) (fun _ => x.pc + 4) st.val x.act [] []) ∧
    (h.toNat < 65536 → s.Issues x (a :: rs) (keyS a :: rs.map keyS) → s.workExists die h.toNat space true = true →
      s.workCount e < s.workSize e → s.acquiring x = false → Releases s x .dev → s.workOpen die h.toNat = true →
      s.Completes ((s.workPush e (x.g.recordBytes d)).wakeWork die h.toNat) x (.wqpush d a st) x.g (fun _ => x.pc + 4) st.val x.act
        [] []) ∧
    (s.Issues x (a :: rs) [keyS a] → ∀ p pa u t, s.graphPort x h false = some p →
      s.laneHit x.c x.g.uid x.grid.space .load 8 x.act.first (nextRecordVa p) = (.sent pa u, t) → inVault pa = true → Sound t →
      t.acquiring x = false → t.lineTagged x pa = false → t.linkHeld x.c pa = false →
      (∀ r ∈ t.reqs, r.open_ = true → (r.writes = true ∧ r.core = x.c) ∨ x.made r = true → overlap r.pa r.size pa 64 = false) →
      s.Completes (t.bumpCursor p) x (.grec d a st) (x.g.putRecord d (t.mem.bytes pa 64)) (fun _ => x.pc + 4) st.val x.act [] []) ∧
    (s.Issues x (a :: rs) (keyS a :: rs.map keyS) → s.acquiring x = false → Releases s x .dev → ∀ p pa t,
      s.graphPort x h true = some p →
      let hit := s.laneHit x.c x.g.uid x.grid.space .store 8 x.act.first (nextRecordVa p)
      (hit = (.frozen pa, t) → s.Completes ((t.sendRecord x (nextRecordVa p) pa 0 (x.g.recordBytes d) .frozen).bumpCursor p) x
        (.gemit d a st) x.g (fun _ => x.pc + 4) st.val x.act [] []) ∧
      ∀ u, hit = (.sent pa u, t) →
      (inVault pa = true → t.linkHeld x.c pa = false →
        s.Completes ((t.pstore pa (x.g.recordBytes d)).bumpCursor p) x (.gemit d a st) x.g (fun _ => x.pc + 4) st.val x.act [] []) ∧
      (inVault pa = false →
        s.Completes ((t.sendRecord x (nextRecordVa p) pa u (x.g.recordBytes d)).bumpCursor p) x (.gemit d a st) x.g (fun _ => x.pc + 4)
          st.val x.act [] []))

/-! ### The matrix engine -/

/-- R253, R255 to R266, R269: a matrix instruction that passes its checks is performed entirely when the free engine takes it,
whether a group or a matrix stream of the accumulator's owner issues it, and changes nothing but what its rule says.
The model's choices that it rests on: log entry 106. -/
def Obligations.EngineResult : Prop :=
  ∀ i r (s : State), engineRow i = some r → Sound s →
    (∀ x, s.Issues x r.toks r.uses → (s.core x.c).engine = none → s.acquiring x = false → 1 ≤ x.grid.accg →
      r.ok ⟨x.c, x.t, x.grid, x.gid.val, x.g.s.get⟩ s → (s.Inside x fun _ => x.pc + 4) → r.Done s x i) ∧
    ∀ y, s.StreamIssues y r.toks → y.copy = false → (s.core y.c).engine = none → 1 ≤ y.grid.accg →
      r.ok ⟨y.c, y.t, y.grid, 0, y.st.s.get⟩ s → r.DoneStream s y i

/-- R257, R260, R269: TTRN of a group or of a matrix stream makes tile X the transpose of the configured tile Y: element (c, r) of X is
element (r, c) of Y, and X's shape is Y's with its sides exchanged. -/
def Obligations.TransposeResult : Prop :=
  ∀ (s : State) (tx ty : Fin 16) (st : Fin 8), Sound s →
    let made (e : Eng) (who : Agent) (done : State → Prop) : Prop :=
      let y := s.tile e ty
      (s.core e.c).engine = none → 1 ≤ e.grid.accg → y.rows ≠ 0 → y.cols ≤ 128 → y.cols % 16 = 0 →
      (y.w = 4 ∨ y.w = 8 ∨ y.w = 16 ∨ y.w = 32) →
      ∃ m tsh, done (((withTile s e tx m).modCore e.c fun k => { k with tsh := k.tsh.set tx tsh }).takeEngine e.c who
          (4 + ceilDiv y.size 256)) ∧
        tshRows tsh = y.cols ∧ tshCols tsh = y.rows ∧ tshSlot tsh = y.slot ∧
        ∀ r < y.rows, ∀ c < y.cols, elemAt m y.w (y.rows * y.w / 8) c r = y.elem r c
    (∀ x : Ctx, s.Issues x [] [] → s.acquiring x = false → (s.Inside x fun _ => x.pc + 4) →
      made ⟨x.c, x.t, x.grid, x.gid.val, x.g.s.get⟩ (.group x.c x.gid) fun u =>
        s.Completes u x (.ttrn tx ty st) { x.g with engHeld := true } (fun _ => x.pc + 4) st.val x.act [] []) ∧
    ∀ y : SCtx, s.StreamIssues y [] → y.copy = false →
      made ⟨y.c, y.t, y.grid, 0, y.st.s.get⟩ (.stream y.c y.copy) fun u =>
        s.StreamCompletes u y (.ttrn tx ty st) { y.st with engHeld := true } (y.st.pc + 4) st.val

/-- R88, R90, R91, R263: the product that MMA and MMAS run updates each element of the accumulator once, from what it held, by its
blocks in order, changes no other byte of the pool, and joins the flags of all its elements to MFLAGS.
The model's choices that it rests on: log entry 107. -/
def Obligations.ProductResult : Prop :=
  ∀ (s : State) (e : Eng) (p : Product), Sound s → (s.core e.c).pool.wf = true → e.t.accG.Nodup → p.acc % 64 = 0 →
    p.acc + 4 * p.m * p.n ≤ 65536 * e.t.accG.length →
    let t := s.runProduct e p
    (∀ i < p.m, ∀ j < p.n, t.accWord e (p.acc + 4 * (i * p.n + j)) = (p.element i j (s.accWord e (p.acc + 4 * (i * p.n + j)), 0)).1) ∧
    (∀ a, (∀ k < 4 * p.m * p.n, e.accLoc (p.acc + k) ≠ a) → (t.core e.c).pool.get a = (s.core e.c).pool.get a) ∧
    (∀ c, c ≠ e.c → t.core c = s.core c) ∧ t.mem = s.mem ∧ t.dies = s.dies ∧
    ∀ f, (t.core e.c).mflags.getLsbD f = ((s.core e.c).mflags.getLsbD f ||
      decide (∃ i < p.m, ∃ j < p.n, (p.element i j (s.accWord e (p.acc + 4 * (i * p.n + j)), 0)).2.getLsbD f = true))

/-! ### Streams and width -/

/-- R268, R272, R273: FORK that passes its checks starts the streams that its two registers name, each at its entry with the
group's uniform registers, and clears the team's kept code; RDV goes on once no stream of the team runs, what its streams added has performed (R272) and no
code is kept, and faults with the kept code otherwise.
The model's choices that it rests on: log entry 34. -/
def Obligations.ForkResult : Prop :=
  ∀ (s : State) (x : Ctx) (st : Fin 8), (s.Inside x fun _ => x.pc + 4) → (s.team x.home x.slot).isSome = true →
    (∀ (a : Fin 128) (odd : Bool), s.Issues x (List.finRange 128) ((List.finRange 128).map keyS) →
      let v := x.g.s.get a
      let w := x.g.s.get (nextS a 1)
      let place := forkPlace x odd
      s.forkChecks x odd v w place (wordOf (.fork a odd st)) = none → Releases s x .team →
      (v.getLsbD 63 = false → (s.core place.1).matrixStream = none) → (w.getLsbD 63 = false → (s.core place.1).copyStream = none) →
      ∃ s', s.Completes s' x (.fork a odd st) x.g (fun _ => x.pc + 4) (max st.val 1) x.act [] [] ∧
        s'.mem = s.mem ∧ s'.dies = s.dies ∧ (∀ c, c ≠ place.1 → c ≠ x.home → s'.core c = s.core c) ∧
        ((s'.team x.home x.slot).map Team.kept = some 0) ∧
        (v.getLsbD 63 = false → ∃ u, (s'.core place.1).matrixStream = some u ∧ u.team = place.2 ∧ u.pc = BitVec.ofNat 32 v.toNat ∧
          u.s = x.g.s ∧ u.tok = 0 ∧ u.stopped = false) ∧
        (w.getLsbD 63 = false → ∃ u, (s'.core place.1).copyStream = some u ∧ u.team = place.2 ∧ u.pc = BitVec.ofNat 32 w.toNat ∧
          u.s = x.g.s ∧ u.tok = 0 ∧ u.stopped = false) ∧
        (v.getLsbD 63 = true → (s'.core place.1).matrixStream = (s.core place.1).matrixStream) ∧
        (w.getLsbD 63 = true → (s'.core place.1).copyStream = (s.core place.1).copyStream)) ∧
    (s.Issues x [] [] → s.streamsIdle x.c x.g.team x.t = true → s.streamWritesOpen x = false →
      ((s.team x.home x.slot).map Team.kept = some 0 → s.Completes s x (.rdv st) x.g (fun _ => x.pc + 4) st.val x.act [] []) ∧
      ∀ c, (s.team x.home x.slot).map Team.kept = some c → c ≠ 0 → ∃ sh, exec (.rdv st) s = .next (s.faultAll x sh c 0 0 0))

/-- R18, R181, R219: SETW that cannot split its group, which would put lanes in handler mode into two groups among the reasons (R298),
writes the width it keeps and changes nothing else; one that can makes a group of the narrower width for each block that has a running
lane, on the handler's registers where a lane of it is in handler mode and else on the group's own. XFRD reads XFLAGS and XFCLR clears the bits of its mask,
once every result is written.
The model's choices that it rests on: log entry 99. -/
def Obligations.WidthResult : Prop :=
  ∀ (s : State) (x : Ctx) (st : Fin 8),
    (∀ (d : Fin 128) (i : Instr) (req : Nat),
      (∃ a, i = .setwReg d a st ∧ req = (x.g.s.get a).toNat ∧ s.Issues x [d, a] [keyS a]) ∨
        (∃ imm, i = .setwImm d imm st ∧ req = imm.toNat ∧ s.Issues x [d] []) →
      (∀ p, x.g.lst.get p ≠ .parked) → (s.Inside x fun _ => x.pc + 4) →
      let w := if req = 0 ∨ 32 < req then Grant.w64 else if 16 < req then .w32 else .w16
      let n := x.g.grant.lanes / w.lanes
      let handler (b : Nat) : Prop := ∃ p < w.lanes, x.g.hlanes.has (Fin.ofNat 64 (b * w.lanes + p)) = true
      let torn : Prop := ∃ b < n, ∃ c < n, b ≠ c ∧ handler b ∧ handler c
      let stays := x.g.grant.lanes ≤ w.lanes ∨ s.queuesBusy x.c x.g = true ∨ s.asyncOf x.c x.g = true ∨
        (s.core x.c).freeGroups.length < n - 1 ∨ torn ∨
        (x.g.hmode = true ∧ ∃ k, s.bankOf x.c x.gid x.g = some k ∧ (s.queuesBusy x.c k.snap = true ∨ k.snap.tok ≠ 0))
      (stays → s.Completes s x i { x.g with s := x.g.s.set d (BitVec.ofNat 64 x.g.grant.lanes) } (fun _ => x.pc + 4) st.val x.act [] []) ∧
      (¬stays → ∀ k, s.bankOf x.c x.gid x.g = k → (x.g.hmode = true → k.isSome = true ∧ x.g.dels = []) →
        ∃ t, exec i s = .next t ∧ t.mem = s.mem ∧ t.dies = s.dies ∧
        ∀ b < n, (∃ p < w.lanes, x.g.lst.get (Fin.ofNat 64 (b * w.lanes + p)) = .running) →
          ∃ gid g, t.group x.c gid = some g ∧ g.grant = w ∧ g.block = x.g.block * n + b ∧
            (x.g.hmode = false ∨ handler b → g.s = x.g.s.set d (BitVec.ofNat 64 w.lanes)) ∧
            (x.g.hmode = true → ¬handler b → ∀ r : Fin 128, g.s.get r = if r = d then BitVec.ofNat 64 w.lanes
              else if r.val < 112 then x.g.s.get r else (k.map fun y => y.snap.s.get r).getD 0) ∧
            ∀ p < w.lanes, g.tid.get (Fin.ofNat 64 p) = x.g.tid.get (Fin.ofNat 64 (b * w.lanes + p)) ∧
              g.lst.get (Fin.ofNat 64 p) = x.g.lst.get (Fin.ofNat 64 (b * w.lanes + p)) ∧
              g.lpc.get (Fin.ofNat 64 p) = (x.lpcAfter fun _ => x.pc + 4).get (Fin.ofNat 64 (b * w.lanes + p)))) ∧
    ((∀ b ∈ x.g.busy, b.left = 0) → (s.Inside x fun _ => x.pc + 4) →
      (∀ d : Fin 128, s.Issues x [d] [] →
        s.Completes s x (.xfrd d st) { x.g with s := x.g.s.set d (BitVec.ofNat 64 x.g.xflags.toNat) } (fun _ => x.pc + 4) st.val x.act [] []) ∧
      ∀ mask : BitVec 6, s.Issues x [] [] →
        s.Completes s x (.xfclr mask st) { x.g with xflags := x.g.xflags &&& ~~~mask } (fun _ => x.pc + 4) st.val x.act [] [])

/-! ### What happens to accesses, copies and groups after they issue -/

/-- R74, R95, R96, R99, R102, R116, R225, R232: an access that may perform does so on memory at once, a load or atomic keeping the
value it read; an acquire held at another core's promotion tag is released once that core's earlier writes are complete; a
response fills its slot and frees its request; a prefetched translation is in the TLB; and an access held at a frozen entry
goes on.
The model's choices that it rests on: log entries 6, 10. -/
def Obligations.AccessEvents : Prop :=
  (∀ (s : State) (id : Nat) (r : Req), s.reqs.find? (fun e => e.id == id) = some r →
    (s.mayPerform r = true → s.linkHeld r.core r.pa = false → r.outside = false → s.tagMet r = none → Sound s →
      let old := s.mem.num r.pa r.size
      let kept := s.reqs.map fun e => if e.id = id then { e with phase := .done (BitVec.ofNat 64 old) false } else e
      ∃ t, exec (.accessPerform id) s = .next t ∧ t.dies = s.dies ∧
        (r.kind = .store → t.reqs = s.reqs.filter (fun e => e.id != id) ∧
          t.mem = if r.add64 then s.mem.putNum r.pa 8 (min (old + r.data.toNat) (2 ^ 64 - 1))
            else s.mem.putNum r.pa 4 (r.data.toNat % 2 ^ 32)) ∧
        (r.kind = .load → t.mem = s.mem ∧ t.reqs = kept) ∧
        (r.kind = .atomic → r.add64 = false → t.reqs = kept ∧
          t.mem = (atomicValue r.aop (BitVec.ofNat 32 old) (r.data.setWidth 32) r.data2).elim s.mem fun w =>
            s.mem.putNum r.pa 4 w.toNat)) ∧
    (∀ g, s.tagMet r = some g →
      (∀ e ∈ s.reqs, e.core = g.core → e.writes = true → e.open_ = true → e.push ≤ g.rel → r.scope ≠ .sys ∧ e.outside = true) →
      exec (.remoteScopePromotion id) s = .next { s with
        reqs := s.reqs.map fun e => if e.id = id then { e with promoted := true } else e }) ∧
    (∀ v ue q n, r.phase = .done v ue → r.entry = some (q, n) → s.olderData r = false → s.linkHeld r.core r.pa = false → Sound s →
      ∃ t, exec (.responseArrival id) s = .next t ∧ t.reqs = s.reqs.filter (fun e => e.id != id) ∧ t.mem = s.mem ∧ t.dies = s.dies ∧
        ∀ gid g, s.findGroup r.core r.uid = some gid → s.group r.core gid = some g →
          ∃ h, t.group r.core gid = some h ∧ h.v = g.v ∧ h.s = g.s ∧ h.lpc = g.lpc ∧
            ∀ e ∈ g.q.get q, e.uid = n → e.kind ≠ .st → ∃ f ∈ h.q.get q, f.uid = n ∧ f.kind = e.kind ∧
              f.filled = e.filled ||| Lanes.one r.pos ∧ f.vals = e.vals.set r.pos (v.setWidth 32)) ∧
    (r.phase = .frozen → (s.core r.core).replayFor r.space r.va = none → ∀ pa u t,
      s.translate r.core r.space r.va r.access .core (some (r.gid.val, r.space)) = (.ok pa u, t) → s.heldAhead r.id (t.xlatePage r.space r.va (.ok pa u)) = false →
      exec (.thawRetranslate id) s = .next { t with
        reqs := t.reqs.map fun e => if e.id = id then { e with pa := pa, xl := u, phase := .sent } else e })) ∧
  ∀ (s : State) (id : Nat) (d : Fin 4) (z : XlReq), (s.die d).xlreqs.find? (fun y => y.id == id) = some z →
    (∀ e, e ≠ d → ∀ y ∈ (s.die e).xlreqs, y.id ≠ id) → ∀ pa u t, s.translate z.core z.space z.va .load .core = (.ok pa u, t) →
    let v := t.modDie d fun y => { y with xlreqs := y.xlreqs.filter fun w => w.id != id }
    exec (.tlbTranslate id) s = .next v ∧
      ∃ e ∈ (v.die (homeDie z.va)).tlb, e.space = z.space ∧ e.slice = sliceOf (homeDie z.va) z.core ∧ e.base ≤ z.va.toNat ∧
        z.va.toNat < e.base + pageSize e.level

/-- R109, R114, R120, R121, R122, R242 to R246, R313: a copy engine moves a transfer page word by word; a copy that has moved its
pages ends, a bulk copy by writing its status word and then adding to its counter; a token is written when its copies have
performed; status word and adds are releases that clear or set their line's promotion tag (R102); the counter of an XLINV takes one; and a completion of the host interface ends its access.
The model's choices that it rests on: log entries 6, 9. -/
def Obligations.CopyEvents : Prop :=
  (∀ (s : State) (id : Nat) (k : Copy), s.copies.find? (fun e => e.id == id) = some k →
    let with_ (u : State) (h : Copy) : State := { u with copies := u.copies.map fun e => if e.id = id then h else e }
    (∀ src dst n tm, k.job = .lane src dst n true true → k.phase = .moving → k.next = 0 → k.got = [] → Sound s →
      s.team k.core k.slot = some tm → 0 < n → n % 4 = 0 → src.toNat + n < 2 ^ 64 → src.toNat + n ≤ s.copyScratch k →
      dst.toNat + n < 2 ^ 64 → dst.toNat + n ≤ s.copyScratch k → dst.toNat / 65536 = (dst.toNat + n - 1) / 65536 →
      let u := (List.range (n / 4)).foldl (fun u i =>
        u.scratchStore k.core tm (dst.toNat + 4 * i) (u.scratchBytes k.core tm (src.toNat + 4 * i) 4)) s
      exec (.copyTransferPage id) s = .next (with_ u { k with
        next := n / 4, pages := k.pages + 1, phase := .status, got := [], heldAt := none })) ∧
    (∀ src dst n sp dp, k.job = .lane src dst n sp dp → k.phase = .status →
      exec (.copyCompletion id) s = .next (with_ s { k with phase := .done })) ∧
    (∀ d sc pa t, k.job = .bulk d sc → Sound t →
      let put (n : Nat) : State := { t with mem := t.mem.putNum pa 8 n }
      let add (n : Nat) : State := { t with mem := storedField t pa 8 n }
      (k.phase = .status → s.copyReleased k .dev = true → s.engineAt k false d.stat 8 .store = (.vault pa, t) →
        exec (.copyCompletion id) s = .next (with_ ((put (k.code.toNat + k.pages % 2 ^ 32 * 2 ^ 32)).tagWrite (some .dev) pa k.core id)
          { k with phase := .counter, heldAt := none })) ∧
      (k.phase = .counter → s.copyReleased k sc = true → s.engineAt k false d.cnt 8 .atomic = (.vault pa, t) →
        exec (.copyCompletion id) s = .next (with_
          ((add (min (t.mem.num pa 8 + d.amt.toNat) (2 ^ 64 - 1))).tagWrite (some sc) pa k.core id)
          { k with phase := .done, heldAt := none })) ∧
      (k.phase = .done → exec (.copyCompletion id) s = .next { s with copies := s.copies.filter fun e => e.id != id }))) ∧
  (∀ (s : State) (id : Nat) (k : Token) (gid : Fin 128) (g : Group) (code : Byte), s.tokens.find? (fun e => e.id == id) = some k →
    k.stream = false → s.findGroup k.core k.uid = some gid → s.group k.core gid = some g → s.bankOf k.core gid g = none →
    (∀ c ∈ k.copies s, c.phase = .done ∧ c.code = code) → (code = 0 ∨ k.copies s ≠ []) →
    ∃ t, exec (.tokenWrite id) s = .next t ∧ t.tokens = s.tokens.filter (fun e => e.id != id) ∧ t.mem = s.mem ∧
      t.group k.core gid = some { g with s := g.s.set k.reg (code.setWidth 64), tok := g.tok &&& ~~~(1#128 <<< k.reg.val), polled := false }) ∧
  (∀ (s : State) (id : Nat) (v : Xlinv), s.xlinvs.find? (fun e => e.id == id) = some v →
    (∀ r ∈ s.reqs, r.phase = .sent ∨ r.phase = .away → r.xl ∉ v.drops) → (∀ k ∈ s.copies, k.isAway = true → k.id ∉ v.drops) →
    let adds (t : State) (pa : Nat) : Prop := inVault pa = true → Sound t →
      exec (.xlinvCompletion id) s = .next { t with
        mem := storedField t pa 8 (min (t.mem.num pa 8 + 1) (2 ^ 64 - 1)), tags := t.tags.filter fun y => y.line != pa / 64
        xlinvs := t.xlinvs.filter fun y => y.id != id }
    (∀ pa, v.pa = some pa → adds s pa) ∧
      ∀ pa n t, v.pa = none → s.translate v.core v.space v.counter .store .host = (.ok pa n, t) → adds t pa) ∧
  ∀ (s : State) (id : Nat) (r : Req) (data : DWord), s.reqs.find? (fun e => e.id == id && e.phase == .away) = some r →
    (r.kind = .load → Sound s → exec (.cxlCompletion id .ok data) s = .next { s with
      reqs := s.reqs.map fun e => if e.id = id then { e with phase := .done (BitVec.ofNat 64 (data.toNat % 2 ^ (8 * r.size))) false } else e }) ∧
    (r.kind = .store → r.entry = none →
      exec (.cxlCompletion id .ok data) s = .next { s with reqs := s.reqs.filter fun e => e.id != id })

/-- R30 to R33, R40, R62, R190, R255, R296, R298, R299, R301: a group that IDLE stopped goes on when woken; one asked to stop is
stopped once its work has ended; the oldest delivery that waits for a free bank enters its handler; a lone group at a BRM
takes its branch when the window ends; a wait past its bound faults ACT with WAITOUT; the oldest group stalled on enlargement
borrows the reserve; a timer match sets TEV and wakes the IDLE groups; and the engine releases its issuer.
The model's choices that it rests on: log entries 6, 108, 110, 111. -/
def Obligations.GroupEvents : Prop :=
  ∀ (s : State) (c gid : Fin 128) (g : Group), s.group c gid = some g →
    (g.idle = true → g.woken = true → exec (.idleWake c gid) s =
      .next (s.setGroup c gid (some { g with idle := false, woken := false, polled := false }))) ∧
    (∀ b, g.stop = .requested b → g.hmode = false → g.dels = [] → g.engHeld = false → s.asyncOf c g = false →
      (∀ r ∈ s.reqs, r.core = c → r.uid ≠ g.uid) →
      exec (.groupStopComplete c gid) s = .next (s.setGroup c gid (some { g with stop := .stopped b false }))) ∧
    (∀ d ds, g.dels = d :: ds → g.hmode = false → g.halted = false → (s.core c).trapvec.getLsbD 0 = true →
      (s.handler c gid g).isSome = true → (s.core c).banks.get g.part = none →
      (∀ i h, i ≠ gid → s.group c i = some h → h.part = g.part → h.dels = []) →
      ∃ t h, exec (.handlerBankGrant c g.part) s = .next t ∧ t.group c gid = some h ∧ h.hlanes = d.lanes ∧ h.dels = ds ∧
        (∀ p, h.lpc.get p = if d.lanes.has p then s.handlerEntry c else g.lpc.get p) ∧
        (∀ i : Fin 128, 112 ≤ i.val → i.val < 120 →
          h.s.get i = (s.deliveryWords c gid g d d.number false d.resume).getD (i.val - 112) 0) ∧
        ((t.core c).banks.get g.part).isSome = true ∧ t.mem = s.mem) ∧
    (∀ b gr, g.brm = some b → 256 ≤ b.elapsed → s.awake c = true → s.teamGroups c g.team = [(gid, g)] → s.gridOf c g = some gr → g.hmode = false →
      g.dels = [] → g.inState .running ≠ 0 → g.actAt b.site = g.inState .running →
      let dest (p : Fin 64) : Word := if (g.mask b.k).has p != b.neg then b.target else b.site + 4
      (∀ p, g.lst.get p = .running → (g.tid.get p).toNat % g.grant.lanes = p.val ∧
        (g.tid.get p).toNat % 64 / g.grant.lanes = g.block ∧ (dest p).toNat ≠ gr.kern.len) →
      ∃ t h, exec (.brmWindowExpiry c g.team) s = .next t ∧ t.group c gid = some h ∧ h.brm = none ∧ h.s = g.s ∧
        ∀ p, g.lst.get p = .running → h.lst.get p = .running ∧ h.tid.get p = g.tid.get p ∧ h.lpc.get p = dest p) ∧
    (∀ x w n, s.ctxOf c gid = some x → g.wait = some w → w.site = x.pc → s.waitBound c gid g x.grid w.site = some n →
      (n : Int) ≤ w.elapsed → s.awake c = true → s.satisfied c x.home x.slot x.t g.team (s.spaceOf c g) g.q.get g.tok (fun _ => false) w.on = false →
      HandlerFree s x →
      ∃ t h, exec (.waitTimeout (.group c gid)) s = .next t ∧ t.group c gid = some h ∧
        EnteredHandler s x h (recordWords 0x03 2 .other (s.siteWide c gid g w.site) false 0 0 x.pc 0 x.act (g.tid.get x.act.first).toNat (g.home x.act.first)
          gid.val c.val 0 x.grid.space (BitVec.ofNat 64 w.elapsed.toNat) (BitVec.ofNat 64 n))) ∧
    (g.enlarge ≠ 0 → (s.core c).loan = [] → (∀ i, s.groupFree c i = false) →
      (∀ i h, i ≠ gid → s.group c i = some h → h.enlarge ≠ 0 →
        g.age.1 * 2 ^ 64 + g.age.2 < h.age.1 * 2 ^ 64 + h.age.2) →
      ∃ t, exec (.coreReserveLoan c) s = .next t ∧ (t.core c).loan = [(g.uid, 0)] ∧
        t.group c gid = some { g with polled := false, enlarge := 0 }) ∧
    (s.reft = (s.core c).timerm → ∃ t, exec (.timerMatch c) s = .next t ∧ (t.core c).tev = true ∧ t.dies = s.dies ∧ t.mem = s.mem ∧
      t.group c gid = some (if g.idle then { g with woken := true } else g)) ∧
    ((s.core c).engine = some (.group c gid, 0) → ∃ t, exec (.matrixInstructionComplete c) s = .next t ∧ (t.core c).engine = none ∧
      t.group c gid = some { g with engHeld := false, polled := false })

/-! ### Graphs, quotations and the distributor -/

/-- R289 to R292: a graph's next entry, whose input is committed and whose output has room, becomes a grid; a completed firing
commits once the earlier ones of its stage have, and with the last firing of every stage a period ends; at a whole number of
periods a rebind's plan comes into force and an unbound graph is gone. R326, R329: a quotation past its EXPIRY becomes VOID; a
grid whose measured time or energy has passed its quote under HALTT or HALTE ends: its teams are gone and its quotation
settles.
The model's choices that it rests on: log entries 6, 75, 115. -/
def Obligations.GraphEvents : Prop :=
  (∀ (s : State) (id : Nat) (g : Graph), s.graphOf id = some g →
     (∀ e st, ¬(g.entry = 0 ∧ (g.swap.isSome = true ∨ g.unbind.isSome = true)) → s.isRetiring (s.die g.die).part g.space = false →
       s.writesWait g.die = false → g.plan.table[g.entry]? = some e → g.plan.stages[e.stage]? = some st →
       (∀ x ∈ g.plan.edges, (x.dst = e.stage → g.period * x.n + e.fire * x.c + x.c ≤ x.made) ∧
         (x.src = e.stage → g.period * x.n + e.fire * x.p + x.p ≤ x.used + x.cap)) →
       let last := decide (g.plan.table.length ≤ g.entry + 1)
       ∃ t, exec (.firingDispatch id) s = .next t ∧ t.mem = s.mem ∧ t.cores = s.cores ∧
         t.grids = s.grids ++ [{ st.job with id := s.nextId + 1, taken := s.nextId + 1, firing := some (id, s.nextId) }] ∧
         t.graphOf id = some { g with
           firings := g.firings ++ [⟨s.nextId, e.stage, g.period, e.fire, e.last, s.nextId + 1, [], false⟩]
           entry := if last then 0 else g.entry + 1
           period := if last then g.period + 1 else g.period }) ∧
     (∀ f, g.firings.find? (fun x => x.id == f.id) = some f → f.done = true →
       (∀ x ∈ g.firings, x.stage = f.stage → ¬(x.period < f.period ∨ x.period = f.period ∧ x.fire < f.fire)) →
       s.storesLeft g.die g.space = false →
       let set := g.doneSet ||| (1#64 <<< f.stage)
       ∃ t h, exec (.firingCommit id f.id) s = .next t ∧ t.graphOf id = some h ∧ h.firings = g.firings.filter (fun x => x.id != f.id) ∧
         h.plan.edges = g.plan.edges.map (fun e =>
           { e with made := if e.src = f.stage then e.made + e.p else e.made, used := if e.dst = f.stage then e.used + e.c else e.used }) ∧
         (f.last = false → t.mem = s.mem ∧ h.periods = g.periods ∧ h.doneSet = g.doneSet) ∧
         (f.last = true → f.period = g.periods.toNat - g.since →
           ((∃ i < g.plan.stages.length, set.getLsbD i = false) → h.doneSet = set ∧ h.periods = g.periods) ∧
           ((∀ i < g.plan.stages.length, set.getLsbD i = true) →
             h.periods = BitVec.ofNat 64 (min (g.periods.toNat + 1) (2 ^ 64 - 1))))) ∧
     (g.firings = [] → g.entry = 0 →
       (∀ plan a, g.swap = some (plan, a) → ∃ t, exec (.rebindSwap id) s = .next t ∧ t.graphOf id = some { g with
         plan := plan, period := 0, entry := 0, doneSet := 0, ahead := [], since := g.periods.toNat, swap := none }) ∧
       (∀ a, g.swap = none → g.unbind = some a → ∃ t, exec (.unbindCompletion id) s = .next t ∧ ∀ x ∈ t.graphs, x.id ≠ id))) ∧
  ∀ (s : State) (q : Quote), s.quote q.qid = some q →
    (q.state = .quoted ∨ q.state = .accepted → q.expiry.toNat < s.reft.toNat → exec (.quoteExpiry q.qid) s = .next { s with
      quotes := s.quotes.map fun x => if x.qid = q.qid then { x with state := .void } else x }) ∧
    ∀ g, s.grids.find? (fun x => x.qid == some q.qid && x.firing.isNone) = some g → s.grid g.id = some g → q.state = .running →
      let ends (i : Instr) : Prop := ∃ t, exec i s = .next t ∧ (∀ c k m, t.team c k = some m → m.grid ≠ g.id) ∧
        (∀ x ∈ t.grids, x.id ≠ g.id) ∧ ∀ x ∈ t.quotes, x.qid = q.qid → x.state = .settled
      (q.clause.getLsbD 1 = true → q.time < q.measured → ends (.haltTime q.qid)) ∧
      (q.clause.getLsbD 2 = true → q.energy < q.measuredE → ends (.haltEnergy q.qid))

/-- R11, R13, R14, R53, R236, R337, R338, R346, R347: the first waiting team that has an eligible unit is seated there: a new team, of one
core or of a pair, with its barriers and with every thread running at its kernel's entry in a group of its own core, every register
unmapped and the arguments in S; or a saved one, whose save is then gone. R121, R340: an exited team with no stream and no copy left
leaves its unit, once its open bulk transfers are closed as failed. R314, R350: a retirement with no access of the space left to perform
completes: no team, grid, graph or request of the space is left in the partition, the entry of the space reads RET = 1 on each of its
dies, and the counter at RETCNT takes one for each write.
The model's choices that it rests on: log entries 6, 30, 44, 78, 89. -/
def Obligations.PlacementEvents : Prop :=
  (∀ (s : State) (w : Waiting) (ws : List Waiting) (c : Fin 128), s.waiting = w :: ws → s.unitFor w = some c →
    (w.save = none → w.grid.threads ≤ (if w.grid.paired then 4096 else 2048) →
      ∃ t slot m, exec .teamPlacement s = .next t ∧ s.team c slot = none ∧ t.team c slot = some m ∧ m.grid = w.grid.id ∧
        m.index = w.team ∧ m.coord = w.grid.coord w.team ∧ m.flags = 0 ∧ m.paired = w.grid.paired ∧ m.odd = false ∧ t.mem = s.mem ∧
        (∀ i : Fin 16, let n := w.grid.kern.bcnt.getD i.val 0
          m.bars.get i = ⟨0, BitVec.ofNat 13 (if n = 0 then w.grid.threads else n), 0, 0, 0, 0⟩) ∧
        (w.grid.paired = true → s.team (partner c) m.mate = none ∧
          ∃ o, t.team (partner c) m.mate = some o ∧ o.grid = w.grid.id ∧ o.odd = true ∧ o.mate = slot) ∧
        (∀ k i g, s.group k i = some g → t.group k i = some g) ∧
        ∀ n < w.grid.threads, let k := if n < 2048 then c else partner c
          ∃ i g p, t.group k i = some g ∧ s.group k i = none ∧ g.team = (if n < 2048 then slot else m.mate) ∧ g.lst.get p = .running ∧
            (g.tid.get p).toNat = n ∧ g.lpc.get p = w.grid.kern.entry ∧ g.depth.get p = 0 ∧ g.mapped = 0 ∧
            ∀ k : Fin 128, g.s.get k = w.grid.args.getD k.val 0) ∧
    ∀ x, w.save = some x → ∃ t slot m, exec .teamPlacement s = .next t ∧ s.team c slot = none ∧ t.team c slot = some m ∧
      m.grid = w.grid.id ∧ m.index = x.team ∧ m.admitted = x.admitted ∧ ∀ y ∈ t.saved, y.id ≠ x.id) ∧
  (∀ (s : State) (c : Fin 128) (i : Fin 16) (m : Team), s.team c i = some m → m.odd = false → m.exited = true →
    s.streamsIdle c i m = true →
    (m.bulks = [] → s.halfCopies c i = false → (m.paired = true → s.halfCopies (partner c) m.mate = false) → ∃ t, exec (.teamRelease c i) s = .next t ∧ t.team c i = none ∧
      (m.paired = true → t.team (partner c) m.mate = none) ∧ ∀ k ∈ t.copies, ¬(k.core = c ∧ k.slot = i)) ∧
    (m.bulks ≠ [] → ∃ t, exec (.teamRelease c i) s = .next t ∧ t.team c i = some { m with bulks := [] } ∧
      ∀ b ∈ m.bulks, ∃ k ∈ t.copies, k.job = .bulk b.body b.scope ∧ k.code = 0x01 ∧ k.pages = 0 ∧ k.phase = .status)) ∧
  ∀ (s : State) (d : Fin 4) (n : Word) (r : Retiring),
    let part := (s.die d).part
    let here (e : Fin 4) : Prop := (s.die e).part = part
    s.retiring.find? (fun e => e.space == n && e.part == part) = some r → s.spaceBusy part n = false →
    ∃ t, exec (.retirementComplete d n) s = .next t ∧ (∀ e ∈ t.retiring, e.space = n → e.part ≠ part) ∧
      (∀ e ∈ t.reqs, e.space = n → ¬here (dieOf e.core)) ∧ (∀ e ∈ t.graphs, e.space = n → ¬here e.die) ∧
      (∀ e ∈ t.grids, e.space = n → ¬here e.die) ∧
      (∀ c k m, t.team c k = some m → ∀ g ∈ s.grids, g.space = n → here g.die → m.grid ≠ g.id) ∧
      let a := (s.die d).retcnt.toNat / 8 * 8
      (s.memWf → Sound s → r.writes = [d] → inVault a = true → Unlocked s a 8 → (∀ q ∈ s.quotes, q.pend = none) →
        (∀ g ∈ s.grids, g.space = n → ¬here g.die) → (∀ g ∈ s.graphs, g.space = n → ¬here g.die) →
        (∀ x e, s.spaceEntry x n = some e → e < a ∨ a + 8 ≤ e) →
        t.mem.num a 8 = min (s.mem.num a 8 + 1) (2 ^ 64 - 1) ∧
        ∀ x e, here x → s.spaceEntry x n = some e → t.mem.get e = s.mem.get e ||| 2)

/-- R341, R343, R349: when no group of a core has issued for its window and a waiting team would fit without the core's youngest open
team, that team, on one core or both of a pair, is asked to stop at an instruction boundary, each half with a span of its core's save
area set aside, the lowest that is free; a stop at safe points that it was asked for becomes one at an instruction boundary. R344: a stop
at safe points that has passed its window becomes one at an instruction boundary. R345, R347, R349: a team that has stopped as asked is
saved, as a continuation only if its work is open and its stop was at safe points, and leaves its unit with its groups.
The model's choices that it rests on: log entries 6, 46. -/
def Obligations.SwapEvents : Prop :=
  (∀ (s : State) (c : Fin 128) (i : Fin 16) (m : Team) (g : Grid), s.youngestOpen c = some (i, m, g) → (s.core c).fpwin ≠ 0 →
    ((s.core c).fpwin.toNat : Int) ≤ (s.core c).idleCount → s.awake c = true → (∀ x, m.stop = some x → x.safePoint = true) →
    (s.without (c, i, m, g)).openFits c = true →
    (∀ h ∈ m.halves c i, ∃ y, s.team h.1 h.2 = some y ∧
      ((∃ x, y.stop = some x ∧ x.span.isSome = true) ∨ (s.spanFor h.1 h.2 false).isSome = true)) →
    ∃ t, exec (.forwardProgressSwap c) s = .next t ∧ t.mem = s.mem ∧ ∀ h ∈ m.halves c i,
      ∃ y x, s.team h.1 h.2 = some y ∧ t.team h.1 h.2 = some { y with stop := some x } ∧ x.safePoint = false ∧ x.span.isSome = true ∧
        (y.stop = none → ∀ a n, s.spanFor h.1 h.2 false = some (a, n) →
          x = ⟨false, 0, some (a, n), false⟩ ∧ (t.core h.1).spans = (s.core h.1).spans ++ [⟨a, n, m.grid⟩]) ∧
        ∀ k g, s.group h.1 k = some g → g.team = h.2 → g.stop = .none ∨ g.stop = .atSafePoint →
          t.group h.1 k = some { g with stop := .requested false }) ∧
  ∀ (s : State) (c : Fin 128) (i : Fin 16) (m : Team) (x : TeamStop), s.team c i = some m → m.stop = some x →
    (x.safePoint = true → s.awake c = true → (∃ h ∈ m.halves c i, s.halfHalted h.1 h.2 = false) →
      ((if (s.core c).fpwin = 0 then 65536 else (s.core c).fpwin.toNat : Nat) : Int) ≤ x.elapsed →
      ∃ t, exec (.safePointTimeout c i) s = .next t ∧ t.team c i = some { m with stop := some { x with safePoint := false } } ∧
        t.mem = s.mem ∧
        (m.paired = true → ∀ y z, s.team (partner c) m.mate = some y → y.stop = some z →
          t.team (partner c) m.mate = some { y with stop := some { z with safePoint := false, suspend := z.suspend && x.suspend } }) ∧
        ∀ k g, s.group c k = some g → g.team = i → g.stop = .atSafePoint → t.group c k = some { g with stop := .requested false }) ∧
    ∀ gr, s.grid m.grid = some gr → m.odd = false → x.suspend = false → s.pkg.suspPhase = 0 → x.span.isSome = true → (s.die (dieOf c)).esave = false →
      s.isRetiring (s.die gr.die).part gr.space = false → s.teamStopped c i m x.safePoint = true →
      ∃ t y, exec (.teamSave c i) s = .next t ∧ t.team c i = none ∧ (m.paired = true → t.team (partner c) m.mate = none) ∧
        (∀ k g, t.group c k = some g → g.team ≠ i) ∧ t.saved = s.saved ++ [y] ∧ y.grid = gr.id ∧ y.team = m.index ∧
        y.admitted = m.admitted ∧ y.software = false ∧ y.committed = true ∧
        (y.continuation = true → x.safePoint = true ∧ gr.qid = none)

/-! ### Clocks, power and heat -/

/-- R363 to R365, R367, R377, R379: a die steps to its target ratio, at least 50 and 50 where a quotation holds a core of it, a unit lower
than it runs at while the power limits are exceeded, 100 µs after its last step; the step is logged and the relock takes 80 ticks; from
105 °C a die throttles, stepping down by one, to 25 at the lowest, every 10 µs, until TMAX is below 103 °C; wear lowers the ceiling; a
stretch costs one cycle, inside the envelope only within 3% of a microsecond's cycles, and beyond that is a device cause for the bound work
of the die; and the envelope's bits are kept.
The model's choices that it rests on: log entries 13, 28, 84. -/
def Obligations.ClockEvents : Prop :=
  ∀ (s : State) (d : Fin 4),
    let x := s.die d
    let calm (tmax : Byte) : Prop := tmax.toNat < 110 ∨ (tmax.toNat < 118 ∧ x.esave = true)
    let steps (i : Instr) (new cause : Nat) : Prop := ∃ t, exec i s = .next t ∧ (t.die d).cur.toNat = new ∧
      (t.die d).relock = some (s.reft + 80) ∧ (t.die d).lastStep = some s.reft ∧ (t.die d).fslogt = x.fslogt + 1 ∧
      t.mem = if ringBase x.fslog = 0 then s.mem
        else s.stored (ringBase x.fslog + 32 * (x.fslogt.toNat % ringSize x.fslog))
          (dwordBytes [s.reft, x.cyc, BitVec.ofNat 64 (x.cur.toNat + new * 2 ^ 8 + cause * 2 ^ 16), BitVec.ofNat 64 x.fslogt.toNat])
    (∀ cause : Fin 4, cause ≠ 1 → x.relock = none → x.throt = false → (∀ l, x.lastStep = some l → 10000 ≤ (s.reft - l).toNat) →
      let want := min x.req.toNat x.cap.toNat
      let new := if s.dieHeld d then 50 else max 50 (if s.pkg.overPower then min want (x.cur.toNat - 1) else want)
      x.cur.toNat ≠ new → (new < x.cur.toNat ∨ x.tmax.toNat < 103) → steps (.frequencyStep d cause) new cause.val) ∧
    (let stepsDown (i : Instr) (tmax : Byte) : Prop := steps i (x.cur.toNat - 1) 1 ∧
       ∃ t, exec i s = .next t ∧ (t.die d).throttleAt = s.reft + 1000 ∧ (t.die d).tmax = tmax
     x.throt = true → x.relock = none → 25 < x.cur.toNat → x.throttleAt.toNat ≤ s.reft.toNat →
       stepsDown (.frequencyStep d 1) x.tmax ∧
       ∀ tmax : Byte, 103 ≤ tmax.toNat → calm tmax → stepsDown (.throttleStep d tmax) tmax) ∧
    (x.throt = true → s.reft.toNat < x.throttleAt.toNat → exec (.frequencyStep d 1) s = .next s) ∧
    (∀ tmax : Byte, tmax.toNat < 103 →
      exec (.throttleStep d tmax) s = .next (s.setDie d { x with tmax := tmax, throt := false })) ∧
    (∀ tmax : Byte, 105 ≤ tmax.toNat → calm tmax → x.throt = false →
      exec (.throttle d tmax) s = .next (s.setDie d { x with tmax := tmax, throt := true, throttleAt := s.reft + 1000 })) ∧
    (∀ l, x.relock = some l → l.toNat ≤ s.reft.toNat →
      ∃ t, exec (.relockComplete d) s = .next t ∧ (t.die d).relock = none ∧ (t.die d).cur = x.cur) ∧
    (let lost := min 80 (180 - x.lastStep.elim 180 fun l => (s.reft - l).toNat)
     let n := x.stretches.length + 1
     let may := n * 100 ≤ 3 * (x.cur.toNat * (100 - lost) / 4 - n)
     let after : State := s.setDie d { x with cycLeft := x.cycLeft - 1, stretches := x.stretches ++ [s.reft] }
     (may → exec (.droopStretch d) s = .next after) ∧
     (¬may → (x.live = 0 → exec (.droopStretch d) s = .next s) ∧
       (x.live ≠ 0 → exec (.droopStretch d) s = .next { after with
         quotes := s.quotes.map fun q => if q.state = .running ∧ (∃ c ∈ coresOf d, q.cores.getLsbD c.val = true)
           then { q with devCause := 0x23 } else q }))) ∧
    (∀ w, (∀ i, (x.wear.get i).toNat / 2 ^ 38 ≤ w) → (∃ i, (x.wear.get i).toNat / 2 ^ 38 = w) →
      ∃ t, exec (.capChange d) s = .next t ∧ (t.die d).cap.toNat = min x.cap.toNat (max 50 (72 - w))) ∧
    ∀ live, exec (.envelopeChange d live) s = .next (s.setDie d { x with live := live, sticky := x.sticky ||| live })

/-- R368, R370, R371, R373, R374: a core clock-gated for 50 µs without a wake is held, and then gated; one that something wakes
restarts and takes its latched events, a gated one once its quadrant lets it ramp; and a suspend goes from stopped teams
through the ports to the images of the cores and the suspended state, while quotations that are QUOTED become VOID and running ones
pause (R326, R330).
The model's choices that it rests on: log entries 6, 79. -/
def Obligations.PowerEvents : Prop :=
  (∀ (s : State) (c : Fin 128) (n : Nat),
    let k := s.core c
    (k.power = .clockGated n → 5000 ≤ s.reft.toNat - n → k.pwrst.getLsbD 2 = false → s.coreHeld c = false → s.coreWakes c = false →
      (∀ i g, s.group c i = some g → g.wait = none) →
      exec (.breakEvenHold c) s = .next (s.setCore c { k with power := .held s.reft.toNat })) ∧
    (k.power = .held n → s.coreWakes c = false → exec (.powerGate c) s = .next (s.setCore c { k with power := .gated })) ∧
    (k.power = .gated → s.coreWakes c = true → exec (.coreWake c) s = .next (s.setCore c { k with power := .waking s.reft.toNat })) ∧
    (k.power = .clockGated n ∨ k.power = .held n → s.coreWakes c = true → (s.die (dieOf c)).chiveHeld = [] →
      ∃ t, exec (.coreWake c) s = .next t ∧ (t.core c).power = .active ∧
        (t.die (dieOf c)).chive = (s.die (dieOf c)).chive.filter (fun e => e.1 != c) ∧
        ((c, .notify) ∈ (s.die (dieOf c)).chive → ∀ i g, s.group c i = some g → g.idle = true →
          t.group c i = some { g with woken := true })) ∧
    (k.power = .waking n → ((s.die (dieOf c)).ramps.get (quadOf c)).length < 4 →
      (∀ e : Fin 128, e < c → dieOf e = dieOf c → quadOf e = quadOf c → ∀ m, (s.core e).power ≠ .waking m) →
      ∃ t, exec (.inrushGrant (dieOf c) (quadOf c)) s = .next t ∧ (t.core c).power = .ramping 200 ∧
        (t.die (dieOf c)).ramps.get (quadOf c) = (s.die (dieOf c)).ramps.get (quadOf c) ++ [c])) ∧
  ∀ s : State,
    let quotes := s.quotes.map fun q =>
      if q.state = .quoted then { q with state := .void } else if q.state = .running then { q with paused := true } else q
    (s.pkg.suspPhase = 1 → s.allStopped = true →
      exec .suspendStep s = .next { s with quotes := quotes, pkg := { s.pkg with suspPhase := 2 } }) ∧
    (s.pkg.suspPhase = 2 → exec .suspendStep s = .next { s with
      ports := s.ports.map fun p => { p with trained := false, confirming := false }
      quotes := quotes, pkg := { s.pkg with suspPhase := 3 } }) ∧
    (s.pkg.suspPhase = 3 → s.memWf → Sound s → (∀ c, Unlocked s (s.slotOf c) 0x800000) → ∃ t, exec .suspendStep s = .next t ∧ t.pkg = { s.pkg with suspPhase := 4 } ∧ t.cores = s.cores ∧
      t.quotes = quotes ∧ ∀ c, (∀ k < 0x600000, t.mem.get (s.slotOf c + k) = (s.core c).pool.get k) ∧
        ∀ k < 0x20000, t.mem.get (s.slotOf c + 0x600000 + k) = (s.core c).scale.get k) ∧
    (s.pkg.suspPhase = 4 →
      exec .suspendStep s = .next { s with quotes := quotes, pkg := { s.pkg with suspPhase := 5, mbstate := .suspended } })

/-- R377, R378, R380, R381: from 110 °C a die's teams are asked to stop, each with a span, one without room being lost; a stopped team is
saved and listed; below 103 °C a die no longer throttles; and from 118 °C on the package loses its power, by whichever event the
temperature is sensed, the vaults and the committed saves being what is left.
The model's choices that it rests on: log entries 6, 28, 47. -/
def Obligations.ThermalEvents : Prop :=
  ∀ (s : State) (d : Fin 4) (tmax : Byte),
    (∀ c i m g, 110 ≤ tmax.toNat → tmax.toNat < 118 → (s.die d).esave = false → s.emergencyOrder d = [(c, i, m, g)] →
      s.team c i = some m → m.paired = false → m.stop = none →
      (∀ a n, s.spanFor c i false = some (a, n) → ∃ t, exec (.emergencySave d tmax) s = .next t ∧ (t.die d).esave = true ∧
        (t.die d).tmax = tmax ∧ (t.die d).throt = true ∧ (t.die d).esqueue = (s.die d).esqueue ++ [(c, i)] ∧
        t.team c i = some { m with stop := some ⟨false, 0, some (a, n), false⟩ } ∧
        (t.core c).spans = (s.core c).spans ++ [⟨a, n, m.grid⟩]) ∧
      (s.spanFor c i false = none → ∃ t, exec (.emergencySave d tmax) s = .next t ∧ (t.die d).esave = true ∧ t.team c i = none)) ∧
    (∀ c i m g, (s.die d).esqueue = [(c, i)] → s.team c i = some m → s.grid m.grid = some g → m.paired = false → m.odd = false →
      m.exited = false → s.isRetiring (s.die g.die).part g.space = false → s.teamStopped c i m false = true →
      ∃ t y, exec (.emergencySaveCommit d) s = .next t ∧ t.team c i = none ∧ y ∈ t.saved ∧ y.grid = g.id ∧ y.team = m.index ∧
        y.hot = some d ∧ y.committed = true ∧ (t.die d).esqueue = [] ∧ (t.die d).esave = false ∧
        (t.die d).esmark = (s.die d).esmark + 1) ∧
    (tmax.toNat < 103 → ∀ i ∈ [Instr.throttle d tmax, .emergencySave d tmax, .hardTrip d tmax],
      exec i s = .next (s.setDie d { s.die d with tmax := tmax, throt := false })) ∧
    (118 ≤ tmax.toNat → ∀ i ∈ [Instr.throttle d tmax, .throttleStep d tmax, .emergencySave d tmax, .hardTrip d tmax],
      ∃ t, exec i s = .next t ∧ t.mem = s.mem ∧ t.pkg.flash = s.pkg.flash ∧
        t.pkg.mbstate = .booting ∧ t.saved = s.saved.filter (fun x => x.hot.isSome && x.committed) ∧ (∀ e, (t.die e).tripped = true) ∧
        ∀ c, (∀ i, t.team c i = none) ∧ ∀ i, t.group c i = none)

/-! ### Ports, links, the start of the device and its errors -/

/-- R376, R395: a retrained port gives its peer its receive sequence and counts as untrained until the peer confirms a sequence that it
has sent, from which on it sends again; outside retraining such a sequence acknowledges what came before it; RETRY counts to 255, and the
oldest message kept is sent again; a port that may not send does none of this (R384); an inbound write, read or add is performed in its window or rejected; and the answer to a request ends it, a reject as a PAGE
fault of the lane that made it. R355 to R357, R397: Sorrel writes the record of a request that its checks pass at the tail of the
service's queue and remembers it; another it rejects, to the sender's port; one whose wake events have no room waits (R371).
The model's choices that it rests on: log entries 17, 51, 81, 85. -/
def Obligations.PortEvents : Prop :=
  (∀ (s : State) (port : Fin 16),
     let p := s.ports.get port
     (s.portsSend = true → ∃ t, exec (.portRetrain port) s = .next t ∧ t.ports.get port = { p with trained := false, confirming := true } ∧
       t.outbox = s.outbox ++ [.sequence port p.recvSeq] ∧ ∀ q, q ≠ port → t.ports.get q = s.ports.get q) ∧
     (∀ seq : Word, s.portsSend = true → p.mayConfirm seq = true →
       let left := p.keptFrom seq
       ∃ t, exec (.portSequenceConfirm port seq) s = .next t ∧
         (p.confirming = true → t.ports.get port = { p with trained := true, confirming := false, sent := left } ∧
           t.outbox = s.outbox ++ left.map Prod.snd) ∧
         (p.confirming = false → t.ports.get port = { p with sent := left } ∧ t.outbox = s.outbox)) ∧
     (s.portsSend = true → ∃ t, exec (.flitRetry port) s = .next t ∧ (t.ports.get port).retry.toNat = min (p.retry.toNat + 1) 255 ∧
       t.outbox = s.outbox ++ (p.sent.head?.map Prod.snd).toList) ∧
     (s.portsSend = false → ∀ seq, ∀ i ∈ [Instr.portRetrain port, .portSequenceConfirm port seq, .flitRetry port], exec i s = .next s) ∧
     (p.trained = true → s.pkg.mbstate = .running → Sound s →
       let inside (off : DWord) (n : Nat) : Prop :=
         let pa := p.wbase.toNat * 65536 + off.toNat
         off.toNat + n ≤ p.wlen.toNat * 2 ^ 30 ∧ field pa 46 2 = 0 ∧ field pa 39 7 = 0 ∧ pa % 2 ^ 32 + n ≤ 0xC0000000
       let rejects (i : Instr) : Prop := ∃ t st, exec i s = .next t ∧ t.mem = s.mem ∧
         t.outbox = s.outbox ++ [.reject port none (rejectBytes p.sendSeq p.recvSeq st)]
       ∀ off : DWord,
         let pa := p.wbase.toNat * 65536 + off.toNat
         (∀ bytes, (inside off bytes.length → ∃ t, exec (.peerWrite port off bytes) s = .next t ∧ t.mem = s.stored pa bytes ∧
             t.ports.get port = { p with recvSeq := p.recvSeq + BitVec.ofNat 32 (flits bytes.length) }) ∧
           (¬inside off bytes.length → rejects (.peerWrite port off bytes))) ∧
         (∀ n, (inside off n → ∃ t, exec (.peerRead port off n) s = .next t ∧ t.mem = s.mem ∧
             t.outbox = s.outbox ++ [.response port p.sendSeq p.recvSeq (s.mem.bytes pa n)] ∧
             t.ports.get port = { p with
               recvSeq := p.recvSeq + BitVec.ofNat 32 (flits 0), sendSeq := p.sendSeq + BitVec.ofNat 32 (flits n)
               sent := p.sent ++ [(p.sendSeq, .response port p.sendSeq p.recvSeq (s.mem.bytes pa n))] }) ∧
           (¬inside off n → rejects (.peerRead port off n))) ∧
         ∀ amount : DWord, (inside off 8 → ∃ t, exec (.peerAdd port off amount) s = .next t ∧
             t.mem = storedField s pa 8 (min (s.mem.num pa 8 + amount.toNat) (2 ^ 64 - 1)) ∧
             t.ports.get port = { p with recvSeq := p.recvSeq + BitVec.ofNat 32 (flits 8) }) ∧
           (¬inside off 8 → rejects (.peerAdd port off amount))) ∧
     ∀ seq id r, p.trained = true → s.pkg.mbstate = .running → p.reads.find? (fun e => e.1 == seq) = some (seq, id) →
       s.reqs.find? (fun e => e.id == id && e.phase == .away) = some r →
       (∀ bytes, r.kind = .load → Sound s → ∃ t, exec (.peerResponse port seq bytes) s = .next t ∧
         t.ports.get port = { p with recvSeq := p.recvSeq + BitVec.ofNat 32 (flits bytes.length), reads := p.reads.filter fun e => e.1 != seq } ∧
         t.reqs = s.reqs.map fun e =>
           if e.id = id then { e with phase := .done (BitVec.ofNat 64 (leNat (bytes.take r.size))) false } else e) ∧
       ∀ st gid g, r.kind ≠ .other → (∀ copy u, (s.core r.core).stream copy = some u → u.uid ≠ r.uid) → s.findGroup r.core r.uid = some gid →
         s.group r.core gid = some g → g.lst.get r.pos = .running → g.hmode = false → g.halted = false → g.dels = [] →
         (s.core r.core).trapvec.getLsbD 0 = true → (∃ b, s.handler r.core gid g = some b ∧ s.handlerEntry r.core ≠ b.hlen) →
         (s.core r.core).banks.get g.part = none → s.olderPending r.core gid g = false →
         ∃ t h, exec (.peerReject port seq st) s = .next t ∧ t.reqs = s.reqs.filter (fun e => e.id != r.id) ∧
           t.group r.core gid = some h ∧ h.hlanes = Lanes.one r.pos ∧ h.lpc.get r.pos = s.handlerEntry r.core ∧
           (h.s.get 112).toNat % 256 = 0x07 ∧ h.s.get 114 = r.va) ∧
  ∀ (s : State) (port : Fin 16) (header payload : List Byte), (s.ports.get port).trained = true → s.pkg.mbstate = .running →
    let d : Fin 4 := Fin.ofNat 4 (port.val / 4)
    let h := readHeader header
    let first := ∀ y ∈ (s.die d).doors, y.line ≠ 2 + port.val
    (h.kind = 4 → first → ∀ e n, s.serviceCheck d h = .ok (e, n) → s.workOpen d n = true → Sound s →
      let q := s.workEntry d n
      let u : State := { s with mem := s.stored (s.workRecord q (s.workTail q)) (leBytes 8 (h.cls + port.val * 4 + h.seq.toNat * 2 ^ 32) ++
        (List.range 56).map fun i => if i < h.plen then payload.getD i 0 else 0) }
      ∃ t, exec (.peerRequest port header payload) s = .next t ∧ t.mem = storedField u (q + 12) 4 ((s.workTail q + 1) % 2 ^ 32) ∧
        ∃ v, t.served = s.served ++ [v] ∧ v.qid = BitVec.ofNat 64 (s.mem.num (e + 0x18 + 8 * h.cls) 8) ∧ v.part = (s.die d).part ∧
          v.handle = n ∧ v.record = BitVec.ofNat 32 (s.workTail q) ∧ v.since = s.reft ∧ v.taker = none) ∧
    (h.kind = 4 ∨ 5 < h.kind → first → Sound s → ∀ st, s.serviceCheck d h = .error st →
      ∃ t, exec (.peerRequest port header payload) s = .next t ∧ t.mem = s.mem ∧
        t.served = s.served ∧ t.outbox = s.outbox ++ [.reject port (some h.rport) (rejectBytes (s.ports.get port).sendSeq h.seq st)]) ∧
    (h.kind = 4 → (¬first ∨ ∃ e n, s.serviceCheck d h = .ok (e, n) ∧ s.workOpen d n = false) →
      ∃ t, exec (.peerRequest port header payload) s = .next t ∧ t.mem = s.mem ∧ t.outbox = s.outbox ∧
        (t.die d).doors = (s.die d).doors ++ [.message port header payload])

/-- R373, R389 to R394, R398: a link retrains and goes on, or is down after the third failure in a row; a host access within the
vaults is performed and another is not; a scrub request's lines are zeroed in ascending order but for the frames that KRMAP reserves, and
once it is over the number of those is written and its counter advances; a patrol read logs what it finds; and the third empty heartbeat window in a row makes a die an orphan.
The model's choices that it rests on: log entries 12, 52, 55. -/
def Obligations.HealthEvents : Prop :=
  (∀ (s : State) (k : Fin 6),
    let l := s.links.get k
    (l.down = false → ∃ t, exec (.dieLinkRetrain k) s = .next t ∧ t.links.get k = { l with retraining := true }) ∧
    (l.retraining = true →
      (∃ t, exec (.linkRetrainingEnd k true) s = .next t ∧ t.links.get k = { l with retraining := false, failures := 0 }) ∧
      (l.failures < 2 → ∃ t, exec (.linkRetrainingEnd k false) s = .next t ∧ t.links.get k = { l with failures := l.failures + 1 }) ∧
      (2 ≤ l.failures → ∃ t, exec (.linkRetrainingEnd k false) s = .next t ∧ (t.links.get k).down = true ∧
        (t.links.get k).retraining = false ∧ t.pkg.linkdn.getLsbD k.val = true))) ∧
  (∀ (s : State) (wr : Bool) (addr : BitVec 39) (size : Fin 4) (data : DWord), Sound s →
    let pa := addr.toNat
    let n := 2 ^ size.val
    (s.bar2Open pa n = true →
      ∃ t, exec (.hostBar2Access wr addr size data) s = .next t ∧ t.cores = s.cores ∧
        t.mem = (if wr then storedField s pa n data.toNat else s.mem) ∧
        t.outbox = s.outbox ++ [.completion true (if wr then 0 else BitVec.ofNat 64 (s.mem.num pa n))]) ∧
    (s.bar2Open pa n = false →
      exec (.hostBar2Access wr addr size data) s = .next { s with outbox := s.outbox ++ [.completion false 0] })) ∧
  ∀ (s : State) (d : Fin 4),
    (∀ r rest, (s.die d).scrubs = r :: rest → Sound s →
      (r.pos < r.n * 65536 → let a := r.base + r.pos
        (¬(r.pos % 65536 = 0 ∧ (isVaultOf d a = false ∨ s.kernelReserved d a = true)) →
          (s.scrubLine d).mem = s.mem.store a (List.replicate 64 0) ∧
            ((s.scrubLine d).die d).scrubs = { r with pos := r.pos + 64 } :: rest) ∧
        (r.pos % 65536 = 0 → isVaultOf d a = true → s.kernelReserved d a = true → (s.scrubLine d).mem = s.mem ∧
          ((s.scrubLine d).die d).scrubs = { r with pos := r.pos + 65536, skipped := r.skipped + 1 } :: rest)) ∧
      (r.n * 65536 ≤ r.pos → inVault r.counter = true →
        let u : State := { s with mem := storedField s (r.counter + 8) 8 r.skipped }
        ∃ t, exec (.scrubCompletion d) s = .next t ∧ (t.die d).scrubs = rest ∧
          t.mem = storedField u r.counter 8 (min (u.mem.num r.counter 8 + 1) (2 ^ 64 - 1)))) ∧
    (∀ arr ue, s.marks = [] → arrayDie arr = d → ∃ t, exec (.patrolRead arr ue) s = .next t ∧
      (t.die d).errlogt = (s.die d).errlogt + 1 ∧ (ue = false → t.marks = []) ∧
      (ue = true → t.marks = [⟨arr.arr, if arr.arr.val ≤ 2 then arr.core else 0, arr.addr.toNat / markSpan arr.arr * markSpan arr.arr, true, false⟩])) ∧
    (s.pkg.mbstate = .running → s.reft.toNat % 100000 = 0 →
      ((s.die d).hbSeen = true → exec (.heartbeatWindowEnd d) s =
        .next (s.setDie d { s.die d with hbSeen := false, hbMissed := 0 })) ∧
      ((s.die d).hbSeen = false → (s.die d).hbMissed < 2 → exec (.heartbeatWindowEnd d) s =
        .next (s.setDie d { s.die d with hbMissed := (s.die d).hbMissed + 1 })) ∧
      ((s.die d).hbSeen = false → 2 ≤ (s.die d).hbMissed → (s.die d).orphan = false →
        ∃ t, exec (.heartbeatWindowEnd d) s = .next t ∧ (t.die d).orphan = true ∧
          (∀ o, s.adopter d = some o → (t.die d).owner = o) ∧ (s.adopter d = none → t.outbox = s.outbox ++ [.msix 1])))

/-- R382 to R384: a start whose stages verify and whose self-test passes records their digests and leaves the device running; a
stage that does not verify, or a failed item, leaves it safe with that FAILCODE. A partition's image is measured into its own
slot.
The model's choices that it rests on: log entries 14, 48. -/
def Obligations.StartEvents : Prop :=
  ∀ s : State,
    (s.pkg.mbstate = .booting →
      let good (n : Fin 4) := Config.stageVerifies (s.pkg.stageImage n) = true
      ((∀ n, good n) → selfTestFails s.fresh = none → ∃ t, exec .boot s = .next t ∧ t.pkg.mbstate = .running ∧ t.pkg.failcode = 0 ∧
        t.pkg.boots = s.pkg.boots + 1 ∧ t.pkg.lost = [] ∧ ∀ k : Fin 8,
          t.pkg.slots.get k = if k.val < 4 then sha512 (s.pkg.stageImage (Fin.ofNat 4 k.val)) else List.replicate 64 0) ∧
      (∀ n : Fin 3, (∀ m : Fin 3, m < n → good (Fin.ofNat 4 m.val)) → ¬good (Fin.ofNat 4 n.val) →
        ∃ t, exec .boot s = .next t ∧ t.pkg.mbstate = .safe ∧ t.pkg.failcode.toNat = 0x10 + n.val ∧ t.mem = s.mem) ∧
      (∀ item, good 0 → good 1 → good 2 → selfTestFails s.fresh = some item →
        ∃ t, exec .boot s = .next t ∧ t.pkg.mbstate = .safe ∧ t.pkg.failcode.toNat = item ∧ t.mem = s.mem) ∧
      (good 0 → good 1 → good 2 → selfTestFails s.fresh = none → ¬good 3 →
        ∃ t, exec .boot s = .next t ∧ t.pkg.mbstate = .safe ∧ t.pkg.failcode.toNat = 0x13 ∧ t.mem = s.mem)) ∧
    (s.pkg.mbstate = .running → ∀ (part : Fin 4) (image : List Byte),
      (Config.stageVerifies image = true → exec (.partitionStart part image) s = .next { s with
        pkg := { s.pkg with slots := s.pkg.slots.set (Fin.ofNat 8 (4 + part.val)) (sha512 image) } }) ∧
      (Config.stageVerifies image = false → exec (.partitionStart part image) s = .next { s with
        pkg := { s.pkg with mbstate := .safe, failcode := BitVec.ofNat 8 (0x14 + part.val) } }))

/-! ### Commands, the mailbox and register writes -/

/-- R316 to R318, R320, R326 to R328: LOAD adds a file under an unused handle, and UNLOAD takes one away; QUOTE of a launch record
adds a quotation, ACCEPT and DECLINE make one ACCEPTED or VOID, and LAUNCH makes a grid that waits for placement.
That ACCEPT and LAUNCH are in time at REFT equal to EXPIRY, where R326 says before EXPIRY, is the model's choice (log entry 70), and so is
that the quotation takes the queue and the die of its LAUNCH (log entry 71).
The model's choices that it rests on: log entries 59, 70, 71. -/
def Obligations.CommandResult : Prop :=
  ∀ (s : State) (d : Fin 4) (q : Byte),
    let c := s.commandOf d q.toNat
    let u := s.advanceQueue c
    let rooted := (s.spaceRoot d c.space).isSome = true
    (Taken s d q 1 → (u.spaceRoot d c.space).isSome = true → ∀ f v, u.frontRead d c.space c.a0 c.a1.toNat = (.ok f, v) →
      (∀ b ks, loadPlan f c.a0.toNat = .ok (b, ks) → ofType b.sects 2 = [] → s.files.length < 65535 →
        ∃ t h fs, exec (.cmdLoad d q) s = .next t ∧ t.files = s.files ++ [⟨h, c.space, fs, b.graphs⟩] ∧ 1 ≤ h ∧
          h ≤ 65535 ∧ (∀ x ∈ s.files, x.handle ≠ h) ∧ fs.length = b.kerns.length ∧
          ∀ k ∈ fs, ∃ y ∈ b.kerns, k = { y.1 with digest := k.digest }) ∧
      (∀ e, loadPlan f c.a0.toNat = .error e → ∃ t, exec (.cmdLoad d q) s = .next t ∧ t.files = s.files)) ∧
    (Taken s d q 2 → rooted → (∃ x ∈ s.files, x.handle = c.a0.toNat ∧ x.space = c.space) →
      (∀ x ∈ s.quotes, x.handle = c.a0.toNat → x.state ≠ .accepted ∧ x.state ≠ .running) →
      (∀ x ∈ s.grids, x.handle = c.a0.toNat → x.teams ≤ x.finished) →
      ∃ t, exec (.cmdUnload d q) s = .next t ∧
        t.files = s.files.filter (fun x => !(x.handle == c.a0.toNat && x.space == c.space)) ∧
        t.quotes = s.quotes.map fun x => if x.handle = c.a0.toNat ∧ x.state = .quoted then { x with state := .void } else x) ∧
    (Taken s d q 3 → rooted → c.a0 ≠ 0 → c.a2 = 0 → c.a0.toNat % 64 = 0 → c.a1.toNat % 64 = 0 →
      ∀ b v k ss w z, u.frontRead d c.space c.a0 256 = (.ok b, v) → v.kernelFor c.space (launchRec b) = some k →
        v.launchProblem c (launchRec b) true true [] = none → v.pinsWait d c.space k.pins = false →
        v.codeOf c k = (.ok ss, w) → unboundedCycle ss = false →
        w.frontStore d c.space c.a1 (w.quoteGrid c (launchRec b) k ss).bytes = (.ok (), z) →
        ∃ t x, exec (.cmdQuote d q) s = .next t ∧ t.quotes = s.quotes ++ [x] ∧ x.qid = s.pkg.quoteSeq ∧ x.state = .quoted ∧
          x.expiry = s.reft + 100000 ∧ x.digest = k.digest ∧ t.pkg.quoteSeq = s.pkg.quoteSeq + 1) ∧
    (rooted → ∀ x, s.quote c.a0 = some x → s.reft.toNat ≤ x.expiry.toNat →
      let others := s.quotes.filter Quote.holds
      (Taken s d q 4 → x.state = .quoted →
        ((∀ y ∈ others, y.cores &&& x.cores = 0) →
          (∀ v < 128, x.vaults.getLsbD v = true → (others.filter fun y => y.vaults.getLsbD v).length ≤ 3) →
          u.pinsValid x.die x.space x.pins = true → powerFits (x :: others) = true → s.openTeamsOn x.cores = [] →
          ∃ t, exec (.cmdAccept d q) s = .next t ∧ ∃ y ∈ t.quotes, y.qid = x.qid ∧ y.state = .accepted ∧ y.cores = x.cores) ∧
        ((∃ y ∈ others, y.cores &&& x.cores ≠ 0) →
          ∃ t, exec (.cmdAccept d q) s = .next t ∧ ∀ y ∈ t.quotes, y.qid = x.qid → y.state = .void)) ∧
      (Taken s d q 5 → x.state = .quoted ∨ x.state = .accepted →
        ∃ t, exec (.cmdDecline d q) s = .next t ∧ ∀ y ∈ t.quotes, y.qid = x.qid → y.state = .void)) ∧
    (Taken s d q 6 → rooted →
      (c.a0 = 0 → c.a1 ≠ 0 → ∀ x g, s.quote c.a1 = some x → s.reft.toNat ≤ x.expiry.toNat → x.state = .accepted → x.job = some g →
        ∃ t, exec (.cmdLaunch d q) s = .next t ∧ t.mem = u.mem ∧
          t.quotes = s.quotes.map (fun y => if y.qid = x.qid then { y with state := .running, die := d, queue := q.toNat } else y) ∧
          t.grids = s.grids ++ [{ g with
            id := s.nextId, taken := s.nextId, die := d, queue := q.toNat, prio := c.prio, imm := c.imm, units := x.units
            stat := some ⟨d, c.space, c.stat⟩ }]) ∧
      (c.a0 ≠ 0 → c.a1 = 0 → c.a0.toNat % 64 = 0 → ∀ b v k, u.frontRead d c.space c.a0 256 = (.ok b, v) →
        v.launchProblem c (launchRec b) false false [] = none → v.kernelFor c.space (launchRec b) = some k →
        ∃ t, exec (.cmdLaunch d q) s = .next t ∧ t.grids = s.grids ++ [{ (launchRec b).grid c k none with
          id := v.nextId, taken := v.nextId, stat := some ⟨d, c.space, c.stat⟩ }]))

/-- R282, R288, R291, R292: BIND of a descriptor that solves makes a graph of its plan, or gives a bound graph the plan that its
next whole number of periods will put in force; UNBIND asks for a graph's end.
The model's choices that it rests on: log entries 73, 74. -/
def Obligations.BindResult : Prop :=
  ∀ (s : State) (d : Fin 4) (q : Byte),
    let c := s.commandOf d q.toNat
    let u := s.advanceQueue c
    (s.spaceRoot d c.space).isSome = true →
    (Taken s d q 7 → c.a1 = 0 → ∀ b v w, u.solveBind c c.a0 none false = (.ok b, v) →
      (∀ g ∈ s.graphs, g.ctl = b.desc.ctl → g.space = b.desc.space → g.unbind = none) →
      v.frontStore d b.desc.space b.plan.tableVa b.plan.tableBytes = (.ok (), w) →
      ((∀ g ∈ s.graphs, g.ctl = b.desc.ctl → g.space ≠ b.desc.space) →
        ∃ t g, exec (.cmdBind d q) s = .next t ∧ t.graphs = s.graphs ++ [g] ∧ g.ctl = b.desc.ctl ∧ g.space = b.desc.space ∧
          g.plan = b.plan ∧ g.period = 0 ∧ g.entry = 0 ∧ g.firings = [] ∧ g.periods = 0 ∧ g.swap = none ∧ g.unbind = none) ∧
      ∀ g, s.graphs.find? (fun x => x.ctl == b.desc.ctl && x.space == b.desc.space) = some g →
        ∃ t, exec (.cmdBind d q) s = .next t ∧ t.graphs = s.graphs.map fun x =>
          if x.id = g.id then { x with swap := some (b.plan, ⟨d, c.space, c.stat⟩) } else x) ∧
    (Taken s d q 8 → ∀ g, s.graphs.find? (fun x => x.ctl == c.a0 && x.space == c.space && x.unbind.isNone) = some g →
      ∃ t, exec (.cmdUnbind d q) s = .next t ∧ t.mem = u.mem ∧ t.graphs = s.graphs.map fun x =>
        if x.id = g.id then { x with unbind := some ⟨d, c.space, c.stat⟩ } else x)

/-- R375, R382, R385 to R388: a mailbox command completes with its number and status in MBDONE and MSI-X vector 0, with STATUS 4
while another runs. RESUME makes a suspended device run; ATTEST, LOGDUMP and IDCERT write their answers into the command buffer;
RELOAD takes a new image, whose stages verify, and starts again with no work and no vault contents; it suspends a running device first,
which an image that does not verify leaves suspended.
The model's choices that it rests on: log entries 14, 15, 49, 50. -/
def Obligations.MailboxResult : Prop :=
  ∀ (s : State) (len : BitVec 56),
    let done (t : State) (cmd status : Nat) : Prop := t.pkg.doneCmd.toNat = cmd ∧ t.pkg.doneStatus.toNat = status ∧
      t.pkg.doneSeq = s.pkg.doneSeq + 1
    let awake := s.pkg.mbstate = .running ∨ s.pkg.mbstate = .safe
    let wrote (t : State) (a : DWord) (bs : List Byte) : Prop := t.outbox = s.outbox ++ [.hostWrite a bs, .msix 0]
    (s.pkg.cmd ≠ none → ∀ i cmd, (i, cmd) ∈ [(Instr.mbResume len, 1), (.mbAttest len, 2), (.mbReload len, 3), (.mbLogdump len, 4),
        (.mbIdcert len, 5)] →
      ∃ t, exec i s = .next t ∧ done t cmd 4 ∧ t.outbox = s.outbox ++ [.msix 0] ∧ t.mem = s.mem ∧ t.cores = s.cores) ∧
    (s.pkg.cmd = none →
    (s.pkg.mbstate = .suspended → (∀ item, item = 3 ∨ item = 4 ∨ item = 5 → Config.selfTestPasses s.fresh item 0 = true) →
      (∀ c, coreFails s.fresh 1 c = false ∧ coreFails s.fresh 2 c = false) →
      ∃ t, exec (.mbResume len) s = .next t ∧ done t 1 0 ∧ t.pkg.mbstate = .running ∧ t.pkg.suspPhase = 0 ∧
        (∀ c, (t.core c).excluded = false ∧ (t.core c).power = .active) ∧ ∀ q ∈ t.quotes, q.paused = false) ∧
    (s.pkg.mbstate ≠ .suspended → ∃ t, exec (.mbResume len) s = .next t ∧ done t 1 1 ∧ t.cores = s.cores ∧ t.mem = s.mem) ∧
    (awake → s.pkg.mbarg.toNat % 4096 = 0 →
      (1216 ≤ len.toNat → ∃ t bs, exec (.mbAttest len) s = .next t ∧ done t 2 0 ∧ wrote t (s.pkg.mbarg + 64) bs ∧
        bs.take 8 = leBytes 8 0x154415451 ∧ (bs.drop 16).take 64 = (List.range 64).map fun i =>
          Config.hostByte s.fresh (s.pkg.mbarg + BitVec.ofNat 64 i)) ∧
      (len.toNat < 1216 → ∃ t, exec (.mbAttest len) s = .next t ∧ done t 2 2 ∧ t.outbox = s.outbox ++ [.msix 0]) ∧
      (∃ t bs, exec (.mbLogdump len) s = .next t ∧ done t 4 0 ∧ wrote t s.pkg.mbarg bs ∧ bs.length ≤ len.toNat) ∧
      (8 + certLength ≤ len.toNat → ∃ t, exec (.mbIdcert len) s = .next t ∧ done t 5 0 ∧
        wrote t s.pkg.mbarg (leBytes 8 certLength ++ (List.range certLength).map Config.certificateByte)) ∧
      let image := (List.range len.toNat).map fun i => Config.hostByte s.fresh (s.pkg.mbarg + BitVec.ofNat 64 i)
      ((∀ n : Fin 4, Config.stageVerifies (Config.flashStage image n) = true) →
        ∃ t, exec (.mbReload len) s = .next t ∧ done t 3 0 ∧ t.pkg.flash = image ∧ t.pkg.mbstate = .booting ∧
          t.mem = [] ∧ ∀ c i, t.team c i = none) ∧
      ((∃ n : Fin 4, Config.stageVerifies (Config.flashStage image n) = false) →
        ∃ t, exec (.mbReload len) s = .next t ∧ done t 3 3 ∧ t.pkg.flash = s.pkg.flash ∧
          (s.pkg.mbstate = .safe → t.pkg.mbstate = .safe) ∧
          (s.pkg.mbstate = .running → t.pkg.mbstate = .suspended ∧ t.mem = [] ∧ ∀ c i, t.team c i = none))))

/-- R27, R29, R299, R305: a FAULTRES write of result 0 ends its record and lets the lanes parked on it run again; one of another
result delivers them with its code, those at the lowest address first. GSTOP asks a group to stop, and lets a stopped one go on.
The model's choices that it rests on: log entries 41, 83. -/
def Obligations.StopResult : Prop :=
  ∀ (s : State) (c gid : Fin 128) (g : Group), s.group c gid = some g →
    (∀ (value : DWord) (r : FaultRec) (m : Lanes), (s.core c).recs.find? (fun e => e.seq == field value.toNat 0 32) = some r →
      r.waiters = [(g.uid, m)] → s.findGroup c g.uid = some gid → (∀ e ∈ (s.core c).replay, e.recId ≠ r.id) →
      (∀ e ∈ s.reqs, e.core = c → e.phase ≠ .faulted r.id) →
      let result := field value.toNat 32 8
      (result = 0 → ∃ t h, exec (.faultres c value) s = .next t ∧ t.group c gid = some h ∧
        (t.core c).recs = (s.core c).recs.filter (fun e => e.id != r.id) ∧ t.mem = s.mem ∧
        (∀ p, h.lst.get p = if m.has p && g.lst.get p == .parked then .running else g.lst.get p) ∧
        h.lpc = g.lpc ∧ h.v = g.v ∧ h.s = g.s) ∧
      (result ≠ 0 → r.code ≠ 0 → g.hmode = false → g.halted = false → g.dels = [] → m ≠ 0 → m &&& g.inState .parked = m →
        (s.core c).trapvec.getLsbD 0 = true → (∃ b, s.handler c gid g = some b ∧ s.handlerEntry c ≠ b.hlen) →
        (s.core c).banks.get g.part = none → s.olderPending c gid g = false →
        ∀ a, g.minLpc m = some a →
        let first := Lanes.ofFn fun p => m.has p && g.lpc.get p == a
        ∃ t h, exec (.faultres c value) s = .next t ∧ t.group c gid = some h ∧
          h.hlanes = first ∧ (∀ p, first.has p = true → h.lpc.get p = s.handlerEntry c) ∧
          (h.s.get 112).toNat % 256 = (if 0x12 ≤ result then r.code.toNat else result) ∧ (h.s.get 113).toNat = a.toNat)) ∧
    (g.stop = .none → exec (.gstopStop c gid) s = .next (s.setGroup c gid (some { g with stop := .requested true }))) ∧
    (∀ b, g.stop = .stopped true b → g.dels = [] → (s.team c g.team).bind Team.stop = none →
      exec (.gstopRun c gid) s = .next (s.setGroup c gid (some { g with stop := .none, polled := false })))

/-- R5, R296, R314, R316, R326, R341, R353, R361, R364, R371, R372, R374, R385, R389, R398: what a write of each register that
acts does: SPRETIRE starts a space's retirement, a doorbell moves a queue's tail, a suspend asks every team to stop, and the
others set the fields that they name. A register that does not act takes its value.
The model's choices that it rests on: log entries 53, 54, 81. -/
def Obligations.RegisterWriteResult : Prop :=
  ∀ (s : State) (d : Fin 4) (c : Fin 128),
    let x := s.die d
    (∀ n, s.isRetiring x.part n = false → ∃ t, exec (.spretire d n) s = .next t ∧ t.retiring = s.retiring ++ [⟨n, x.part, [d]⟩] ∧
      (∀ e, (s.die e).part = x.part → t.spaceRoot e n = none) ∧
      ∀ q ∈ t.quotes, q.space = n → (s.die q.die).part = x.part → q.state ≠ .quoted) ∧
    (∀ n, exec (.fpwinWrite c n) s = .next (s.setCore c { s.core c with fpwin := n, idleCount := min (s.core c).idleCount 0 })) ∧
    exec (.krlock d) s = .next (s.setDie d { x with krlock := true }) ∧
    (∀ r, exec (.clkratReq d r) s = .next (s.setDie d { x with req := r })) ∧
    (∀ n, exec (.scrubn d n) s = .next (s.setDie d { x with scrubs := x.scrubs ++ [⟨x.scruba.toNat, n.toNat, x.scrubc.toNat, 0, 0⟩] })) ∧
    (s.pkg.mbstate = .running → s.pkg.suspPhase = 0 → ∃ t, exec .suspctlGo s = .next t ∧ t.pkg.suspPhase = 1 ∧ t.mem = s.mem ∧
      (∀ q ∈ t.quotes, q.state ≠ .quoted ∧ (q.state = .running → q.paused = true)) ∧
      ∀ k i m, s.team k i = some m → m.stop = none →
        t.team k i = some { m with stop := some ⟨!((s.grid m.grid).elim false Grid.imm), 0, none, true⟩ }) ∧
    ((s.core c).power = .active → ∃ t, exec (.notifyApertureWrite c) s = .next t ∧ t.mem = s.mem ∧
      ∀ i g, s.group c i = some g → t.group c i = some (if g.idle then { g with woken := true } else g)) ∧
    ((s.core c).power ≠ .active → (s.die (dieOf c)).chive.length < 64 → ∃ t, exec (.notifyApertureWrite c) s = .next t ∧
      (c, .notify) ∈ (t.die (dieOf c)).chive ∧ t.cores = s.cores) ∧
    (s.powered = true →
      (∀ v, exec (.hbeat d v) s = .next (s.setDie d { x with hbSeen := true, orphan := false })) ∧
      (∀ own, exec (.ownerWrite d own) s = .next (s.setDie d { x with owner := own })) ∧
      (∀ v : DWord,
        let q := field v.toNat 0 16
        let w := s.mem.num (s.queueEntry d q + 0x10) 8
        let e : Fin 4 := Fin.ofNat 4 (field w 38 2)
        q < field x.lqtab.toNat 0 8 → field w 37 1 = 1 → (s.die e).part = x.part → (∀ y ∈ x.doors, y.line ≠ 1) →
        s.diesHeld d e = false → ∃ t, exec (.lqdoor d v) s = .next t ∧ t.mem = s.mem ∧
          (t.die e).tails.find? (fun y => y.1 == q) = some (q, BitVec.ofNat 32 (field v.toNat 16 32))) ∧
      (∀ v : DWord,
        let n := field v.toNat 0 16
        (∃ y ∈ x.doors, y.line = 0) ∨ s.workOpen d n = false →
          exec (.wqdoor d v) s = .next (s.setDie d { x with doors := x.doors ++ [.work v] })) ∧
      (∀ v : DWord,
        let n := field v.toNat 0 16
        let tail := field v.toNat 16 32
        let e := s.workEntry d n
        let w := s.mem.num (e + 0x10) 8
        (∀ y ∈ x.doors, y.line ≠ 0) → s.workOpen d n = true → n < field x.wqtab.toNat 0 16 → field w 34 1 = 1 →
        (field w 32 2 = 1 → (tail + 2 ^ 32 - s.workHead e) % 2 ^ 32 ≤ s.workSize e →
          ∃ t, exec (.wqdoor d v) s = .next t ∧ t.mem = storedField s (e + 12) 4 tail) ∧
        (field w 32 2 ≠ 1 ∨ s.workSize e < (tail + 2 ^ 32 - s.workHead e) % 2 ^ 32 →
          ∃ t, exec (.wqdoor d v) s = .next t ∧ t.mem = storedField s (e + 0x14) 1 ((s.mem.get (e + 0x14)).toNat ||| 8))) ∧
      (∀ (sel : BitVec 10) (v : DWord),
        (sel.toNat ≤ 0x0D → exec (.registerWrite (.core c sel) v) s = .next (s.writeReg c sel.toNat v)) ∧
        (0x0D < sel.toNat → ∃ k, dieOf k = d ∧ exec (.registerWrite (.die d sel) v) s = .next (s.writeReg k sel.toNat v))) ∧
      ∀ (v : DWord) (e : Fin 4), (s.die e).part = x.part →
        ∃ t, exec (.registerWrite (.frontEnd d 0) v) s = .next t ∧ (t.die e).lqtab = v &&& 0x0000FFFFFFFFFFFF) ∧
    (∀ v, exec (.registerWrite (.mailbox 0x08) v) s = .next { s with pkg := { s.pkg with mbarg := v } }) ∧
    ∀ v, s.pkg.cmd = none → exec (.registerWrite (.mailbox 0x10) v) s = .next { s with pkg := { s.pkg with cmd := some v } }

end
end

