-- ==== Sys2Proof/Laws/Exec.lean ====
section
/-! SUPPORT. Each constructor of `Instr` runs its own meaning. -/
namespace Sys2Proof.Machine

@[simp] theorem exec_sadd d a b st (s : State) : exec (.sadd d a b st) s = execSadd d a b st s := rfl
@[simp] theorem exec_ssub d a b st (s : State) : exec (.ssub d a b st) s = execSsub d a b st s := rfl
@[simp] theorem exec_smul d a b st (s : State) : exec (.smul d a b st) s = execSmul d a b st s := rfl
@[simp] theorem exec_smulh d a b st (s : State) : exec (.smulh d a b st) s = execSmulh d a b st s := rfl
@[simp] theorem exec_sand d a b st (s : State) : exec (.sand d a b st) s = execSand d a b st s := rfl
@[simp] theorem exec_sor d a b st (s : State) : exec (.sor d a b st) s = execSor d a b st s := rfl
@[simp] theorem exec_sxor d a b st (s : State) : exec (.sxor d a b st) s = execSxor d a b st s := rfl
@[simp] theorem exec_sshl d a b st (s : State) : exec (.sshl d a b st) s = execSshl d a b st s := rfl
@[simp] theorem exec_sshr d a b st (s : State) : exec (.sshr d a b st) s = execSshr d a b st s := rfl
@[simp] theorem exec_ssra d a b st (s : State) : exec (.ssra d a b st) s = execSsra d a b st s := rfl
@[simp] theorem exec_sminI64 d a b st (s : State) : exec (.sminI64 d a b st) s = execSminI64 d a b st s := rfl
@[simp] theorem exec_smaxI64 d a b st (s : State) : exec (.smaxI64 d a b st) s = execSmaxI64 d a b st s := rfl
@[simp] theorem exec_scmp d a b st (s : State) : exec (.scmp d a b st) s = execScmp d a b st s := rfl
@[simp] theorem exec_ssel d a b st (s : State) : exec (.ssel d a b st) s = execSsel d a b st s := rfl
@[simp] theorem exec_sminN64 d a b st (s : State) : exec (.sminN64 d a b st) s = execSminN64 d a b st s := rfl
@[simp] theorem exec_smaxN64 d a b st (s : State) : exec (.smaxN64 d a b st) s = execSmaxN64 d a b st s := rfl
@[simp] theorem exec_srdl d a b st (s : State) : exec (.srdl d a b st) s = execSrdl d a b st s := rfl
@[simp] theorem exec_smov d a st (s : State) : exec (.smov d a st) s = execSmov d a st s := rfl
@[simp] theorem exec_spopc d a st (s : State) : exec (.spopc d a st) s = execSpopc d a st s := rfl
@[simp] theorem exec_sclz d a st (s : State) : exec (.sclz d a st) s = execSclz d a st s := rfl
@[simp] theorem exec_setwReg d a st (s : State) : exec (.setwReg d a st) s = execSetwReg d a st s := rfl
@[simp] theorem exec_setwImm d imm st (s : State) : exec (.setwImm d imm st) s = execSetwImm d imm st s := rfl
@[simp] theorem exec_getw d st (s : State) : exec (.getw d st) s = execGetw d st s := rfl
@[simp] theorem exec_tid d st (s : State) : exec (.tid d st) s = execTid d st s := rfl
@[simp] theorem exec_hlane d st (s : State) : exec (.hlane d st) s = execHlane d st s := rfl
@[simp] theorem exec_rank d st (s : State) : exec (.rank d st) s = execRank d st s := rfl
@[simp] theorem exec_team d axis st (s : State) : exec (.team d axis st) s = execTeam d axis st s := rfl
@[simp] theorem exec_grid d axis st (s : State) : exec (.grid d axis st) s = execGrid d axis st s := rfl
@[simp] theorem exec_gid d st (s : State) : exec (.gid d st) s = execGid d st s := rfl
@[simp] theorem exec_core d st (s : State) : exec (.core d st) s = execCore d st s := rfl
@[simp] theorem exec_die d st (s : State) : exec (.die d st) s = execDie d st s := rfl
@[simp] theorem exec_cyc d st (s : State) : exec (.cyc d st) s = execCyc d st s := rfl
@[simp] theorem exec_reft d st (s : State) : exec (.reft d st) s = execReft d st s := rfl
@[simp] theorem exec_xfrd d st (s : State) : exec (.xfrd d st) s = execXfrd d st s := rfl
@[simp] theorem exec_xfclr mask st (s : State) : exec (.xfclr mask st) s = execXfclr mask st s := rfl
@[simp] theorem exec_sli d imm st (s : State) : exec (.sli d imm st) s = execSli d imm st s := rfl
@[simp] theorem exec_slih d imm st (s : State) : exec (.slih d imm st) s = execSlih d imm st s := rfl
@[simp] theorem exec_sld d a imm st (s : State) : exec (.sld d a imm st) s = execSld d a imm st s := rfl
@[simp] theorem exec_sst d a imm st (s : State) : exec (.sst d a imm st) s = execSst d a imm st s := rfl
@[simp] theorem exec_crr r sel st (s : State) : exec (.crr r sel st) s = execCrr r sel st s := rfl
@[simp] theorem exec_crw r sel st (s : State) : exec (.crw r sel st) s = execCrw r sel st s := rfl
@[simp] theorem exec_xlinv r st (s : State) : exec (.xlinv r st) s = execXlinv r st s := rfl
@[simp] theorem exec_ctxsv r st (s : State) : exec (.ctxsv r st) s = execCtxsv r st s := rfl
@[simp] theorem exec_ctxld r st (s : State) : exec (.ctxld r st) s = execCtxld r st s := rfl
@[simp] theorem exec_eret st (s : State) : exec (.eret st) s = execEret st s := rfl
@[simp] theorem exec_idle st (s : State) : exec (.idle st) s = execIdle st s := rfl
@[simp] theorem exec_brc off k neg st (s : State) : exec (.brc off k neg st) s = execBrc off k neg st s := rfl
@[simp] theorem exec_bru off r neg st (s : State) : exec (.bru off r neg st) s = execBru off r neg st s := rfl
@[simp] theorem exec_brm off k neg st (s : State) : exec (.brm off k neg st) s = execBrm off k neg st s := rfl
@[simp] theorem exec_brb off k lid st (s : State) : exec (.brb off k lid st) s = execBrb off k lid st s := rfl
@[simp] theorem exec_lenter lid st (s : State) : exec (.lenter lid st) s = execLenter lid st s := rfl
@[simp] theorem exec_call off st (s : State) : exec (.call off st) s = execCall off st s := rfl
@[simp] theorem exec_calli a la st (s : State) : exec (.calli a la st) s = execCalli a la st s := rfl
@[simp] theorem exec_nop st (s : State) : exec (.nop st) s = execNop st s := rfl
@[simp] theorem exec_rcv st (s : State) : exec (.rcv st) s = execRcv st s := rfl
@[simp] theorem exec_exit st (s : State) : exec (.exit st) s = execExit st s := rfl
@[simp] theorem exec_ret st (s : State) : exec (.ret st) s = execRet st s := rfl
@[simp] theorem exec_trap code st (s : State) : exec (.trap code st) s = execTrap code st s := rfl
@[simp] theorem exec_brk st (s : State) : exec (.brk st) s = execBrk st s := rfl
@[simp] theorem exec_yield st (s : State) : exec (.yield st) s = execYield st s := rfl
@[simp] theorem exec_iadd d a b la lb st (s : State) : exec (.iadd d a b la lb st) s = execIadd d a b la lb st s := rfl
@[simp] theorem exec_isub d a b la lb st (s : State) : exec (.isub d a b la lb st) s = execIsub d a b la lb st s := rfl
@[simp] theorem exec_imul d a b la lb st (s : State) : exec (.imul d a b la lb st) s = execImul d a b la lb st s := rfl
@[simp] theorem exec_imulhI32 d a b la lb st (s : State) : exec (.imulhI32 d a b la lb st) s = execImulhI32 d a b la lb st s := rfl
@[simp] theorem exec_imulhN32 d a b la lb st (s : State) : exec (.imulhN32 d a b la lb st) s = execImulhN32 d a b la lb st s := rfl
@[simp] theorem exec_imad d a b la lb st (s : State) : exec (.imad d a b la lb st) s = execImad d a b la lb st s := rfl
@[simp] theorem exec_iadd64 d a b la lb st (s : State) : exec (.iadd64 d a b la lb st) s = execIadd64 d a b la lb st s := rfl
@[simp] theorem exec_lea d a b la lb st (s : State) : exec (.lea d a b la lb st) s = execLea d a b la lb st s := rfl
@[simp] theorem exec_iminI32 d a b la lb st (s : State) : exec (.iminI32 d a b la lb st) s = execIminI32 d a b la lb st s := rfl
@[simp] theorem exec_iminN32 d a b la lb st (s : State) : exec (.iminN32 d a b la lb st) s = execIminN32 d a b la lb st s := rfl
@[simp] theorem exec_imaxI32 d a b la lb st (s : State) : exec (.imaxI32 d a b la lb st) s = execImaxI32 d a b la lb st s := rfl
@[simp] theorem exec_imaxN32 d a b la lb st (s : State) : exec (.imaxN32 d a b la lb st) s = execImaxN32 d a b la lb st s := rfl
@[simp] theorem exec_and d a b la lb st (s : State) : exec (.and d a b la lb st) s = execAnd d a b la lb st s := rfl
@[simp] theorem exec_or d a b la lb st (s : State) : exec (.or d a b la lb st) s = execOr d a b la lb st s := rfl
@[simp] theorem exec_xor d a b la lb st (s : State) : exec (.xor d a b la lb st) s = execXor d a b la lb st s := rfl
@[simp] theorem exec_mov d b lb st (s : State) : exec (.mov d b lb st) s = execMov d b lb st s := rfl
@[simp] theorem exec_shl d a b la lb st (s : State) : exec (.shl d a b la lb st) s = execShl d a b la lb st s := rfl
@[simp] theorem exec_shr d a b la lb st (s : State) : exec (.shr d a b la lb st) s = execShr d a b la lb st s := rfl
@[simp] theorem exec_sra d a b la lb st (s : State) : exec (.sra d a b la lb st) s = execSra d a b la lb st s := rfl
@[simp] theorem exec_rot d a b la lb st (s : State) : exec (.rot d a b la lb st) s = execRot d a b la lb st s := rfl
@[simp] theorem exec_bfeI32 d a b la lb st (s : State) : exec (.bfeI32 d a b la lb st) s = execBfeI32 d a b la lb st s := rfl
@[simp] theorem exec_bfeN32 d a b la lb st (s : State) : exec (.bfeN32 d a b la lb st) s = execBfeN32 d a b la lb st s := rfl
@[simp] theorem exec_bfi d a b la lb st (s : State) : exec (.bfi d a b la lb st) s = execBfi d a b la lb st s := rfl
@[simp] theorem exec_iabs d a la st (s : State) : exec (.iabs d a la st) s = execIabs d a la st s := rfl
@[simp] theorem exec_ineg d a la st (s : State) : exec (.ineg d a la st) s = execIneg d a la st s := rfl
@[simp] theorem exec_not d a la st (s : State) : exec (.not d a la st) s = execNot d a la st s := rfl
@[simp] theorem exec_popc d a la st (s : State) : exec (.popc d a la st) s = execPopc d a la st s := rfl
@[simp] theorem exec_clz d a la st (s : State) : exec (.clz d a la st) s = execClz d a la st s := rfl
@[simp] theorem exec_brev d a la st (s : State) : exec (.brev d a la st) s = execBrev d a la st s := rfl
@[simp] theorem exec_fabs d a la st (s : State) : exec (.fabs d a la st) s = execFabs d a la st s := rfl
@[simp] theorem exec_fneg d a la st (s : State) : exec (.fneg d a la st) s = execFneg d a la st s := rfl
@[simp] theorem exec_fclass d a la st (s : State) : exec (.fclass d a la st) s = execFclass d a la st s := rfl
@[simp] theorem exec_frndRn d a la st (s : State) : exec (.frndRn d a la st) s = execFrndRn d a la st s := rfl
@[simp] theorem exec_frndRz d a la st (s : State) : exec (.frndRz d a la st) s = execFrndRz d a la st s := rfl
@[simp] theorem exec_frndRp d a la st (s : State) : exec (.frndRp d a la st) s = execFrndRp d a la st s := rfl
@[simp] theorem exec_frndRm d a la st (s : State) : exec (.frndRm d a la st) s = execFrndRm d a la st s := rfl
@[simp] theorem exec_frcp d a la st (s : State) : exec (.frcp d a la st) s = execFrcp d a la st s := rfl
@[simp] theorem exec_frsq d a la st (s : State) : exec (.frsq d a la st) s = execFrsq d a la st s := rfl
@[simp] theorem exec_fsqrt d a la st (s : State) : exec (.fsqrt d a la st) s = execFsqrt d a la st s := rfl
@[simp] theorem exec_fexp2 d a la st (s : State) : exec (.fexp2 d a la st) s = execFexp2 d a la st s := rfl
@[simp] theorem exec_flog2 d a la st (s : State) : exec (.flog2 d a la st) s = execFlog2 d a la st s := rfl
@[simp] theorem exec_fsin d a la st (s : State) : exec (.fsin d a la st) s = execFsin d a la st s := rfl
@[simp] theorem exec_fcos d a la st (s : State) : exec (.fcos d a la st) s = execFcos d a la st s := rfl
@[simp] theorem exec_isel d k b lb st (s : State) : exec (.isel d k b lb st) s = execIsel d k b lb st s := rfl
@[simp] theorem exec_fsel d k b lb st (s : State) : exec (.fsel d k b lb st) s = execFsel d k b lb st s := rfl
@[simp] theorem exec_icmpI32 kd cnd a b la lb st (s : State) : exec (.icmpI32 kd cnd a b la lb st) s = execIcmpI32 kd cnd a b la lb st s := rfl
@[simp] theorem exec_icmpN32 kd cnd a b la lb st (s : State) : exec (.icmpN32 kd cnd a b la lb st) s = execIcmpN32 kd cnd a b la lb st s := rfl
@[simp] theorem exec_fcmp kd cnd a b la lb st (s : State) : exec (.fcmp kd cnd a b la lb st) s = execFcmp kd cnd a b la lb st s := rfl
@[simp] theorem exec_vote kd a la st (s : State) : exec (.vote kd a la st) s = execVote kd a la st s := rfl
@[simp] theorem exec_kand kd ka kb st (s : State) : exec (.kand kd ka kb st) s = execKand kd ka kb st s := rfl
@[simp] theorem exec_kor kd ka kb st (s : State) : exec (.kor kd ka kb st) s = execKor kd ka kb st s := rfl
@[simp] theorem exec_kxor kd ka kb st (s : State) : exec (.kxor kd ka kb st) s = execKxor kd ka kb st s := rfl
@[simp] theorem exec_knot kd ka st (s : State) : exec (.knot kd ka st) s = execKnot kd ka st s := rfl
@[simp] theorem exec_kmov kd ka st (s : State) : exec (.kmov kd ka st) s = execKmov kd ka st s := rfl
@[simp] theorem exec_kpopc sd ka st (s : State) : exec (.kpopc sd ka st) s = execKpopc sd ka st s := rfl
@[simp] theorem exec_fadd d a b la lb st (s : State) : exec (.fadd d a b la lb st) s = execFadd d a b la lb st s := rfl
@[simp] theorem exec_fsub d a b la lb st (s : State) : exec (.fsub d a b la lb st) s = execFsub d a b la lb st s := rfl
@[simp] theorem exec_fmul d a b la lb st (s : State) : exec (.fmul d a b la lb st) s = execFmul d a b la lb st s := rfl
@[simp] theorem exec_ffma d a b la lb st (s : State) : exec (.ffma d a b la lb st) s = execFfma d a b la lb st s := rfl
@[simp] theorem exec_fmin d a b la lb st (s : State) : exec (.fmin d a b la lb st) s = execFmin d a b la lb st s := rfl
@[simp] theorem exec_fmax d a b la lb st (s : State) : exec (.fmax d a b la lb st) s = execFmax d a b la lb st s := rfl
@[simp] theorem exec_fdiv d a b la lb st (s : State) : exec (.fdiv d a b la lb st) s = execFdiv d a b la lb st s := rfl
@[simp] theorem exec_hadd2 d a b la lb st (s : State) : exec (.hadd2 d a b la lb st) s = execHadd2 d a b la lb st s := rfl
@[simp] theorem exec_hmul2 d a b la lb st (s : State) : exec (.hmul2 d a b la lb st) s = execHmul2 d a b la lb st s := rfl
@[simp] theorem exec_hfma2 d a b la lb st (s : State) : exec (.hfma2 d a b la lb st) s = execHfma2 d a b la lb st s := rfl
@[simp] theorem exec_cvtNarrow fs d a la st (s : State) : exec (.cvtNarrow fs d a la st) s = execCvtNarrow fs d a la st s := rfl
@[simp] theorem exec_cvtWiden fs d a la st (s : State) : exec (.cvtWiden fs d a la st) s = execCvtWiden fs d a la st s := rfl
@[simp] theorem exec_cvti mode signed d a la st (s : State) : exec (.cvti mode signed d a la st) s = execCvti mode signed d a la st s := rfl
@[simp] theorem exec_cvtf mode signed d a la st (s : State) : exec (.cvtf mode signed d a la st) s = execCvtf mode signed d a la st s := rfl
@[simp] theorem exec_pk8 fs e d a la st (s : State) : exec (.pk8 fs e d a la st) s = execPk8 fs e d a la st s := rfl
@[simp] theorem exec_upk8 fs e d a la st (s : State) : exec (.upk8 fs e d a la st) s = execUpk8 fs e d a la st s := rfl
@[simp] theorem exec_pk4 fs e d a la st (s : State) : exec (.pk4 fs e d a la st) s = execPk4 fs e d a la st s := rfl
@[simp] theorem exec_upk4 fs e d a la st (s : State) : exec (.upk4 fs e d a la st) s = execUpk4 fs e d a la st s := rfl
@[simp] theorem exec_shfl d a b la lb st (s : State) : exec (.shfl d a b la lb st) s = execShfl d a b la lb st s := rfl
@[simp] theorem exec_shflup d a b la lb st (s : State) : exec (.shflup d a b la lb st) s = execShflup d a b la lb st s := rfl
@[simp] theorem exec_shfldn d a b la lb st (s : State) : exec (.shfldn d a b la lb st) s = execShfldn d a b la lb st s := rfl
@[simp] theorem exec_shflx d a b la lb st (s : State) : exec (.shflx d a b la lb st) s = execShflx d a b la lb st s := rfl
@[simp] theorem exec_bcast d a b la lb st (s : State) : exec (.bcast d a b la lb st) s = execBcast d a b la lb st s := rfl
@[simp] theorem exec_redaddN32 d a la st (s : State) : exec (.redaddN32 d a la st) s = execRedaddN32 d a la st s := rfl
@[simp] theorem exec_redaddF32 d a la st (s : State) : exec (.redaddF32 d a la st) s = execRedaddF32 d a la st s := rfl
@[simp] theorem exec_redminI32 d a la st (s : State) : exec (.redminI32 d a la st) s = execRedminI32 d a la st s := rfl
@[simp] theorem exec_redminN32 d a la st (s : State) : exec (.redminN32 d a la st) s = execRedminN32 d a la st s := rfl
@[simp] theorem exec_redminF32 d a la st (s : State) : exec (.redminF32 d a la st) s = execRedminF32 d a la st s := rfl
@[simp] theorem exec_redmaxI32 d a la st (s : State) : exec (.redmaxI32 d a la st) s = execRedmaxI32 d a la st s := rfl
@[simp] theorem exec_redmaxN32 d a la st (s : State) : exec (.redmaxN32 d a la st) s = execRedmaxN32 d a la st s := rfl
@[simp] theorem exec_redmaxF32 d a la st (s : State) : exec (.redmaxF32 d a la st) s = execRedmaxF32 d a la st s := rfl
@[simp] theorem exec_scanaddN32 d a la st (s : State) : exec (.scanaddN32 d a la st) s = execScanaddN32 d a la st s := rfl
@[simp] theorem exec_scanaddF32 d a la st (s : State) : exec (.scanaddF32 d a la st) s = execScanaddF32 d a la st s := rfl
@[simp] theorem exec_scanaddN32Exc d a la st (s : State) : exec (.scanaddN32Exc d a la st) s = execScanaddN32Exc d a la st s := rfl
@[simp] theorem exec_scanaddF32Exc d a la st (s : State) : exec (.scanaddF32Exc d a la st) s = execScanaddF32Exc d a la st s := rfl
@[simp] theorem exec_matchV d a la st (s : State) : exec (.matchV d a la st) s = execMatchV d a la st s := rfl
@[simp] theorem exec_pld d a imm la st (s : State) : exec (.pld d a imm la st) s = execPld d a imm la st s := rfl
@[simp] theorem exec_pst d a imm la ld st (s : State) : exec (.pst d a imm la ld st) s = execPst d a imm la ld st s := rfl
@[simp] theorem exec_pldw x4 d a imm la st (s : State) : exec (.pldw x4 d a imm la st) s = execPldw x4 d a imm la st s := rfl
@[simp] theorem exec_pstw x4 d a imm la ld st (s : State) : exec (.pstw x4 d a imm la ld st) s = execPstw x4 d a imm la ld st s := rfl
@[simp] theorem exec_patom aop ord d a la st (s : State) : exec (.patom aop ord d a la st) s = execPatom aop ord d a la st s := rfl
@[simp] theorem exec_bar bar st (s : State) : exec (.bar bar st) s = execBar bar st s := rfl
@[simp] theorem exec_bara bar st (s : State) : exec (.bara bar st) s = execBara bar st s := rfl
@[simp] theorem exec_bard bar st (s : State) : exec (.bard bar st) s = execBard bar st s := rfl
@[simp] theorem exec_barw bar r st (s : State) : exec (.barw bar r st) s = execBarw bar r st s := rfl
@[simp] theorem exec_barx bar r st (s : State) : exec (.barx bar r st) s = execBarx bar r st s := rfl
@[simp] theorem exec_fset flag st (s : State) : exec (.fset flag st) s = execFset flag st s := rfl
@[simp] theorem exec_fclr flag st (s : State) : exec (.fclr flag st) s = execFclr flag st s := rfl
@[simp] theorem exec_fwait flag st (s : State) : exec (.fwait flag st) s = execFwait flag st s := rfl
@[simp] theorem exec_fence ord sc st (s : State) : exec (.fence ord sc st) s = execFence ord sc st s := rfl
@[simp] theorem exec_xfence st (s : State) : exec (.xfence st) s = execXfence st s := rfl
@[simp] theorem exec_qld q acq sc a la st (s : State) : exec (.qld q acq sc a la st) s = execQld q acq sc a la st s := rfl
@[simp] theorem exec_qst q rel sc a d la ld st (s : State) : exec (.qst q rel sc a d la ld st) s = execQst q rel sc a d la ld st s := rfl
@[simp] theorem exec_qpf q a la st (s : State) : exec (.qpf q a la st) s = execQpf q a la st s := rfl
@[simp] theorem exec_qpop d q st (s : State) : exec (.qpop d q st) s = execQpop d q st s := rfl
@[simp] theorem exec_qwait q cnt st (s : State) : exec (.qwait q cnt st) s = execQwait q cnt st s := rfl
@[simp] theorem exec_qatom aop ord sc q a d st (s : State) : exec (.qatom aop ord sc q a d st) s = execQatom aop ord sc q a d st s := rfl
@[simp] theorem exec_cpy ds a sb la st (s : State) : exec (.cpy ds a sb la st) s = execCpy ds a sb la st s := rfl
@[simp] theorem exec_cpyg ds a sb la st (s : State) : exec (.cpyg ds a sb la st) s = execCpyg ds a sb la st s := rfl
@[simp] theorem exec_cpys ds a sb la st (s : State) : exec (.cpys ds a sb la st) s = execCpys ds a sb la st s := rfl
@[simp] theorem exec_cseal b st (s : State) : exec (.cseal b st) s = execCseal b st s := rfl
@[simp] theorem exec_cbulk sc a b st (s : State) : exec (.cbulk sc a b st) s = execCbulk sc a b st s := rfl
@[simp] theorem exec_cntadd sc a b st (s : State) : exec (.cntadd sc a b st) s = execCntadd sc a b st s := rfl
@[simp] theorem exec_cntwait sc a b st (s : State) : exec (.cntwait sc a b st) s = execCntwait sc a b st s := rfl
@[simp] theorem exec_rput sc a b st (s : State) : exec (.rput sc a b st) s = execRput sc a b st s := rfl
@[simp] theorem exec_rget a b st (s : State) : exec (.rget a b st) s = execRget a b st s := rfl
@[simp] theorem exec_wqpop d a st (s : State) : exec (.wqpop d a st) s = execWqpop d a st s := rfl
@[simp] theorem exec_wqpush d a st (s : State) : exec (.wqpush d a st) s = execWqpush d a st s := rfl
@[simp] theorem exec_grec d a st (s : State) : exec (.grec d a st) s = execGrec d a st s := rfl
@[simp] theorem exec_gemit d a st (s : State) : exec (.gemit d a st) s = execGemit d a st s := rfl
@[simp] theorem exec_tcfg t a st (s : State) : exec (.tcfg t a st) s = execTcfg t a st s := rfl
@[simp] theorem exec_tld t a st (s : State) : exec (.tld t a st) s = execTld t a st s := rfl
@[simp] theorem exec_tst t a st (s : State) : exec (.tst t a st) s = execTst t a st s := rfl
@[simp] theorem exec_tzero t st (s : State) : exec (.tzero t st) s = execTzero t st s := rfl
@[simp] theorem exec_ttrn tx ty st (s : State) : exec (.ttrn tx ty st) s = execTtrn tx ty st s := rfl
@[simp] theorem exec_scld a st (s : State) : exec (.scld a st) s = execScld a st s := rfl
@[simp] theorem exec_mma tx ty a st (s : State) : exec (.mma tx ty a st) s = execMma tx ty a st s := rfl
@[simp] theorem exec_mmas tx ty a st (s : State) : exec (.mmas tx ty a st) s = execMmas tx ty a st s := rfl
@[simp] theorem exec_accz a st (s : State) : exec (.accz a st) s = execAccz a st s := rfl
@[simp] theorem exec_accld a st (s : State) : exec (.accld a st) s = execAccld a st s := rfl
@[simp] theorem exec_accst fs a st (s : State) : exec (.accst fs a st) s = execAccst fs a st s := rfl
@[simp] theorem exec_mfrd d clr st (s : State) : exec (.mfrd d clr st) s = execMfrd d clr st s := rfl
@[simp] theorem exec_fork a odd st (s : State) : exec (.fork a odd st) s = execFork a odd st s := rfl
@[simp] theorem exec_rdv st (s : State) : exec (.rdv st) s = execRdv st s := rfl
@[simp] theorem exec_mend st (s : State) : exec (.mend st) s = execMend st s := rfl
@[simp] theorem exec_movCompact d a last (s : State) : exec (.movCompact d a last) s = execMovCompact d a last s := rfl
@[simp] theorem exec_iaddCompact d a last (s : State) : exec (.iaddCompact d a last) s = execIaddCompact d a last s := rfl
@[simp] theorem exec_isubCompact d a last (s : State) : exec (.isubCompact d a last) s = execIsubCompact d a last s := rfl
@[simp] theorem exec_imulCompact d a last (s : State) : exec (.imulCompact d a last) s = execImulCompact d a last s := rfl
@[simp] theorem exec_andCompact d a last (s : State) : exec (.andCompact d a last) s = execAndCompact d a last s := rfl
@[simp] theorem exec_orCompact d a last (s : State) : exec (.orCompact d a last) s = execOrCompact d a last s := rfl
@[simp] theorem exec_xorCompact d a last (s : State) : exec (.xorCompact d a last) s = execXorCompact d a last s := rfl
@[simp] theorem exec_shlCompact d a last (s : State) : exec (.shlCompact d a last) s = execShlCompact d a last s := rfl
@[simp] theorem exec_shrCompact d a last (s : State) : exec (.shrCompact d a last) s = execShrCompact d a last s := rfl
@[simp] theorem exec_sraCompact d a last (s : State) : exec (.sraCompact d a last) s = execSraCompact d a last s := rfl
@[simp] theorem exec_faddCompact d a last (s : State) : exec (.faddCompact d a last) s = execFaddCompact d a last s := rfl
@[simp] theorem exec_fsubCompact d a last (s : State) : exec (.fsubCompact d a last) s = execFsubCompact d a last s := rfl
@[simp] theorem exec_fmulCompact d a last (s : State) : exec (.fmulCompact d a last) s = execFmulCompact d a last s := rfl
@[simp] theorem exec_fminCompact d a last (s : State) : exec (.fminCompact d a last) s = execFminCompact d a last s := rfl
@[simp] theorem exec_fmaxCompact d a last (s : State) : exec (.fmaxCompact d a last) s = execFmaxCompact d a last s := rfl
@[simp] theorem exec_leaCompact d a last (s : State) : exec (.leaCompact d a last) s = execLeaCompact d a last s := rfl
@[simp] theorem exec_brmWindowExpiry core slot (s : State) : exec (.brmWindowExpiry core slot) s = execBrmWindowExpiry core slot s := rfl
@[simp] theorem exec_waitTimeout who (s : State) : exec (.waitTimeout who) s = execWaitTimeout who s := rfl
@[simp] theorem exec_coreReserveLoan core (s : State) : exec (.coreReserveLoan core) s = execCoreReserveLoan core s := rfl
@[simp] theorem exec_tlbTranslate id (s : State) : exec (.tlbTranslate id) s = execTlbTranslate id s := rfl
@[simp] theorem exec_accessPerform id (s : State) : exec (.accessPerform id) s = execAccessPerform id s := rfl
@[simp] theorem exec_responseArrival id (s : State) : exec (.responseArrival id) s = execResponseArrival id s := rfl
@[simp] theorem exec_remoteScopePromotion id (s : State) : exec (.remoteScopePromotion id) s = execRemoteScopePromotion id s := rfl
@[simp] theorem exec_tokenWrite id (s : State) : exec (.tokenWrite id) s = execTokenWrite id s := rfl
@[simp] theorem exec_xlinvCompletion id (s : State) : exec (.xlinvCompletion id) s = execXlinvCompletion id s := rfl
@[simp] theorem exec_thawRetranslate id (s : State) : exec (.thawRetranslate id) s = execThawRetranslate id s := rfl
@[simp] theorem exec_copyTransferPage id (s : State) : exec (.copyTransferPage id) s = execCopyTransferPage id s := rfl
@[simp] theorem exec_copyCompletion id (s : State) : exec (.copyCompletion id) s = execCopyCompletion id s := rfl
@[simp] theorem exec_cxlCompletion id status data (s : State) : exec (.cxlCompletion id status data) s = execCxlCompletion id status data s := rfl
@[simp] theorem exec_idleWake core gid (s : State) : exec (.idleWake core gid) s = execIdleWake core gid s := rfl
@[simp] theorem exec_matrixInstructionComplete core (s : State) : exec (.matrixInstructionComplete core) s = execMatrixInstructionComplete core s := rfl
@[simp] theorem exec_firingDispatch graph (s : State) : exec (.firingDispatch graph) s = execFiringDispatch graph s := rfl
@[simp] theorem exec_firingCommit graph firing (s : State) : exec (.firingCommit graph firing) s = execFiringCommit graph firing s := rfl
@[simp] theorem exec_rebindSwap graph (s : State) : exec (.rebindSwap graph) s = execRebindSwap graph s := rfl
@[simp] theorem exec_unbindCompletion graph (s : State) : exec (.unbindCompletion graph) s = execUnbindCompletion graph s := rfl
@[simp] theorem exec_handlerBankGrant core part (s : State) : exec (.handlerBankGrant core part) s = execHandlerBankGrant core part s := rfl
@[simp] theorem exec_groupStopComplete core gid (s : State) : exec (.groupStopComplete core gid) s = execGroupStopComplete core gid s := rfl
@[simp] theorem exec_timerMatch core (s : State) : exec (.timerMatch core) s = execTimerMatch core s := rfl
@[simp] theorem exec_retirementComplete die space (s : State) : exec (.retirementComplete die space) s = execRetirementComplete die space s := rfl
@[simp] theorem exec_quoteExpiry qid (s : State) : exec (.quoteExpiry qid) s = execQuoteExpiry qid s := rfl
@[simp] theorem exec_haltTime qid (s : State) : exec (.haltTime qid) s = execHaltTime qid s := rfl
@[simp] theorem exec_haltEnergy qid (s : State) : exec (.haltEnergy qid) s = execHaltEnergy qid s := rfl
@[simp] theorem exec_teamPlacement (s : State) : exec .teamPlacement s = execTeamPlacement s := rfl
@[simp] theorem exec_teamRelease core slot (s : State) : exec (.teamRelease core slot) s = execTeamRelease core slot s := rfl
@[simp] theorem exec_forwardProgressSwap core (s : State) : exec (.forwardProgressSwap core) s = execForwardProgressSwap core s := rfl
@[simp] theorem exec_safePointTimeout core slot (s : State) : exec (.safePointTimeout core slot) s = execSafePointTimeout core slot s := rfl
@[simp] theorem exec_teamSave core slot (s : State) : exec (.teamSave core slot) s = execTeamSave core slot s := rfl
@[simp] theorem exec_frequencyStep die cause (s : State) : exec (.frequencyStep die cause) s = execFrequencyStep die cause s := rfl
@[simp] theorem exec_relockComplete die (s : State) : exec (.relockComplete die) s = execRelockComplete die s := rfl
@[simp] theorem exec_droopStretch die (s : State) : exec (.droopStretch die) s = execDroopStretch die s := rfl
@[simp] theorem exec_capChange die (s : State) : exec (.capChange die) s = execCapChange die s := rfl
@[simp] theorem exec_envelopeChange die live (s : State) : exec (.envelopeChange die live) s = execEnvelopeChange die live s := rfl
@[simp] theorem exec_breakEvenHold core (s : State) : exec (.breakEvenHold core) s = execBreakEvenHold core s := rfl
@[simp] theorem exec_powerGate core (s : State) : exec (.powerGate core) s = execPowerGate core s := rfl
@[simp] theorem exec_coreWake core (s : State) : exec (.coreWake core) s = execCoreWake core s := rfl
@[simp] theorem exec_inrushGrant die quad (s : State) : exec (.inrushGrant die quad) s = execInrushGrant die quad s := rfl
@[simp] theorem exec_suspendStep (s : State) : exec .suspendStep s = execSuspendStep s := rfl
@[simp] theorem exec_portRetrain port (s : State) : exec (.portRetrain port) s = execPortRetrain port s := rfl
@[simp] theorem exec_portSequenceConfirm port seq (s : State) : exec (.portSequenceConfirm port seq) s = execPortSequenceConfirm port seq s := rfl
@[simp] theorem exec_throttle die tmax (s : State) : exec (.throttle die tmax) s = execThrottle die tmax s := rfl
@[simp] theorem exec_throttleStep die tmax (s : State) : exec (.throttleStep die tmax) s = execThrottleStep die tmax s := rfl
@[simp] theorem exec_emergencySave die tmax (s : State) : exec (.emergencySave die tmax) s = execEmergencySave die tmax s := rfl
@[simp] theorem exec_emergencySaveCommit die (s : State) : exec (.emergencySaveCommit die) s = execEmergencySaveCommit die s := rfl
@[simp] theorem exec_hardTrip die tmax (s : State) : exec (.hardTrip die tmax) s = execHardTrip die tmax s := rfl
@[simp] theorem exec_boot (s : State) : exec .boot s = execBoot s := rfl
@[simp] theorem exec_scrubCompletion die (s : State) : exec (.scrubCompletion die) s = execScrubCompletion die s := rfl
@[simp] theorem exec_hostBar2Access wr addr size data (s : State) : exec (.hostBar2Access wr addr size data) s = execHostBar2Access wr addr size data s := rfl
@[simp] theorem exec_dieLinkRetrain link (s : State) : exec (.dieLinkRetrain link) s = execDieLinkRetrain link s := rfl
@[simp] theorem exec_peerWrite port off bytes (s : State) : exec (.peerWrite port off bytes) s = execPeerWrite port off bytes s := rfl
@[simp] theorem exec_peerRead port off len (s : State) : exec (.peerRead port off len) s = execPeerRead port off len s := rfl
@[simp] theorem exec_peerResponse port seq bytes (s : State) : exec (.peerResponse port seq bytes) s = execPeerResponse port seq bytes s := rfl
@[simp] theorem exec_peerAdd port off amount (s : State) : exec (.peerAdd port off amount) s = execPeerAdd port off amount s := rfl
@[simp] theorem exec_peerRequest port header payload (s : State) : exec (.peerRequest port header payload) s = execPeerRequest port header payload s := rfl
@[simp] theorem exec_peerReject port seq status (s : State) : exec (.peerReject port seq status) s = execPeerReject port seq status s := rfl
@[simp] theorem exec_heartbeatWindowEnd die (s : State) : exec (.heartbeatWindowEnd die) s = execHeartbeatWindowEnd die s := rfl
@[simp] theorem exec_cmdLoad die queue (s : State) : exec (.cmdLoad die queue) s = execCmdLoad die queue s := rfl
@[simp] theorem exec_cmdUnload die queue (s : State) : exec (.cmdUnload die queue) s = execCmdUnload die queue s := rfl
@[simp] theorem exec_cmdQuote die queue (s : State) : exec (.cmdQuote die queue) s = execCmdQuote die queue s := rfl
@[simp] theorem exec_cmdAccept die queue (s : State) : exec (.cmdAccept die queue) s = execCmdAccept die queue s := rfl
@[simp] theorem exec_cmdDecline die queue (s : State) : exec (.cmdDecline die queue) s = execCmdDecline die queue s := rfl
@[simp] theorem exec_cmdLaunch die queue (s : State) : exec (.cmdLaunch die queue) s = execCmdLaunch die queue s := rfl
@[simp] theorem exec_cmdBind die queue (s : State) : exec (.cmdBind die queue) s = execCmdBind die queue s := rfl
@[simp] theorem exec_cmdUnbind die queue (s : State) : exec (.cmdUnbind die queue) s = execCmdUnbind die queue s := rfl
@[simp] theorem exec_mbResume len (s : State) : exec (.mbResume len) s = execMbResume len s := rfl
@[simp] theorem exec_mbAttest len (s : State) : exec (.mbAttest len) s = execMbAttest len s := rfl
@[simp] theorem exec_mbReload len (s : State) : exec (.mbReload len) s = execMbReload len s := rfl
@[simp] theorem exec_mbLogdump len (s : State) : exec (.mbLogdump len) s = execMbLogdump len s := rfl
@[simp] theorem exec_mbIdcert len (s : State) : exec (.mbIdcert len) s = execMbIdcert len s := rfl
@[simp] theorem exec_faultres core value (s : State) : exec (.faultres core value) s = execFaultres core value s := rfl
@[simp] theorem exec_gstopStop core gid (s : State) : exec (.gstopStop core gid) s = execGstopStop core gid s := rfl
@[simp] theorem exec_gstopRun core gid (s : State) : exec (.gstopRun core gid) s = execGstopRun core gid s := rfl
@[simp] theorem exec_spretire die space (s : State) : exec (.spretire die space) s = execSpretire die space s := rfl
@[simp] theorem exec_fpwinWrite core n (s : State) : exec (.fpwinWrite core n) s = execFpwinWrite core n s := rfl
@[simp] theorem exec_krlock die (s : State) : exec (.krlock die) s = execKrlock die s := rfl
@[simp] theorem exec_clkratReq die req (s : State) : exec (.clkratReq die req) s = execClkratReq die req s := rfl
@[simp] theorem exec_suspctlGo (s : State) : exec .suspctlGo s = execSuspctlGo s := rfl
@[simp] theorem exec_scrubn die n (s : State) : exec (.scrubn die n) s = execScrubn die n s := rfl
@[simp] theorem exec_lqdoor die value (s : State) : exec (.lqdoor die value) s = execLqdoor die value s := rfl
@[simp] theorem exec_wqdoor die value (s : State) : exec (.wqdoor die value) s = execWqdoor die value s := rfl
@[simp] theorem exec_notifyApertureWrite core (s : State) : exec (.notifyApertureWrite core) s = execNotifyApertureWrite core s := rfl
@[simp] theorem exec_hbeat die value (s : State) : exec (.hbeat die value) s = execHbeat die value s := rfl
@[simp] theorem exec_ownerWrite die own (s : State) : exec (.ownerWrite die own) s = execOwnerWrite die own s := rfl
@[simp] theorem exec_registerWrite reg value (s : State) : exec (.registerWrite reg value) s = execRegisterWrite reg value s := rfl
@[simp] theorem exec_linkRetrainingEnd link ok (s : State) : exec (.linkRetrainingEnd link ok) s = execLinkRetrainingEnd link ok s := rfl
@[simp] theorem exec_flitRetry port (s : State) : exec (.flitRetry port) s = execFlitRetry port s := rfl
@[simp] theorem exec_patrolRead arr ue (s : State) : exec (.patrolRead arr ue) s = execPatrolRead arr ue s := rfl
@[simp] theorem exec_partitionStart part image (s : State) : exec (.partitionStart part image) s = execPartitionStart part image s := rfl

end Sys2Proof.Machine
end

