-- ==== Sys2Proof/Laws/State.lean ====
section
/-! SUPPORT. What each accessor leaves alone: one lemma per field of the state per update, and what the accessors read
back. -/
namespace Sys2Proof.Machine

/-! ### setCore -/

@[simp] theorem State.setCore_dies (s : State) (c : Fin 128) (k : Core) : (s.setCore c k).dies = s.dies := rfl
@[simp] theorem State.setCore_ports (s : State) (c : Fin 128) (k : Core) : (s.setCore c k).ports = s.ports := rfl
@[simp] theorem State.setCore_links (s : State) (c : Fin 128) (k : Core) : (s.setCore c k).links = s.links := rfl
@[simp] theorem State.setCore_pkg (s : State) (c : Fin 128) (k : Core) : (s.setCore c k).pkg = s.pkg := rfl
@[simp] theorem State.setCore_mem (s : State) (c : Fin 128) (k : Core) : (s.setCore c k).mem = s.mem := rfl
@[simp] theorem State.setCore_reft (s : State) (c : Fin 128) (k : Core) : (s.setCore c k).reft = s.reft := rfl
@[simp] theorem State.setCore_tags (s : State) (c : Fin 128) (k : Core) : (s.setCore c k).tags = s.tags := rfl
@[simp] theorem State.setCore_marks (s : State) (c : Fin 128) (k : Core) : (s.setCore c k).marks = s.marks := rfl
@[simp] theorem State.setCore_reqs (s : State) (c : Fin 128) (k : Core) : (s.setCore c k).reqs = s.reqs := rfl
@[simp] theorem State.setCore_copies (s : State) (c : Fin 128) (k : Core) : (s.setCore c k).copies = s.copies := rfl
@[simp] theorem State.setCore_tokens (s : State) (c : Fin 128) (k : Core) : (s.setCore c k).tokens = s.tokens := rfl
@[simp] theorem State.setCore_xlinvs (s : State) (c : Fin 128) (k : Core) : (s.setCore c k).xlinvs = s.xlinvs := rfl
@[simp] theorem State.setCore_retiring (s : State) (c : Fin 128) (k : Core) : (s.setCore c k).retiring = s.retiring := rfl
@[simp] theorem State.setCore_files (s : State) (c : Fin 128) (k : Core) : (s.setCore c k).files = s.files := rfl
@[simp] theorem State.setCore_grids (s : State) (c : Fin 128) (k : Core) : (s.setCore c k).grids = s.grids := rfl
@[simp] theorem State.setCore_quotes (s : State) (c : Fin 128) (k : Core) : (s.setCore c k).quotes = s.quotes := rfl
@[simp] theorem State.setCore_graphs (s : State) (c : Fin 128) (k : Core) : (s.setCore c k).graphs = s.graphs := rfl
@[simp] theorem State.setCore_saved (s : State) (c : Fin 128) (k : Core) : (s.setCore c k).saved = s.saved := rfl
@[simp] theorem State.setCore_past (s : State) (c : Fin 128) (k : Core) : (s.setCore c k).past = s.past := rfl
@[simp] theorem State.setCore_claims (s : State) (c : Fin 128) (k : Core) : (s.setCore c k).claims = s.claims := rfl
@[simp] theorem State.setCore_late (s : State) (c : Fin 128) (k : Core) : (s.setCore c k).late = s.late := rfl
@[simp] theorem State.setCore_served (s : State) (c : Fin 128) (k : Core) : (s.setCore c k).served = s.served := rfl
@[simp] theorem State.setCore_outbox (s : State) (c : Fin 128) (k : Core) : (s.setCore c k).outbox = s.outbox := rfl
@[simp] theorem State.setCore_nextId (s : State) (c : Fin 128) (k : Core) : (s.setCore c k).nextId = s.nextId := rfl
@[simp] theorem State.setCore_fresh (s : State) (c : Fin 128) (k : Core) : (s.setCore c k).fresh = s.fresh := rfl
@[simp] theorem State.setCore_picks (s : State) (c : Fin 128) (k : Core) : (s.setCore c k).picks = s.picks := rfl
@[simp] theorem State.setCore_agenda (s : State) (c : Fin 128) (k : Core) : (s.setCore c k).agenda = s.agenda := rfl
@[simp] theorem State.setCore_cur (s : State) (c : Fin 128) (k : Core) : (s.setCore c k).cur = s.cur := rfl

/-! ### modCore -/

@[simp] theorem State.modCore_dies (s : State) (c : Fin 128) (f : Core → Core) : (s.modCore c f).dies = s.dies := rfl
@[simp] theorem State.modCore_ports (s : State) (c : Fin 128) (f : Core → Core) : (s.modCore c f).ports = s.ports := rfl
@[simp] theorem State.modCore_links (s : State) (c : Fin 128) (f : Core → Core) : (s.modCore c f).links = s.links := rfl
@[simp] theorem State.modCore_pkg (s : State) (c : Fin 128) (f : Core → Core) : (s.modCore c f).pkg = s.pkg := rfl
@[simp] theorem State.modCore_mem (s : State) (c : Fin 128) (f : Core → Core) : (s.modCore c f).mem = s.mem := rfl
@[simp] theorem State.modCore_reft (s : State) (c : Fin 128) (f : Core → Core) : (s.modCore c f).reft = s.reft := rfl
@[simp] theorem State.modCore_tags (s : State) (c : Fin 128) (f : Core → Core) : (s.modCore c f).tags = s.tags := rfl
@[simp] theorem State.modCore_marks (s : State) (c : Fin 128) (f : Core → Core) : (s.modCore c f).marks = s.marks := rfl
@[simp] theorem State.modCore_reqs (s : State) (c : Fin 128) (f : Core → Core) : (s.modCore c f).reqs = s.reqs := rfl
@[simp] theorem State.modCore_copies (s : State) (c : Fin 128) (f : Core → Core) : (s.modCore c f).copies = s.copies := rfl
@[simp] theorem State.modCore_tokens (s : State) (c : Fin 128) (f : Core → Core) : (s.modCore c f).tokens = s.tokens := rfl
@[simp] theorem State.modCore_xlinvs (s : State) (c : Fin 128) (f : Core → Core) : (s.modCore c f).xlinvs = s.xlinvs := rfl
@[simp] theorem State.modCore_retiring (s : State) (c : Fin 128) (f : Core → Core) : (s.modCore c f).retiring = s.retiring := rfl
@[simp] theorem State.modCore_files (s : State) (c : Fin 128) (f : Core → Core) : (s.modCore c f).files = s.files := rfl
@[simp] theorem State.modCore_grids (s : State) (c : Fin 128) (f : Core → Core) : (s.modCore c f).grids = s.grids := rfl
@[simp] theorem State.modCore_quotes (s : State) (c : Fin 128) (f : Core → Core) : (s.modCore c f).quotes = s.quotes := rfl
@[simp] theorem State.modCore_graphs (s : State) (c : Fin 128) (f : Core → Core) : (s.modCore c f).graphs = s.graphs := rfl
@[simp] theorem State.modCore_saved (s : State) (c : Fin 128) (f : Core → Core) : (s.modCore c f).saved = s.saved := rfl
@[simp] theorem State.modCore_past (s : State) (c : Fin 128) (f : Core → Core) : (s.modCore c f).past = s.past := rfl
@[simp] theorem State.modCore_claims (s : State) (c : Fin 128) (f : Core → Core) : (s.modCore c f).claims = s.claims := rfl
@[simp] theorem State.modCore_late (s : State) (c : Fin 128) (f : Core → Core) : (s.modCore c f).late = s.late := rfl
@[simp] theorem State.modCore_served (s : State) (c : Fin 128) (f : Core → Core) : (s.modCore c f).served = s.served := rfl
@[simp] theorem State.modCore_outbox (s : State) (c : Fin 128) (f : Core → Core) : (s.modCore c f).outbox = s.outbox := rfl
@[simp] theorem State.modCore_nextId (s : State) (c : Fin 128) (f : Core → Core) : (s.modCore c f).nextId = s.nextId := rfl
@[simp] theorem State.modCore_fresh (s : State) (c : Fin 128) (f : Core → Core) : (s.modCore c f).fresh = s.fresh := rfl
@[simp] theorem State.modCore_picks (s : State) (c : Fin 128) (f : Core → Core) : (s.modCore c f).picks = s.picks := rfl
@[simp] theorem State.modCore_agenda (s : State) (c : Fin 128) (f : Core → Core) : (s.modCore c f).agenda = s.agenda := rfl
@[simp] theorem State.modCore_cur (s : State) (c : Fin 128) (f : Core → Core) : (s.modCore c f).cur = s.cur := rfl

/-! ### setDie -/

@[simp] theorem State.setDie_cores (s : State) (d : Fin 4) (x : Die) : (s.setDie d x).cores = s.cores := rfl
@[simp] theorem State.setDie_ports (s : State) (d : Fin 4) (x : Die) : (s.setDie d x).ports = s.ports := rfl
@[simp] theorem State.setDie_links (s : State) (d : Fin 4) (x : Die) : (s.setDie d x).links = s.links := rfl
@[simp] theorem State.setDie_pkg (s : State) (d : Fin 4) (x : Die) : (s.setDie d x).pkg = s.pkg := rfl
@[simp] theorem State.setDie_mem (s : State) (d : Fin 4) (x : Die) : (s.setDie d x).mem = s.mem := rfl
@[simp] theorem State.setDie_reft (s : State) (d : Fin 4) (x : Die) : (s.setDie d x).reft = s.reft := rfl
@[simp] theorem State.setDie_tags (s : State) (d : Fin 4) (x : Die) : (s.setDie d x).tags = s.tags := rfl
@[simp] theorem State.setDie_marks (s : State) (d : Fin 4) (x : Die) : (s.setDie d x).marks = s.marks := rfl
@[simp] theorem State.setDie_reqs (s : State) (d : Fin 4) (x : Die) : (s.setDie d x).reqs = s.reqs := rfl
@[simp] theorem State.setDie_copies (s : State) (d : Fin 4) (x : Die) : (s.setDie d x).copies = s.copies := rfl
@[simp] theorem State.setDie_tokens (s : State) (d : Fin 4) (x : Die) : (s.setDie d x).tokens = s.tokens := rfl
@[simp] theorem State.setDie_xlinvs (s : State) (d : Fin 4) (x : Die) : (s.setDie d x).xlinvs = s.xlinvs := rfl
@[simp] theorem State.setDie_retiring (s : State) (d : Fin 4) (x : Die) : (s.setDie d x).retiring = s.retiring := rfl
@[simp] theorem State.setDie_files (s : State) (d : Fin 4) (x : Die) : (s.setDie d x).files = s.files := rfl
@[simp] theorem State.setDie_grids (s : State) (d : Fin 4) (x : Die) : (s.setDie d x).grids = s.grids := rfl
@[simp] theorem State.setDie_quotes (s : State) (d : Fin 4) (x : Die) : (s.setDie d x).quotes = s.quotes := rfl
@[simp] theorem State.setDie_graphs (s : State) (d : Fin 4) (x : Die) : (s.setDie d x).graphs = s.graphs := rfl
@[simp] theorem State.setDie_saved (s : State) (d : Fin 4) (x : Die) : (s.setDie d x).saved = s.saved := rfl
@[simp] theorem State.setDie_past (s : State) (d : Fin 4) (x : Die) : (s.setDie d x).past = s.past := rfl
@[simp] theorem State.setDie_claims (s : State) (d : Fin 4) (x : Die) : (s.setDie d x).claims = s.claims := rfl
@[simp] theorem State.setDie_late (s : State) (d : Fin 4) (x : Die) : (s.setDie d x).late = s.late := rfl
@[simp] theorem State.setDie_served (s : State) (d : Fin 4) (x : Die) : (s.setDie d x).served = s.served := rfl
@[simp] theorem State.setDie_outbox (s : State) (d : Fin 4) (x : Die) : (s.setDie d x).outbox = s.outbox := rfl
@[simp] theorem State.setDie_nextId (s : State) (d : Fin 4) (x : Die) : (s.setDie d x).nextId = s.nextId := rfl
@[simp] theorem State.setDie_fresh (s : State) (d : Fin 4) (x : Die) : (s.setDie d x).fresh = s.fresh := rfl
@[simp] theorem State.setDie_picks (s : State) (d : Fin 4) (x : Die) : (s.setDie d x).picks = s.picks := rfl
@[simp] theorem State.setDie_agenda (s : State) (d : Fin 4) (x : Die) : (s.setDie d x).agenda = s.agenda := rfl
@[simp] theorem State.setDie_cur (s : State) (d : Fin 4) (x : Die) : (s.setDie d x).cur = s.cur := rfl

/-! ### modDie -/

@[simp] theorem State.modDie_cores (s : State) (d : Fin 4) (f : Die → Die) : (s.modDie d f).cores = s.cores := rfl
@[simp] theorem State.modDie_ports (s : State) (d : Fin 4) (f : Die → Die) : (s.modDie d f).ports = s.ports := rfl
@[simp] theorem State.modDie_links (s : State) (d : Fin 4) (f : Die → Die) : (s.modDie d f).links = s.links := rfl
@[simp] theorem State.modDie_pkg (s : State) (d : Fin 4) (f : Die → Die) : (s.modDie d f).pkg = s.pkg := rfl
@[simp] theorem State.modDie_mem (s : State) (d : Fin 4) (f : Die → Die) : (s.modDie d f).mem = s.mem := rfl
@[simp] theorem State.modDie_reft (s : State) (d : Fin 4) (f : Die → Die) : (s.modDie d f).reft = s.reft := rfl
@[simp] theorem State.modDie_tags (s : State) (d : Fin 4) (f : Die → Die) : (s.modDie d f).tags = s.tags := rfl
@[simp] theorem State.modDie_marks (s : State) (d : Fin 4) (f : Die → Die) : (s.modDie d f).marks = s.marks := rfl
@[simp] theorem State.modDie_reqs (s : State) (d : Fin 4) (f : Die → Die) : (s.modDie d f).reqs = s.reqs := rfl
@[simp] theorem State.modDie_copies (s : State) (d : Fin 4) (f : Die → Die) : (s.modDie d f).copies = s.copies := rfl
@[simp] theorem State.modDie_tokens (s : State) (d : Fin 4) (f : Die → Die) : (s.modDie d f).tokens = s.tokens := rfl
@[simp] theorem State.modDie_xlinvs (s : State) (d : Fin 4) (f : Die → Die) : (s.modDie d f).xlinvs = s.xlinvs := rfl
@[simp] theorem State.modDie_retiring (s : State) (d : Fin 4) (f : Die → Die) : (s.modDie d f).retiring = s.retiring := rfl
@[simp] theorem State.modDie_files (s : State) (d : Fin 4) (f : Die → Die) : (s.modDie d f).files = s.files := rfl
@[simp] theorem State.modDie_grids (s : State) (d : Fin 4) (f : Die → Die) : (s.modDie d f).grids = s.grids := rfl
@[simp] theorem State.modDie_quotes (s : State) (d : Fin 4) (f : Die → Die) : (s.modDie d f).quotes = s.quotes := rfl
@[simp] theorem State.modDie_graphs (s : State) (d : Fin 4) (f : Die → Die) : (s.modDie d f).graphs = s.graphs := rfl
@[simp] theorem State.modDie_saved (s : State) (d : Fin 4) (f : Die → Die) : (s.modDie d f).saved = s.saved := rfl
@[simp] theorem State.modDie_past (s : State) (d : Fin 4) (f : Die → Die) : (s.modDie d f).past = s.past := rfl
@[simp] theorem State.modDie_claims (s : State) (d : Fin 4) (f : Die → Die) : (s.modDie d f).claims = s.claims := rfl
@[simp] theorem State.modDie_late (s : State) (d : Fin 4) (f : Die → Die) : (s.modDie d f).late = s.late := rfl
@[simp] theorem State.modDie_served (s : State) (d : Fin 4) (f : Die → Die) : (s.modDie d f).served = s.served := rfl
@[simp] theorem State.modDie_outbox (s : State) (d : Fin 4) (f : Die → Die) : (s.modDie d f).outbox = s.outbox := rfl
@[simp] theorem State.modDie_nextId (s : State) (d : Fin 4) (f : Die → Die) : (s.modDie d f).nextId = s.nextId := rfl
@[simp] theorem State.modDie_fresh (s : State) (d : Fin 4) (f : Die → Die) : (s.modDie d f).fresh = s.fresh := rfl
@[simp] theorem State.modDie_picks (s : State) (d : Fin 4) (f : Die → Die) : (s.modDie d f).picks = s.picks := rfl
@[simp] theorem State.modDie_agenda (s : State) (d : Fin 4) (f : Die → Die) : (s.modDie d f).agenda = s.agenda := rfl
@[simp] theorem State.modDie_cur (s : State) (d : Fin 4) (f : Die → Die) : (s.modDie d f).cur = s.cur := rfl

/-! ### setGroup -/

@[simp] theorem State.setGroup_dies (s : State) (c g : Fin 128) (x : Option Group) : (s.setGroup c g x).dies = s.dies := rfl
@[simp] theorem State.setGroup_ports (s : State) (c g : Fin 128) (x : Option Group) : (s.setGroup c g x).ports = s.ports := rfl
@[simp] theorem State.setGroup_links (s : State) (c g : Fin 128) (x : Option Group) : (s.setGroup c g x).links = s.links := rfl
@[simp] theorem State.setGroup_pkg (s : State) (c g : Fin 128) (x : Option Group) : (s.setGroup c g x).pkg = s.pkg := rfl
@[simp] theorem State.setGroup_mem (s : State) (c g : Fin 128) (x : Option Group) : (s.setGroup c g x).mem = s.mem := rfl
@[simp] theorem State.setGroup_reft (s : State) (c g : Fin 128) (x : Option Group) : (s.setGroup c g x).reft = s.reft := rfl
@[simp] theorem State.setGroup_tags (s : State) (c g : Fin 128) (x : Option Group) : (s.setGroup c g x).tags = s.tags := rfl
@[simp] theorem State.setGroup_marks (s : State) (c g : Fin 128) (x : Option Group) : (s.setGroup c g x).marks = s.marks := rfl
@[simp] theorem State.setGroup_reqs (s : State) (c g : Fin 128) (x : Option Group) : (s.setGroup c g x).reqs = s.reqs := rfl
@[simp] theorem State.setGroup_copies (s : State) (c g : Fin 128) (x : Option Group) : (s.setGroup c g x).copies = s.copies := rfl
@[simp] theorem State.setGroup_tokens (s : State) (c g : Fin 128) (x : Option Group) : (s.setGroup c g x).tokens = s.tokens := rfl
@[simp] theorem State.setGroup_xlinvs (s : State) (c g : Fin 128) (x : Option Group) : (s.setGroup c g x).xlinvs = s.xlinvs := rfl
@[simp] theorem State.setGroup_retiring (s : State) (c g : Fin 128) (x : Option Group) : (s.setGroup c g x).retiring = s.retiring := rfl
@[simp] theorem State.setGroup_files (s : State) (c g : Fin 128) (x : Option Group) : (s.setGroup c g x).files = s.files := rfl
@[simp] theorem State.setGroup_grids (s : State) (c g : Fin 128) (x : Option Group) : (s.setGroup c g x).grids = s.grids := rfl
@[simp] theorem State.setGroup_quotes (s : State) (c g : Fin 128) (x : Option Group) : (s.setGroup c g x).quotes = s.quotes := rfl
@[simp] theorem State.setGroup_graphs (s : State) (c g : Fin 128) (x : Option Group) : (s.setGroup c g x).graphs = s.graphs := rfl
@[simp] theorem State.setGroup_saved (s : State) (c g : Fin 128) (x : Option Group) : (s.setGroup c g x).saved = s.saved := rfl
@[simp] theorem State.setGroup_past (s : State) (c g : Fin 128) (x : Option Group) : (s.setGroup c g x).past = s.past := rfl
@[simp] theorem State.setGroup_claims (s : State) (c g : Fin 128) (x : Option Group) : (s.setGroup c g x).claims = s.claims := rfl
@[simp] theorem State.setGroup_late (s : State) (c g : Fin 128) (x : Option Group) : (s.setGroup c g x).late = s.late := rfl
@[simp] theorem State.setGroup_served (s : State) (c g : Fin 128) (x : Option Group) : (s.setGroup c g x).served = s.served := rfl
@[simp] theorem State.setGroup_outbox (s : State) (c g : Fin 128) (x : Option Group) : (s.setGroup c g x).outbox = s.outbox := rfl
@[simp] theorem State.setGroup_nextId (s : State) (c g : Fin 128) (x : Option Group) : (s.setGroup c g x).nextId = s.nextId := rfl
@[simp] theorem State.setGroup_fresh (s : State) (c g : Fin 128) (x : Option Group) : (s.setGroup c g x).fresh = s.fresh := rfl
@[simp] theorem State.setGroup_picks (s : State) (c g : Fin 128) (x : Option Group) : (s.setGroup c g x).picks = s.picks := rfl
@[simp] theorem State.setGroup_agenda (s : State) (c g : Fin 128) (x : Option Group) : (s.setGroup c g x).agenda = s.agenda := rfl
@[simp] theorem State.setGroup_cur (s : State) (c g : Fin 128) (x : Option Group) : (s.setGroup c g x).cur = s.cur := rfl

/-! ### setTeam -/

@[simp] theorem State.setTeam_dies (s : State) (c : Fin 128) (t : Fin 16) (x : Option Team) : (s.setTeam c t x).dies = s.dies := rfl
@[simp] theorem State.setTeam_ports (s : State) (c : Fin 128) (t : Fin 16) (x : Option Team) : (s.setTeam c t x).ports = s.ports := rfl
@[simp] theorem State.setTeam_links (s : State) (c : Fin 128) (t : Fin 16) (x : Option Team) : (s.setTeam c t x).links = s.links := rfl
@[simp] theorem State.setTeam_pkg (s : State) (c : Fin 128) (t : Fin 16) (x : Option Team) : (s.setTeam c t x).pkg = s.pkg := rfl
@[simp] theorem State.setTeam_mem (s : State) (c : Fin 128) (t : Fin 16) (x : Option Team) : (s.setTeam c t x).mem = s.mem := rfl
@[simp] theorem State.setTeam_reft (s : State) (c : Fin 128) (t : Fin 16) (x : Option Team) : (s.setTeam c t x).reft = s.reft := rfl
@[simp] theorem State.setTeam_tags (s : State) (c : Fin 128) (t : Fin 16) (x : Option Team) : (s.setTeam c t x).tags = s.tags := rfl
@[simp] theorem State.setTeam_marks (s : State) (c : Fin 128) (t : Fin 16) (x : Option Team) : (s.setTeam c t x).marks = s.marks := rfl
@[simp] theorem State.setTeam_reqs (s : State) (c : Fin 128) (t : Fin 16) (x : Option Team) : (s.setTeam c t x).reqs = s.reqs := rfl
@[simp] theorem State.setTeam_copies (s : State) (c : Fin 128) (t : Fin 16) (x : Option Team) : (s.setTeam c t x).copies = s.copies := rfl
@[simp] theorem State.setTeam_tokens (s : State) (c : Fin 128) (t : Fin 16) (x : Option Team) : (s.setTeam c t x).tokens = s.tokens := rfl
@[simp] theorem State.setTeam_xlinvs (s : State) (c : Fin 128) (t : Fin 16) (x : Option Team) : (s.setTeam c t x).xlinvs = s.xlinvs := rfl
@[simp] theorem State.setTeam_retiring (s : State) (c : Fin 128) (t : Fin 16) (x : Option Team) : (s.setTeam c t x).retiring = s.retiring := rfl
@[simp] theorem State.setTeam_files (s : State) (c : Fin 128) (t : Fin 16) (x : Option Team) : (s.setTeam c t x).files = s.files := rfl
@[simp] theorem State.setTeam_grids (s : State) (c : Fin 128) (t : Fin 16) (x : Option Team) : (s.setTeam c t x).grids = s.grids := rfl
@[simp] theorem State.setTeam_quotes (s : State) (c : Fin 128) (t : Fin 16) (x : Option Team) : (s.setTeam c t x).quotes = s.quotes := rfl
@[simp] theorem State.setTeam_graphs (s : State) (c : Fin 128) (t : Fin 16) (x : Option Team) : (s.setTeam c t x).graphs = s.graphs := rfl
@[simp] theorem State.setTeam_saved (s : State) (c : Fin 128) (t : Fin 16) (x : Option Team) : (s.setTeam c t x).saved = s.saved := rfl
@[simp] theorem State.setTeam_past (s : State) (c : Fin 128) (t : Fin 16) (x : Option Team) : (s.setTeam c t x).past = s.past := rfl
@[simp] theorem State.setTeam_claims (s : State) (c : Fin 128) (t : Fin 16) (x : Option Team) : (s.setTeam c t x).claims = s.claims := rfl
@[simp] theorem State.setTeam_late (s : State) (c : Fin 128) (t : Fin 16) (x : Option Team) : (s.setTeam c t x).late = s.late := rfl
@[simp] theorem State.setTeam_served (s : State) (c : Fin 128) (t : Fin 16) (x : Option Team) : (s.setTeam c t x).served = s.served := rfl
@[simp] theorem State.setTeam_outbox (s : State) (c : Fin 128) (t : Fin 16) (x : Option Team) : (s.setTeam c t x).outbox = s.outbox := rfl
@[simp] theorem State.setTeam_nextId (s : State) (c : Fin 128) (t : Fin 16) (x : Option Team) : (s.setTeam c t x).nextId = s.nextId := rfl
@[simp] theorem State.setTeam_fresh (s : State) (c : Fin 128) (t : Fin 16) (x : Option Team) : (s.setTeam c t x).fresh = s.fresh := rfl
@[simp] theorem State.setTeam_picks (s : State) (c : Fin 128) (t : Fin 16) (x : Option Team) : (s.setTeam c t x).picks = s.picks := rfl
@[simp] theorem State.setTeam_agenda (s : State) (c : Fin 128) (t : Fin 16) (x : Option Team) : (s.setTeam c t x).agenda = s.agenda := rfl
@[simp] theorem State.setTeam_cur (s : State) (c : Fin 128) (t : Fin 16) (x : Option Team) : (s.setTeam c t x).cur = s.cur := rfl

/-! ### modGrid -/

@[simp] theorem State.modGrid_cores (s : State) (id : Nat) (f : Grid → Grid) : (s.modGrid id f).cores = s.cores := rfl
@[simp] theorem State.modGrid_dies (s : State) (id : Nat) (f : Grid → Grid) : (s.modGrid id f).dies = s.dies := rfl
@[simp] theorem State.modGrid_ports (s : State) (id : Nat) (f : Grid → Grid) : (s.modGrid id f).ports = s.ports := rfl
@[simp] theorem State.modGrid_links (s : State) (id : Nat) (f : Grid → Grid) : (s.modGrid id f).links = s.links := rfl
@[simp] theorem State.modGrid_pkg (s : State) (id : Nat) (f : Grid → Grid) : (s.modGrid id f).pkg = s.pkg := rfl
@[simp] theorem State.modGrid_mem (s : State) (id : Nat) (f : Grid → Grid) : (s.modGrid id f).mem = s.mem := rfl
@[simp] theorem State.modGrid_reft (s : State) (id : Nat) (f : Grid → Grid) : (s.modGrid id f).reft = s.reft := rfl
@[simp] theorem State.modGrid_tags (s : State) (id : Nat) (f : Grid → Grid) : (s.modGrid id f).tags = s.tags := rfl
@[simp] theorem State.modGrid_marks (s : State) (id : Nat) (f : Grid → Grid) : (s.modGrid id f).marks = s.marks := rfl
@[simp] theorem State.modGrid_reqs (s : State) (id : Nat) (f : Grid → Grid) : (s.modGrid id f).reqs = s.reqs := rfl
@[simp] theorem State.modGrid_copies (s : State) (id : Nat) (f : Grid → Grid) : (s.modGrid id f).copies = s.copies := rfl
@[simp] theorem State.modGrid_tokens (s : State) (id : Nat) (f : Grid → Grid) : (s.modGrid id f).tokens = s.tokens := rfl
@[simp] theorem State.modGrid_xlinvs (s : State) (id : Nat) (f : Grid → Grid) : (s.modGrid id f).xlinvs = s.xlinvs := rfl
@[simp] theorem State.modGrid_retiring (s : State) (id : Nat) (f : Grid → Grid) : (s.modGrid id f).retiring = s.retiring := rfl
@[simp] theorem State.modGrid_files (s : State) (id : Nat) (f : Grid → Grid) : (s.modGrid id f).files = s.files := rfl
@[simp] theorem State.modGrid_quotes (s : State) (id : Nat) (f : Grid → Grid) : (s.modGrid id f).quotes = s.quotes := rfl
@[simp] theorem State.modGrid_graphs (s : State) (id : Nat) (f : Grid → Grid) : (s.modGrid id f).graphs = s.graphs := rfl
@[simp] theorem State.modGrid_saved (s : State) (id : Nat) (f : Grid → Grid) : (s.modGrid id f).saved = s.saved := rfl
@[simp] theorem State.modGrid_past (s : State) (id : Nat) (f : Grid → Grid) : (s.modGrid id f).past = s.past := rfl
@[simp] theorem State.modGrid_claims (s : State) (id : Nat) (f : Grid → Grid) : (s.modGrid id f).claims = s.claims := rfl
@[simp] theorem State.modGrid_late (s : State) (id : Nat) (f : Grid → Grid) : (s.modGrid id f).late = s.late := rfl
@[simp] theorem State.modGrid_served (s : State) (id : Nat) (f : Grid → Grid) : (s.modGrid id f).served = s.served := rfl
@[simp] theorem State.modGrid_outbox (s : State) (id : Nat) (f : Grid → Grid) : (s.modGrid id f).outbox = s.outbox := rfl
@[simp] theorem State.modGrid_nextId (s : State) (id : Nat) (f : Grid → Grid) : (s.modGrid id f).nextId = s.nextId := rfl
@[simp] theorem State.modGrid_fresh (s : State) (id : Nat) (f : Grid → Grid) : (s.modGrid id f).fresh = s.fresh := rfl
@[simp] theorem State.modGrid_picks (s : State) (id : Nat) (f : Grid → Grid) : (s.modGrid id f).picks = s.picks := rfl
@[simp] theorem State.modGrid_agenda (s : State) (id : Nat) (f : Grid → Grid) : (s.modGrid id f).agenda = s.agenda := rfl
@[simp] theorem State.modGrid_cur (s : State) (id : Nat) (f : Grid → Grid) : (s.modGrid id f).cur = s.cur := rfl

/-! ### modPkg -/

@[simp] theorem State.modPkg_cores (s : State) (f : Pkg → Pkg) : (s.modPkg f).cores = s.cores := rfl
@[simp] theorem State.modPkg_dies (s : State) (f : Pkg → Pkg) : (s.modPkg f).dies = s.dies := rfl
@[simp] theorem State.modPkg_ports (s : State) (f : Pkg → Pkg) : (s.modPkg f).ports = s.ports := rfl
@[simp] theorem State.modPkg_links (s : State) (f : Pkg → Pkg) : (s.modPkg f).links = s.links := rfl
@[simp] theorem State.modPkg_mem (s : State) (f : Pkg → Pkg) : (s.modPkg f).mem = s.mem := rfl
@[simp] theorem State.modPkg_reft (s : State) (f : Pkg → Pkg) : (s.modPkg f).reft = s.reft := rfl
@[simp] theorem State.modPkg_tags (s : State) (f : Pkg → Pkg) : (s.modPkg f).tags = s.tags := rfl
@[simp] theorem State.modPkg_marks (s : State) (f : Pkg → Pkg) : (s.modPkg f).marks = s.marks := rfl
@[simp] theorem State.modPkg_reqs (s : State) (f : Pkg → Pkg) : (s.modPkg f).reqs = s.reqs := rfl
@[simp] theorem State.modPkg_copies (s : State) (f : Pkg → Pkg) : (s.modPkg f).copies = s.copies := rfl
@[simp] theorem State.modPkg_tokens (s : State) (f : Pkg → Pkg) : (s.modPkg f).tokens = s.tokens := rfl
@[simp] theorem State.modPkg_xlinvs (s : State) (f : Pkg → Pkg) : (s.modPkg f).xlinvs = s.xlinvs := rfl
@[simp] theorem State.modPkg_retiring (s : State) (f : Pkg → Pkg) : (s.modPkg f).retiring = s.retiring := rfl
@[simp] theorem State.modPkg_files (s : State) (f : Pkg → Pkg) : (s.modPkg f).files = s.files := rfl
@[simp] theorem State.modPkg_grids (s : State) (f : Pkg → Pkg) : (s.modPkg f).grids = s.grids := rfl
@[simp] theorem State.modPkg_quotes (s : State) (f : Pkg → Pkg) : (s.modPkg f).quotes = s.quotes := rfl
@[simp] theorem State.modPkg_graphs (s : State) (f : Pkg → Pkg) : (s.modPkg f).graphs = s.graphs := rfl
@[simp] theorem State.modPkg_saved (s : State) (f : Pkg → Pkg) : (s.modPkg f).saved = s.saved := rfl
@[simp] theorem State.modPkg_past (s : State) (f : Pkg → Pkg) : (s.modPkg f).past = s.past := rfl
@[simp] theorem State.modPkg_claims (s : State) (f : Pkg → Pkg) : (s.modPkg f).claims = s.claims := rfl
@[simp] theorem State.modPkg_late (s : State) (f : Pkg → Pkg) : (s.modPkg f).late = s.late := rfl
@[simp] theorem State.modPkg_served (s : State) (f : Pkg → Pkg) : (s.modPkg f).served = s.served := rfl
@[simp] theorem State.modPkg_outbox (s : State) (f : Pkg → Pkg) : (s.modPkg f).outbox = s.outbox := rfl
@[simp] theorem State.modPkg_nextId (s : State) (f : Pkg → Pkg) : (s.modPkg f).nextId = s.nextId := rfl
@[simp] theorem State.modPkg_fresh (s : State) (f : Pkg → Pkg) : (s.modPkg f).fresh = s.fresh := rfl
@[simp] theorem State.modPkg_picks (s : State) (f : Pkg → Pkg) : (s.modPkg f).picks = s.picks := rfl
@[simp] theorem State.modPkg_agenda (s : State) (f : Pkg → Pkg) : (s.modPkg f).agenda = s.agenda := rfl
@[simp] theorem State.modPkg_cur (s : State) (f : Pkg → Pkg) : (s.modPkg f).cur = s.cur := rfl

/-! ### modGroup -/

@[simp] theorem State.modGroup_dies (s : State) (c g : Fin 128) (f : Group → Group) : (s.modGroup c g f).dies = s.dies := by
  unfold State.modGroup; split <;> rfl
@[simp] theorem State.modGroup_ports (s : State) (c g : Fin 128) (f : Group → Group) : (s.modGroup c g f).ports = s.ports := by
  unfold State.modGroup; split <;> rfl
@[simp] theorem State.modGroup_links (s : State) (c g : Fin 128) (f : Group → Group) : (s.modGroup c g f).links = s.links := by
  unfold State.modGroup; split <;> rfl
@[simp] theorem State.modGroup_pkg (s : State) (c g : Fin 128) (f : Group → Group) : (s.modGroup c g f).pkg = s.pkg := by
  unfold State.modGroup; split <;> rfl
@[simp] theorem State.modGroup_mem (s : State) (c g : Fin 128) (f : Group → Group) : (s.modGroup c g f).mem = s.mem := by
  unfold State.modGroup; split <;> rfl
@[simp] theorem State.modGroup_reft (s : State) (c g : Fin 128) (f : Group → Group) : (s.modGroup c g f).reft = s.reft := by
  unfold State.modGroup; split <;> rfl
@[simp] theorem State.modGroup_tags (s : State) (c g : Fin 128) (f : Group → Group) : (s.modGroup c g f).tags = s.tags := by
  unfold State.modGroup; split <;> rfl
@[simp] theorem State.modGroup_marks (s : State) (c g : Fin 128) (f : Group → Group) : (s.modGroup c g f).marks = s.marks := by
  unfold State.modGroup; split <;> rfl
@[simp] theorem State.modGroup_reqs (s : State) (c g : Fin 128) (f : Group → Group) : (s.modGroup c g f).reqs = s.reqs := by
  unfold State.modGroup; split <;> rfl
@[simp] theorem State.modGroup_copies (s : State) (c g : Fin 128) (f : Group → Group) : (s.modGroup c g f).copies = s.copies := by
  unfold State.modGroup; split <;> rfl
@[simp] theorem State.modGroup_tokens (s : State) (c g : Fin 128) (f : Group → Group) : (s.modGroup c g f).tokens = s.tokens := by
  unfold State.modGroup; split <;> rfl
@[simp] theorem State.modGroup_xlinvs (s : State) (c g : Fin 128) (f : Group → Group) : (s.modGroup c g f).xlinvs = s.xlinvs := by
  unfold State.modGroup; split <;> rfl
@[simp] theorem State.modGroup_retiring (s : State) (c g : Fin 128) (f : Group → Group) : (s.modGroup c g f).retiring = s.retiring := by
  unfold State.modGroup; split <;> rfl
@[simp] theorem State.modGroup_files (s : State) (c g : Fin 128) (f : Group → Group) : (s.modGroup c g f).files = s.files := by
  unfold State.modGroup; split <;> rfl
@[simp] theorem State.modGroup_grids (s : State) (c g : Fin 128) (f : Group → Group) : (s.modGroup c g f).grids = s.grids := by
  unfold State.modGroup; split <;> rfl
@[simp] theorem State.modGroup_quotes (s : State) (c g : Fin 128) (f : Group → Group) : (s.modGroup c g f).quotes = s.quotes := by
  unfold State.modGroup; split <;> rfl
@[simp] theorem State.modGroup_graphs (s : State) (c g : Fin 128) (f : Group → Group) : (s.modGroup c g f).graphs = s.graphs := by
  unfold State.modGroup; split <;> rfl
@[simp] theorem State.modGroup_saved (s : State) (c g : Fin 128) (f : Group → Group) : (s.modGroup c g f).saved = s.saved := by
  unfold State.modGroup; split <;> rfl
@[simp] theorem State.modGroup_past (s : State) (c g : Fin 128) (f : Group → Group) : (s.modGroup c g f).past = s.past := by
  unfold State.modGroup; split <;> rfl
@[simp] theorem State.modGroup_claims (s : State) (c g : Fin 128) (f : Group → Group) : (s.modGroup c g f).claims = s.claims := by
  unfold State.modGroup; split <;> rfl
@[simp] theorem State.modGroup_late (s : State) (c g : Fin 128) (f : Group → Group) : (s.modGroup c g f).late = s.late := by
  unfold State.modGroup; split <;> rfl
@[simp] theorem State.modGroup_served (s : State) (c g : Fin 128) (f : Group → Group) : (s.modGroup c g f).served = s.served := by
  unfold State.modGroup; split <;> rfl
@[simp] theorem State.modGroup_outbox (s : State) (c g : Fin 128) (f : Group → Group) : (s.modGroup c g f).outbox = s.outbox := by
  unfold State.modGroup; split <;> rfl
@[simp] theorem State.modGroup_nextId (s : State) (c g : Fin 128) (f : Group → Group) : (s.modGroup c g f).nextId = s.nextId := by
  unfold State.modGroup; split <;> rfl
@[simp] theorem State.modGroup_fresh (s : State) (c g : Fin 128) (f : Group → Group) : (s.modGroup c g f).fresh = s.fresh := by
  unfold State.modGroup; split <;> rfl
@[simp] theorem State.modGroup_picks (s : State) (c g : Fin 128) (f : Group → Group) : (s.modGroup c g f).picks = s.picks := by
  unfold State.modGroup; split <;> rfl
@[simp] theorem State.modGroup_agenda (s : State) (c g : Fin 128) (f : Group → Group) : (s.modGroup c g f).agenda = s.agenda := by
  unfold State.modGroup; split <;> rfl
@[simp] theorem State.modGroup_cur (s : State) (c g : Fin 128) (f : Group → Group) : (s.modGroup c g f).cur = s.cur := by
  unfold State.modGroup; split <;> rfl

/-! ### modTeam -/

@[simp] theorem State.modTeam_dies (s : State) (c : Fin 128) (t : Fin 16) (f : Team → Team) : (s.modTeam c t f).dies = s.dies := by
  unfold State.modTeam; split <;> rfl
@[simp] theorem State.modTeam_ports (s : State) (c : Fin 128) (t : Fin 16) (f : Team → Team) : (s.modTeam c t f).ports = s.ports := by
  unfold State.modTeam; split <;> rfl
@[simp] theorem State.modTeam_links (s : State) (c : Fin 128) (t : Fin 16) (f : Team → Team) : (s.modTeam c t f).links = s.links := by
  unfold State.modTeam; split <;> rfl
@[simp] theorem State.modTeam_pkg (s : State) (c : Fin 128) (t : Fin 16) (f : Team → Team) : (s.modTeam c t f).pkg = s.pkg := by
  unfold State.modTeam; split <;> rfl
@[simp] theorem State.modTeam_mem (s : State) (c : Fin 128) (t : Fin 16) (f : Team → Team) : (s.modTeam c t f).mem = s.mem := by
  unfold State.modTeam; split <;> rfl
@[simp] theorem State.modTeam_reft (s : State) (c : Fin 128) (t : Fin 16) (f : Team → Team) : (s.modTeam c t f).reft = s.reft := by
  unfold State.modTeam; split <;> rfl
@[simp] theorem State.modTeam_tags (s : State) (c : Fin 128) (t : Fin 16) (f : Team → Team) : (s.modTeam c t f).tags = s.tags := by
  unfold State.modTeam; split <;> rfl
@[simp] theorem State.modTeam_marks (s : State) (c : Fin 128) (t : Fin 16) (f : Team → Team) : (s.modTeam c t f).marks = s.marks := by
  unfold State.modTeam; split <;> rfl
@[simp] theorem State.modTeam_reqs (s : State) (c : Fin 128) (t : Fin 16) (f : Team → Team) : (s.modTeam c t f).reqs = s.reqs := by
  unfold State.modTeam; split <;> rfl
@[simp] theorem State.modTeam_copies (s : State) (c : Fin 128) (t : Fin 16) (f : Team → Team) : (s.modTeam c t f).copies = s.copies := by
  unfold State.modTeam; split <;> rfl
@[simp] theorem State.modTeam_tokens (s : State) (c : Fin 128) (t : Fin 16) (f : Team → Team) : (s.modTeam c t f).tokens = s.tokens := by
  unfold State.modTeam; split <;> rfl
@[simp] theorem State.modTeam_xlinvs (s : State) (c : Fin 128) (t : Fin 16) (f : Team → Team) : (s.modTeam c t f).xlinvs = s.xlinvs := by
  unfold State.modTeam; split <;> rfl
@[simp] theorem State.modTeam_retiring (s : State) (c : Fin 128) (t : Fin 16) (f : Team → Team) : (s.modTeam c t f).retiring = s.retiring := by
  unfold State.modTeam; split <;> rfl
@[simp] theorem State.modTeam_files (s : State) (c : Fin 128) (t : Fin 16) (f : Team → Team) : (s.modTeam c t f).files = s.files := by
  unfold State.modTeam; split <;> rfl
@[simp] theorem State.modTeam_grids (s : State) (c : Fin 128) (t : Fin 16) (f : Team → Team) : (s.modTeam c t f).grids = s.grids := by
  unfold State.modTeam; split <;> rfl
@[simp] theorem State.modTeam_quotes (s : State) (c : Fin 128) (t : Fin 16) (f : Team → Team) : (s.modTeam c t f).quotes = s.quotes := by
  unfold State.modTeam; split <;> rfl
@[simp] theorem State.modTeam_graphs (s : State) (c : Fin 128) (t : Fin 16) (f : Team → Team) : (s.modTeam c t f).graphs = s.graphs := by
  unfold State.modTeam; split <;> rfl
@[simp] theorem State.modTeam_saved (s : State) (c : Fin 128) (t : Fin 16) (f : Team → Team) : (s.modTeam c t f).saved = s.saved := by
  unfold State.modTeam; split <;> rfl
@[simp] theorem State.modTeam_past (s : State) (c : Fin 128) (t : Fin 16) (f : Team → Team) : (s.modTeam c t f).past = s.past := by
  unfold State.modTeam; split <;> rfl
@[simp] theorem State.modTeam_claims (s : State) (c : Fin 128) (t : Fin 16) (f : Team → Team) : (s.modTeam c t f).claims = s.claims := by
  unfold State.modTeam; split <;> rfl
@[simp] theorem State.modTeam_late (s : State) (c : Fin 128) (t : Fin 16) (f : Team → Team) : (s.modTeam c t f).late = s.late := by
  unfold State.modTeam; split <;> rfl
@[simp] theorem State.modTeam_served (s : State) (c : Fin 128) (t : Fin 16) (f : Team → Team) : (s.modTeam c t f).served = s.served := by
  unfold State.modTeam; split <;> rfl
@[simp] theorem State.modTeam_outbox (s : State) (c : Fin 128) (t : Fin 16) (f : Team → Team) : (s.modTeam c t f).outbox = s.outbox := by
  unfold State.modTeam; split <;> rfl
@[simp] theorem State.modTeam_nextId (s : State) (c : Fin 128) (t : Fin 16) (f : Team → Team) : (s.modTeam c t f).nextId = s.nextId := by
  unfold State.modTeam; split <;> rfl
@[simp] theorem State.modTeam_fresh (s : State) (c : Fin 128) (t : Fin 16) (f : Team → Team) : (s.modTeam c t f).fresh = s.fresh := by
  unfold State.modTeam; split <;> rfl
@[simp] theorem State.modTeam_picks (s : State) (c : Fin 128) (t : Fin 16) (f : Team → Team) : (s.modTeam c t f).picks = s.picks := by
  unfold State.modTeam; split <;> rfl
@[simp] theorem State.modTeam_agenda (s : State) (c : Fin 128) (t : Fin 16) (f : Team → Team) : (s.modTeam c t f).agenda = s.agenda := by
  unfold State.modTeam; split <;> rfl
@[simp] theorem State.modTeam_cur (s : State) (c : Fin 128) (t : Fin 16) (f : Team → Team) : (s.modTeam c t f).cur = s.cur := by
  unfold State.modTeam; split <;> rfl

/-! ### Reading back -/

@[simp] theorem State.core_setCore_eq (s : State) (c : Fin 128) (k : Core) : (s.setCore c k).core c = k := by
  simp [State.core, State.setCore]

theorem State.core_setCore_ne (s : State) {c e : Fin 128} (k : Core) (h : c ≠ e) : (s.setCore c k).core e = s.core e := by
  simp [State.core, State.setCore, Tab.get_set_ne _ _ h]

@[simp] theorem State.core_modCore_eq (s : State) (c : Fin 128) (f : Core → Core) : (s.modCore c f).core c = f (s.core c) := by
  simp [State.modCore]

theorem State.core_modCore_ne (s : State) {c e : Fin 128} (f : Core → Core) (h : c ≠ e) :
    (s.modCore c f).core e = s.core e := State.core_setCore_ne s _ h

@[simp] theorem State.setCore_setCore (s : State) (c : Fin 128) (k l : Core) : (s.setCore c k).setCore c l = s.setCore c l := by
  simp [State.setCore]

@[simp] theorem State.setCore_core (s : State) (c : Fin 128) : s.setCore c (s.core c) = s := by
  simp [State.setCore, State.core]

@[simp] theorem State.core_setDie (s : State) (d : Fin 4) (x : Die) (c : Fin 128) : (s.setDie d x).core c = s.core c := rfl
@[simp] theorem State.core_modDie (s : State) (d : Fin 4) (f : Die → Die) (c : Fin 128) : (s.modDie d f).core c = s.core c := rfl
@[simp] theorem State.core_modPkg (s : State) (f : Pkg → Pkg) (c : Fin 128) : (s.modPkg f).core c = s.core c := rfl
@[simp] theorem State.core_modGrid (s : State) (id : Nat) (f : Grid → Grid) (c : Fin 128) : (s.modGrid id f).core c = s.core c := rfl
@[simp] theorem State.die_setCore (s : State) (c : Fin 128) (k : Core) (d : Fin 4) : (s.setCore c k).die d = s.die d := rfl
@[simp] theorem State.die_modCore (s : State) (c : Fin 128) (f : Core → Core) (d : Fin 4) : (s.modCore c f).die d = s.die d := rfl
@[simp] theorem State.die_setGroup (s : State) (c g : Fin 128) (x : Option Group) (d : Fin 4) :
    (s.setGroup c g x).die d = s.die d := rfl
@[simp] theorem State.die_modPkg (s : State) (f : Pkg → Pkg) (d : Fin 4) : (s.modPkg f).die d = s.die d := rfl

@[simp] theorem State.die_setDie_eq (s : State) (d : Fin 4) (x : Die) : (s.setDie d x).die d = x := by
  simp [State.die, State.setDie]

theorem State.die_setDie_ne (s : State) {d e : Fin 4} (x : Die) (h : d ≠ e) : (s.setDie d x).die e = s.die e := by
  simp [State.die, State.setDie, Tab.get_set_ne _ _ h]

@[simp] theorem State.die_modDie_eq (s : State) (d : Fin 4) (f : Die → Die) : (s.modDie d f).die d = f (s.die d) := by
  simp [State.modDie]

theorem State.die_modDie_ne (s : State) {d e : Fin 4} (f : Die → Die) (h : d ≠ e) : (s.modDie d f).die e = s.die e :=
  State.die_setDie_ne s _ h

@[simp] theorem State.group_setGroup_eq (s : State) (c g : Fin 128) (x : Option Group) : (s.setGroup c g x).group c g = x := by
  simp [State.group, State.setGroup]

theorem State.group_setGroup_ne (s : State) {c g e i : Fin 128} (x : Option Group) (h : (c, g) ≠ (e, i)) :
    (s.setGroup c g x).group e i = s.group e i := by
  unfold State.group State.setGroup
  by_cases hc : c = e
  · subst hc
    have hg : g ≠ i := fun e => h (by rw [e])
    simp [Tab.get_set_ne _ _ hg]
  · rw [State.core_modCore_ne _ _ hc]

@[simp] theorem State.team_setGroup (s : State) (c g : Fin 128) (x : Option Group) (e : Fin 128) (t : Fin 16) :
    (s.setGroup c g x).team e t = s.team e t := by
  unfold State.team State.setGroup
  by_cases hc : c = e
  · subst hc; simp
  · rw [State.core_modCore_ne _ _ hc]

@[simp] theorem State.team_setTeam_eq (s : State) (c : Fin 128) (t : Fin 16) (x : Option Team) :
    (s.setTeam c t x).team c t = x := by
  simp [State.team, State.setTeam]

@[simp] theorem State.group_setTeam (s : State) (c : Fin 128) (t : Fin 16) (x : Option Team) (e i : Fin 128) :
    (s.setTeam c t x).group e i = s.group e i := by
  unfold State.group State.setTeam
  by_cases hc : c = e
  · subst hc; simp
  · rw [State.core_modCore_ne _ _ hc]

theorem State.modGroup_some (s : State) {c g : Fin 128} {x : Group} (f : Group → Group) (h : s.group c g = some x) :
    s.modGroup c g f = s.setGroup c g (some (f x)) := by
  unfold State.modGroup; rw [h]

theorem State.modTeam_some (s : State) {c : Fin 128} {t : Fin 16} {x : Team} (f : Team → Team) (h : s.team c t = some x) :
    s.modTeam c t f = s.setTeam c t (some (f x)) := by
  unfold State.modTeam; rw [h]

@[simp] theorem State.grid_setCore (s : State) (c : Fin 128) (k : Core) (id : Nat) : (s.setCore c k).grid id = s.grid id := rfl
@[simp] theorem State.grid_setGroup (s : State) (c g : Fin 128) (x : Option Group) (id : Nat) :
    (s.setGroup c g x).grid id = s.grid id := rfl
@[simp] theorem State.grid_modCore (s : State) (c : Fin 128) (f : Core → Core) (id : Nat) : (s.modCore c f).grid id = s.grid id := rfl

end Sys2Proof.Machine
end

