-- ==== Sys2Proof/Laws/Issue.lean ====
section
/-! SUPPORT. What the surroundings of an instruction do: the gate that it passes, what settling a group changes when no lane of
it ends, and so what the end of an instruction leaves. -/
namespace Sys2Proof.Machine

/-! ### Lane sets -/

@[simp] theorem Lanes.has_ofFn (f : Fin 64 → Bool) (p : Fin 64) : (Lanes.ofFn f).has p = f p := by
  show (BitVec.cast _ (BitVec.ofBoolListLE (List.ofFn f))).getLsbD p.val = f p
  rw [BitVec.getLsbD_cast, BitVec.getLsbD_ofBoolListLE]
  rw [List.getD_eq_getElem?_getD, List.getElem?_ofFn, dif_pos p.isLt]
  rfl

theorem Lanes.ext_has {a b : Lanes} (h : ∀ p, a.has p = b.has p) : a = b := by
  apply BitVec.eq_of_getLsbD_eq
  intro i hi
  exact h ⟨i, hi⟩

@[simp] theorem Lanes.has_and (a b : Lanes) (p : Fin 64) : Lanes.has (a &&& b) p = (a.has p && b.has p) := by
  simp [Lanes.has]
@[simp] theorem Lanes.has_or (a b : Lanes) (p : Fin 64) : Lanes.has (a ||| b) p = (a.has p || b.has p) := by
  simp [Lanes.has]
@[simp] theorem Lanes.has_not (a : Lanes) (p : Fin 64) : Lanes.has (~~~a) p = !a.has p := by
  simp [Lanes.has, p.isLt]
@[simp] theorem Lanes.has_zero (p : Fin 64) : Lanes.has 0#64 p = false := BitVec.getLsbD_zero

theorem Lanes.ne_zero {m : Lanes} (p : Fin 64) (h : m.has p = true) : m ≠ 0 := by
  intro e; subst e; simp at h

@[simp] theorem Lanes.mem_list (m : Lanes) (p : Fin 64) : p ∈ m.list ↔ m.has p = true := by
  simp [Lanes.list]

@[simp] theorem faultLanes_nil : faultLanes [] = 0 := by
  apply Lanes.ext_has; intro p; simp [faultLanes]

@[simp] theorem deliveriesOf_nil (site : Word) (wide : Bool) (acc : AccKind) : deliveriesOf site wide acc [] = [] := by
  simp [deliveriesOf]

/-! ### The issue -/

theorem State.ctxOf_group {s : State} {c gid : Fin 128} {x : Ctx} (h : s.ctxOf c gid = some x) :
    s.group x.c x.gid = some x.g ∧ s.team x.c x.g.team = some x.t ∧ s.grid x.t.grid = some x.grid ∧ x.c = c ∧ x.gid = gid
      ∧ x.g.issueAddr = some x.pc ∧ x.act = x.g.actAt x.pc ∧ teamHome x.c x.g.team x.t = (x.home, x.slot) := by
  unfold State.ctxOf at h
  split at h
  · cases h
  · split at h
    · split at h
      · cases h
      · cases h; simp_all
    · cases h

theorem Group.minLpc_mem {g : Group} {m : Lanes} {a : Word} (h : g.minLpc m = some a) : ∃ p, m.has p = true ∧ g.lpc.get p = a := by
  unfold Group.minLpc at h
  have gen : ∀ (l : List (Fin 64)) (acc : Option Word), (∀ p ∈ l, m.has p = true) →
      (∀ b, acc = some b → ∃ p, m.has p = true ∧ g.lpc.get p = b) →
      ∀ b, l.foldl (fun a p => match a with
        | none => some (g.lpc.get p)
        | some x => some (if (g.lpc.get p).toNat < x.toNat then g.lpc.get p else x)) acc = some b →
        ∃ p, m.has p = true ∧ g.lpc.get p = b := by
    intro l
    induction l with
    | nil => intro acc _ hacc b hb; exact hacc b hb
    | cons q qs ih =>
      intro acc hl hacc b hb
      simp only [List.foldl_cons] at hb
      refine ih _ (fun p hp => hl p (List.mem_cons_of_mem _ hp)) ?_ b hb
      intro b' hb'
      cases acc with
      | none => simp only [Option.some.injEq] at hb'; exact ⟨q, hl q List.mem_cons_self, hb'⟩
      | some y =>
        simp only [Option.some.injEq] at hb'
        split at hb'
        · exact ⟨q, hl q List.mem_cons_self, hb'⟩
        · subst hb'; exact hacc _ rfl
  exact gen m.list none (fun p hp => (Lanes.mem_list m p).mp hp) (fun b hb => by cases hb) a h

/-- ACT is never empty, and its lanes may issue and stand at the address. -/
theorem Ctx.act_mem {s : State} {c gid : Fin 128} {x : Ctx} (h : s.ctxOf c gid = some x) : ∃ p, x.act.has p = true := by
  obtain ⟨_, _, _, _, _, ha, hact, _⟩ := State.ctxOf_group h
  obtain ⟨p, hp, hl⟩ := Group.minLpc_mem ha
  exact ⟨p, by simp [hact, Group.actAt, hp, hl]⟩

theorem Ctx.act_issuing {s : State} {c gid : Fin 128} {x : Ctx} (h : s.ctxOf c gid = some x) {p : Fin 64} (hp : x.act.has p = true) :
    x.g.issuing.has p = true ∧ x.g.lpc.get p = x.pc := by
  obtain ⟨_, _, _, _, _, _, hact, _⟩ := State.ctxOf_group h
  rw [hact] at hp
  simpa [Group.actAt] using hp

theorem Group.issuing_running {g : Group} {p : Fin 64} (h : g.issuing.has p = true) :
    g.lst.get p = .running ∧ ((g.hmode = true ∧ g.hlanes.has p = true) ∨ (g.hmode = false ∧ g.dels = [])) := by
  simp only [Group.issuing, Lanes.has_ofFn, Bool.and_eq_true, beq_iff_eq] at h
  refine ⟨h.1, ?_⟩
  by_cases hm : g.hmode = true
  · left; simpa [hm] using h.2
  · right; simp only [Bool.not_eq_true] at hm; simpa [hm] using h.2

theorem State.byStream_group {s : State} {c gid : Fin 128} (h : s.cur = some (.group c gid)) : s.byStream = false := by
  unfold State.byStream; rw [h]

theorem State.Issues.ctx_eq {s : State} {x : Ctx} {ts us} (h : s.Issues x ts us) : s.ctx = some x := by
  unfold State.ctx; rw [h.cur]; exact h.ctx

/-- An instruction that nothing holds passes its gate. -/
theorem State.Issues.issue {s : State} {x : Ctx} {sh : Shape} (h : s.Issues x sh.toks sh.uses) (body : Ctx → State → State) :
    s.issue sh body = .next (body x s) := by
  unfold State.issue
  rw [State.byStream_group h.cur, h.ctx_eq]
  have h1 : (sh.toks.any fun r => x.g.tok.getLsbD r.val) = false := by
    simp only [List.any_eq_false]; intro r hr; rw [h.toks r hr]; exact Bool.false_ne_true
  have h2 : (x.g.busy.filter fun b => sh.uses.contains b.reg) = [] := by
    simp only [List.filter_eq_nil_iff]; intro b hb; simpa using h.uses b hb
  dsimp only
  rw [h2, h1]
  simp [h.sound]

theorem State.StreamIssues.byStream {s : State} {y : SCtx} {ts} (h : s.StreamIssues y ts) : s.byStream = true := by
  unfold State.byStream; rw [h.cur]

/-- An instruction of a stream that nothing holds passes its gate. -/
theorem State.StreamIssues.issue {s : State} {y : SCtx} {sh : Shape} (h : s.StreamIssues y sh.toks) (body : SCtx → State → State) :
    s.issueStream sh body = .next (body y s) := by
  unfold State.issueStream
  rw [h.ctx]
  have h1 : (sh.toks.any fun r => y.st.tok.getLsbD r.val) = false := by
    simp only [List.any_eq_false]; intro r hr; rw [h.toks r hr]; exact Bool.false_ne_true
  dsimp only
  rw [h1]
  rfl

/-! ### Settling -/

/-- The lanes counted in handler mode once those that have exited have left it (R302). -/
def Group.trimmed (g : Group) : Group := { g with hlanes := g.hlanes &&& (g.inState .running ||| g.inState .parked) }

@[simp] theorem Group.trimmed_lst (g : Group) : g.trimmed.lst = g.lst := rfl

theorem Group.freePassed_eq (g : Group) : g.freePassed = { g with mapped := g.freePassed.mapped, pendFree := g.freePassed.pendFree } := by
  unfold Group.freePassed
  dsimp only
  split <;> rfl

@[simp] theorem Group.freePassed_lst (g : Group) : g.freePassed.lst = g.lst := by rw [Group.freePassed_eq]
@[simp] theorem Group.freePassed_hlanes (g : Group) : g.freePassed.hlanes = g.hlanes := by rw [Group.freePassed_eq]
@[simp] theorem Group.freePassed_part (g : Group) : g.freePassed.part = g.part := by rw [Group.freePassed_eq]
@[simp] theorem Group.freePassed_dels (g : Group) : g.freePassed.dels = g.dels := by rw [Group.freePassed_eq]
@[simp] theorem Group.freePassed_uid (g : Group) : g.freePassed.uid = g.uid := by rw [Group.freePassed_eq]
@[simp] theorem Group.freePassed_v (g : Group) : g.freePassed.v = g.v := by rw [Group.freePassed_eq]
@[simp] theorem Group.freePassed_hmode (g : Group) : g.freePassed.hmode = g.hmode := by simp [Group.hmode]
@[simp] theorem Group.freePassed_inState (g : Group) (x : LState) : g.freePassed.inState x = g.inState x := by
  simp [Group.inState]

theorem Group.endLanes_inside {g : Group} {k n : Nat}
    (h : ∀ p, g.lst.get p = .running → (g.dels.any fun d => d.lanes.has p) = false →
      (g.lpc.get p).toNat ≠ if g.hlanes.has p then n else k) : g.endLanes k n = g := by
  unfold Group.endLanes
  dsimp only
  rw [if_pos]
  apply Lanes.ext_has
  intro p
  rw [Lanes.has_ofFn]
  show _ = Lanes.has 0#64 p
  rw [Lanes.has_zero]
  by_cases h1 : g.lst.get p = .running
  · by_cases h2 : (g.dels.any fun d => d.lanes.has p) = true
    · simp [h2]
    · simp [h p h1 (by simpa using h2)]
  · simp [h1]

theorem State.setGroup_setGroup (s : State) (c g : Fin 128) (x y : Option Group) :
    (s.setGroup c g x).setGroup c g y = s.setGroup c g y := by
  simp [State.setGroup, State.modCore]

/-- The end of a loan changes the loans alone. -/
theorem State.endLoan_loan (s : State) (c : Fin 128) (f : Core → List (Nat × Nat)) :
    ∃ l, (s.modCore c fun k => { k with loan := f k }).endLoan c = s.modCore c fun k => { k with loan := l } := by
  unfold State.endLoan
  dsimp only
  split
  · exact ⟨[], by simp [State.modCore]⟩
  · exact ⟨f (s.core c), by simp [State.modCore]⟩

theorem State.settleGo_nil (s : State) (c : Fin 128) (n : Nat) : s.settleGo c n [] = s := by cases n <;> rfl

/-- A group that does not exit settles alone. -/
theorem State.settleGo_one {s u : State} {c gid : Fin 128} {g : Group} {n : Nat} (hg : s.group c gid = some g)
    (h : s.settleOne c gid = (u, false)) : s.settleGo c (n + 1) [gid] = u := by
  unfold State.settleGo
  rw [hg, h]
  exact State.settleGo_nil u c n

/-- SETTLING A GROUP THAT GOES ON: some lane of it runs, none stands past the section, and no delivery waits to begin. -/
theorem State.settle_goes {s : State} {c gid : Fin 128} {g : Group} (hg : s.group c gid = some g) (p : Fin 64)
    (hr : g.lst.get p = .running) (hh : g.hmode = true ∧ g.hlanes.has p = true ∨ g.hmode = false ∧ g.dels = [])
    (he : g.endLanes (s.kernLen c g) (s.handLen c gid g) = g) :
    ∃ l, s.settle c gid = s.setCore c { s.core c with
      groups := (s.core c).groups.set gid (some g.freePassed.trimmed), loan := l } := by
  have hrun : (g.inState .running).has p = true := by simp [Group.inState, hr]
  have hdrop : (s.setGroup c gid (some g.freePassed)).dropHandler c gid = s.setGroup c gid (some g.freePassed.trimmed) := by
    unfold State.dropHandler
    simp only [State.group_setGroup_eq]
    rcases hh with ⟨h1, h2⟩ | ⟨h1, _⟩
    · have : g.freePassed.hlanes &&& (g.freePassed.inState .running ||| g.freePassed.inState .parked) ≠ 0 := by
        apply Lanes.ne_zero p; simp [h2, hrun]
      simp only [Group.freePassed_hmode, h1, if_true]
      rw [if_neg this, State.setGroup_setGroup]; rfl
    · have h0 : g.hlanes = 0 := by simpa [Group.hmode] using h1
      simp only [Group.freePassed_hmode, h1, Bool.false_eq_true, if_false]
      congr 2
      unfold Group.trimmed
      have : g.freePassed.hlanes &&& (g.freePassed.inState .running ||| g.freePassed.inState .parked) = g.freePassed.hlanes := by
        simp [h0]
      rw [this]
  have hpump : (s.setGroup c gid (some g.freePassed.trimmed)).pumpDeliveries c gid = s.setGroup c gid (some g.freePassed.trimmed) := by
    unfold State.pumpDeliveries
    simp only [State.group_setGroup_eq]
    rcases hh with ⟨h1, h2⟩ | ⟨_, h2⟩
    · have : g.freePassed.trimmed.hmode = true := by
        have : g.freePassed.trimmed.hlanes ≠ 0 := by
          apply Lanes.ne_zero p; simp [Group.trimmed, h2, hrun]
        exact bne_iff_ne.mpr this
      simp [this]
    · have : g.freePassed.trimmed.dels = [] := by simp [Group.trimmed, h2]
      simp [this]
  have hover : g.freePassed.trimmed.over = false := by
    have : g.freePassed.trimmed.inState .running ≠ 0 := by
      apply Lanes.ne_zero p; simp [Group.inState, hr]
    unfold Group.over
    rw [beq_eq_false_iff_ne.mpr this]
    simp
  have hne : g.freePassed.trimmed.inState .running ≠ 0 := by
    apply Lanes.ne_zero p; simp [Group.inState, hr]
  have hloan : ∀ (u : State) (n : Nat), u.group c gid = some g.freePassed.trimmed →
      ∃ l, u.returnLoan c gid n = u.modCore c fun k => { k with loan := l } := by
    intro u n hu
    unfold State.returnLoan
    rw [hu]
    dsimp only
    split
    · exact State.endLoan_loan _ _ _
    · refine ⟨(u.core c).loan, ?_⟩
      show u = u.setCore c (u.core c)
      simp
  obtain ⟨l, hl⟩ := hloan (s.setGroup c gid (some g.freePassed.trimmed)) (s.regCount c gid g) (by simp)
  refine ⟨l, ?_⟩
  unfold State.settle
  rw [State.settleGo_one (u := (s.setGroup c gid (some g.freePassed.trimmed)).modCore c fun k => { k with loan := l }) hg]
  · simp [State.setGroup, State.modCore]
  unfold State.settleOne
  rw [hg]
  dsimp only
  rw [he, hdrop, hpump, hl]
  have hgrp : ((s.setGroup c gid (some g.freePassed.trimmed)).modCore c fun k => { k with loan := l }).group c gid
      = some g.freePassed.trimmed := by
    simp [State.group, State.setGroup]
  rw [hgrp]
  simp only [hover, Bool.false_eq_true, if_false]
  rw [if_neg (fun e => hne e.1)]

/-! ### The end of an instruction -/

@[simp] theorem Ctx.retire_lst (x : Ctx) (sh : Shape) (g : Group) (next : Fin 64 → Word) (bad : Lanes) :
    (x.retire sh g next bad).lst = g.lst := rfl
@[simp] theorem Ctx.retire_hlanes (x : Ctx) (sh : Shape) (g : Group) (next : Fin 64 → Word) (bad : Lanes) :
    (x.retire sh g next bad).hlanes = g.hlanes := rfl
@[simp] theorem Ctx.retire_hmode (x : Ctx) (sh : Shape) (g : Group) (next : Fin 64 → Word) (bad : Lanes) :
    (x.retire sh g next bad).hmode = g.hmode := rfl
@[simp] theorem Ctx.retire_dels (x : Ctx) (sh : Shape) (g : Group) (next : Fin 64 → Word) (bad : Lanes) :
    (x.retire sh g next bad).dels = g.dels := rfl

theorem Ctx.retire_lpc {x : Ctx} {g : Group} (sh : Shape) (next : Fin 64 → Word) (h : g.lpc = x.g.lpc) :
    (x.retire sh g next 0).lpc = x.lpcAfter next := by
  unfold Ctx.retire Group.setLpc Ctx.lpcAfter
  apply Tab.ext_get
  intro p
  have : Lanes.has (x.act &&& ~~~(0 : Lanes)) p = x.act.has p := by
    rw [Lanes.has_and, Lanes.has_not]; show (_ && !Lanes.has 0#64 p) = _; simp
  simp only [Tab.get_ofFn, this, h]

/-- The lengths of the sections depend on the group by its team and its partition only, and not on what a group's place holds. -/
theorem State.kernLen_congr (s : State) (c : Fin 128) {g h : Group} (ht : h.team = g.team) : s.kernLen c h = s.kernLen c g := by
  unfold State.kernLen State.gridOf
  rw [ht]

theorem State.handLen_congr (s : State) (c gid : Fin 128) {g h : Group} (hp : h.part = g.part) :
    s.handLen c gid h = s.handLen c gid g := by
  unfold State.handLen State.bankOf
  rw [hp]

@[simp] theorem State.kernLen_setGroup (s : State) (c gid i : Fin 128) (x : Option Group) (g : Group) :
    (s.setGroup gid i x).kernLen c g = s.kernLen c g := by
  unfold State.kernLen State.gridOf
  simp only [State.team_setGroup, State.grid_setGroup]

@[simp] theorem State.handLen_setGroup (s : State) (c gid i : Fin 128) (x : Option Group) (g : Group) :
    (s.setGroup c i x).handLen c gid g = s.handLen c gid g := by
  unfold State.handLen State.bankOf
  simp [State.setGroup]

@[simp] theorem State.kernLen_idle (s : State) (c : Fin 128) (g : Group) (n : Int) :
    (s.modCore c fun k => { k with idleCount := n }).kernLen c g = s.kernLen c g := by
  unfold State.kernLen State.gridOf State.team
  simp

@[simp] theorem State.handLen_idle (s : State) (c gid : Fin 128) (g : Group) (n : Int) :
    (s.modCore c fun k => { k with idleCount := n }).handLen c gid g = s.handLen c gid g := by
  unfold State.handLen State.bankOf
  simp

/-- THE END OF AN INSTRUCTION that faults no lane, when some lane of its group runs on and none passes the end of the section: the
group is as the instruction left it, retired, its passed last reads freed, and the rest of the machine is as it was. -/
theorem State.finish_goes {s : State} {x : Ctx} (sh : Shape) {h : Group} {next : Fin 64 → Word}
    (ht : h.team = x.g.team) (hp : h.part = x.g.part) (hh : h.hlanes = x.g.hlanes) (hl : h.lpc = x.g.lpc) (p : Fin 64)
    (hr : h.lst.get p = .running) (hm : h.hmode = true ∧ h.hlanes.has p = true ∨ h.hmode = false ∧ h.dels = [])
    (hi : ∀ q, h.lst.get q = .running → (h.dels.any fun d => d.lanes.has q) = false →
      ((x.lpcAfter next).get q).toNat ≠ s.laneLen x.c x.gid x.g q) :
    s.Becomes x (x.retire sh h next 0).freePassed.trimmed (s.finish x sh h next []) := by
  unfold State.finish State.finishWith
  simp only [faultLanes_nil, deliveriesOf_nil]
  have hd : ∀ u : State, u.deliver x.c x.gid [] = u := by
    intro u; unfold State.deliver; split <;> rfl
  rw [hd]
  obtain ⟨l, hs⟩ := State.settle_goes (s := (s.setGroup x.c x.gid (some (x.retire sh h next 0))).modCore x.c fun k =>
      { k with idleCount := -1 }) (c := x.c) (gid := x.gid) (g := x.retire sh h next 0)
    (by simp [State.group, State.setGroup]) p hr hm (by
      apply Group.endLanes_inside
      intro q h1 h2
      rw [Ctx.retire_lpc sh next hl, State.kernLen_idle, State.kernLen_setGroup, State.handLen_idle, State.handLen_setGroup,
        State.kernLen_congr s x.c (g := x.g) (h := x.retire sh h next 0) ht,
        State.handLen_congr s x.c x.gid (g := x.g) (h := x.retire sh h next 0) hp, Ctx.retire_hlanes, hh]
      exact hi q h1 h2)
  rw [hs]
  exact ⟨l, by simp [State.setGroup, State.modCore]⟩

/-- The same for an instruction that leaves the lanes' states alone. -/
theorem State.finish_plain {s0 s : State} {x : Ctx} (sh : Shape) {h : Group} {next : Fin 64 → Word}
    (hx : s0.ctxOf x.c x.gid = some x) (ht : h.team = x.g.team) (hp : h.part = x.g.part) (hh : h.hlanes = x.g.hlanes)
    (hl : h.lpc = x.g.lpc) (hs : h.lst = x.g.lst) (hd : h.dels = x.g.dels) (hi : s.Inside x next) :
    s.Becomes x (x.retire sh h next 0).freePassed.trimmed (s.finish x sh h next []) := by
  obtain ⟨p, hp1⟩ := Ctx.act_mem hx
  obtain ⟨h1, h2⟩ := Group.issuing_running (Ctx.act_issuing hx hp1).1
  refine State.finish_goes sh ht hp hh hl p (by rw [hs]; exact h1) ?_ ?_
  · unfold Group.hmode; rw [hh, hd]; exact h2
  · intro q hq hq2
    exact hi q (by rw [← hs]; exact hq) (by rw [← hd]; exact hq2)

/-- What a group that an instruction left as `h` is after it. -/
theorem Ctx.leaves (x : Ctx) (sh : Shape) {h : Group} {next : Fin 64 → Word} (hl : h.lpc = x.g.lpc) :
    x.Leaves h (x.retire sh h next 0).freePassed.trimmed next sh.st := by
  unfold Ctx.Leaves
  rw [Group.freePassed_eq (x.retire sh h next 0)]
  have := Ctx.retire_lpc (x := x) sh next hl
  simp only [Group.trimmed]
  rw [← this]
  rfl

end Sys2Proof.Machine
end

