-- ==== Sys2Proof/Laws/Regs.lean ====
section
/-! SUPPORT. What lane registers read as after a write, a LAST mark and a passed last read (R55, R56). -/
namespace Sys2Proof.Machine

/-- A register with no pending free keeps what it reads as when passed last reads are freed. -/
theorem Group.readV_freePassed {g : Group} {r : Fin 64} (h : ∀ e ∈ g.pendFree, e.1 ≠ r) (p : Fin 64) :
    g.freePassed.readV r p = g.readV r p := by
  unfold Group.freePassed
  dsimp only
  split
  · rfl
  · rename_i lo _
    unfold Group.readV
    have gen : ∀ (l : List (Fin 64 × Word)) (m : BitVec 64), (∀ e ∈ l, e.1 ≠ r) →
        (l.foldl (fun m x => m &&& ~~~(1#64 <<< x.1.val)) m).getLsbD r.val = m.getLsbD r.val := by
      intro l
      induction l with
      | nil => intro m _; rfl
      | cons e es ih =>
        intro m hm
        rw [List.foldl_cons, ih _ (fun e he => hm e (List.mem_cons_of_mem _ he))]
        have hne : e.1.val ≠ r.val := fun q => hm e List.mem_cons_self (Fin.ext q)
        rw [BitVec.getLsbD_and, BitVec.getLsbD_not, BitVec.getLsbD_shiftLeft, BitVec.getLsbD_one]
        have h1 : r.val < 64 := r.isLt
        have h2 : (r.val < e.1.val) ∨ (r.val - e.1.val ≠ 0) := by omega
        rcases h2 with h2 | h2
        · simp [h2, h1]
        · simp [h2, h1]
    simp only [gen _ _ (fun e he => h e (List.mem_filter.mp he).1)]

@[simp] theorem Group.readV_trimmed (g : Group) (r p : Fin 64) : g.trimmed.readV r p = g.readV r p := rfl
@[simp] theorem Ctx.retire_readV (x : Ctx) (sh : Shape) (g : Group) (next : Fin 64 → Word) (bad : Lanes) (r p : Fin 64) :
    (x.retire sh g next bad).readV r p = g.readV r p := rfl
@[simp] theorem Ctx.retire_pendFree (x : Ctx) (sh : Shape) (g : Group) (next : Fin 64 → Word) (bad : Lanes) :
    (x.retire sh g next bad).pendFree = g.pendFree := rfl

theorem getLsbD_or_bit {m : BitVec 64} (d r : Fin 64) :
    (m ||| (1#64 <<< d.val)).getLsbD r.val = (m.getLsbD r.val || decide (d = r)) := by
  rw [BitVec.getLsbD_or, BitVec.getLsbD_shiftLeft, BitVec.getLsbD_one]
  have h1 : r.val < 64 := r.isLt
  by_cases h : d = r
  · subst h; simp [h1]
  · have h2 : d.val ≠ r.val := fun e => h (Fin.ext e)
    rcases Nat.lt_or_ge r.val d.val with h3 | h3
    · simp [h3, h]
    · have : r.val - d.val ≠ 0 := by omega
      simp [h, this]

/-- A register written: the lanes of `m` hold the new values, and the others what they read as before. -/
theorem Group.readV_writeV_eq (g : Group) (d : Fin 64) (m : Lanes) (f : Fin 64 → Word) (p : Fin 64) :
    (g.writeV d m f).readV d p = if m.has p then f p else g.readV d p := by
  unfold Group.readV Group.writeV
  rw [getLsbD_or_bit]
  simp only [decide_true, Bool.or_true, if_true, Tab.get_set_eq, Tab.get_ofFn]
  rfl

theorem Group.readV_writeV_ne (g : Group) {d r : Fin 64} (m : Lanes) (f : Fin 64 → Word) (p : Fin 64) (h : d ≠ r) :
    (g.writeV d m f).readV r p = g.readV r p := by
  unfold Group.readV Group.writeV
  rw [getLsbD_or_bit]
  simp [h, Tab.get_set_ne]

theorem Group.pendFree_writeV (g : Group) (d : Fin 64) (m : Lanes) (f : Fin 64 → Word) :
    (g.writeV d m f).pendFree = g.pendFree.filter fun e => e.1 != d := rfl

@[simp] theorem Group.readV_lastIf (g : Group) (a : Fin 64) (b : Bool) (site : Word) (r p : Fin 64) :
    (g.lastIf a b site).readV r p = g.readV r p := by
  unfold Group.lastIf Group.lastRead; split
  · split <;> rfl
  · rfl

theorem Group.pendFree_lastIf {g : Group} {a : Fin 64} {b : Bool} {site : Word} {e : Fin 64 × Word}
    (h : e ∈ (g.lastIf a b site).pendFree) : (b = true ∧ e.1 = a) ∨ e ∈ g.pendFree := by
  unfold Group.lastIf Group.lastRead at h
  split at h
  · split at h
    · rcases List.mem_cons.mp h with h | h
      · left; subst h; exact ⟨by assumption, rfl⟩
      · right; exact (List.mem_filter.mp h).1
    · exact Or.inr h
  · exact Or.inr h

/-- What LAST marks leave alone. -/
theorem Group.lastIf_eq (g : Group) (a : Fin 64) (b : Bool) (site : Word) :
    g.lastIf a b site = { g with pendFree := (g.lastIf a b site).pendFree } := by
  unfold Group.lastIf Group.lastRead; split
  · split <;> rfl
  · rfl

theorem Group.lastMixed_eq (g : Group) (b : Mixed) (lb : Bool) (site : Word) :
    g.lastMixed b lb site = { g with pendFree := (g.lastMixed b lb site).pendFree } := by
  cases b with
  | v r => exact Group.lastIf_eq g r lb site
  | s r => rfl

@[simp] theorem Group.readV_lastMixed (g : Group) (b : Mixed) (lb : Bool) (site : Word) (r p : Fin 64) :
    (g.lastMixed b lb site).readV r p = g.readV r p := by
  rw [Group.lastMixed_eq]; rfl

theorem Group.pendFree_lastMixed {g : Group} {b : Mixed} {lb : Bool} {site : Word} {e : Fin 64 × Word}
    (h : e ∈ (g.lastMixed b lb site).pendFree) : e.1 ∈ mixedLast b lb ∨ e ∈ g.pendFree := by
  cases b with
  | v r =>
    rcases Group.pendFree_lastIf (a := r) (b := lb) h with ⟨h1, h2⟩ | h
    · left; simp [mixedLast, lastOf, h1, h2]
    · exact Or.inr h
  | s r => exact Or.inr h

theorem Group.lastIf_pend (g : Group) (a : Fin 64) (b : Bool) (site : Word) :
    ∃ pf, g.lastIf a b site = { g with pendFree := pf } := ⟨_, Group.lastIf_eq g a b site⟩

theorem Group.lastMixed_pend (g : Group) (b : Mixed) (lb : Bool) (site : Word) :
    ∃ pf, g.lastMixed b lb site = { g with pendFree := pf } := ⟨_, Group.lastMixed_eq g b lb site⟩

theorem Group.lastBoth_pend (g : Group) (a : Fin 64) (b : Mixed) (la lb : Bool) (site : Word) :
    ∃ pf, (g.lastIf a la site).lastMixed b lb site = { g with pendFree := pf } := by
  obtain ⟨pf, h⟩ := Group.lastIf_pend g a la site
  obtain ⟨pf2, h2⟩ := Group.lastMixed_pend (g.lastIf a la site) b lb site
  exact ⟨pf2, by rw [h2, h]⟩

theorem Group.pendFree_lastBoth {g : Group} {a : Fin 64} {b : Mixed} {la lb : Bool} {site : Word} {e : Fin 64 × Word}
    (h : e ∈ ((g.lastIf a la site).lastMixed b lb site).pendFree) : e.1 ∈ lastOf a la ++ mixedLast b lb ∨ e ∈ g.pendFree := by
  rcases Group.pendFree_lastMixed h with h | h
  · exact Or.inl (List.mem_append_right _ h)
  · rcases Group.pendFree_lastIf h with ⟨h, h2⟩ | h
    · left; apply List.mem_append_left; simp [lastOf, h, h2]
    · exact Or.inr h

theorem Group.pendFree_lastOne {g : Group} {a : Fin 64} {la : Bool} {site : Word} {e : Fin 64 × Word}
    (h : e ∈ (g.lastIf a la site).pendFree) : e.1 ∈ lastOf a la ∨ e ∈ g.pendFree := by
  rcases Group.pendFree_lastIf h with ⟨h, h2⟩ | h
  · left; simp [lastOf, h, h2]
  · exact Or.inr h

end Sys2Proof.Machine
end

