-- ==== Sys2Proof/Laws/Lane.lean ====
section
/-! SUPPORT. What the shared operations of lane, mask and uniform instructions do when nothing holds them: the next state, whole. -/
namespace Sys2Proof.Machine

theorem State.withSlices_ok {s : State} {x : Ctx} {sh : Shape} {ds : List (Fin 64)} (k : State → State)
    (h : s.alloc x.c x.gid x.g x.t x.grid ds = .ok) : s.withSlices x sh ds k = k s := by
  unfold State.withSlices; rw [h]

theorem foldl_or_flags (l : List (Fin 64)) (f : Fin 64 → Flags) (a : Flags) :
    l.foldl (fun a p => a ||| f p) a = a ||| l.foldl (fun a p => a ||| f p) 0 := by
  induction l generalizing a with
  | nil => simp
  | cons p ps ih =>
    rw [List.foldl_cons, ih, List.foldl_cons, ih (0 ||| f p)]
    simp [BitVec.or_assoc]

/-- Lane registers after one register was written in the lanes of ACT and others were marked. -/
theorem Ctx.regs_one {x : Ctx} {sh : Shape} {h : Group} {next : Fin 64 → Word} {d : Fin 64} {m : Lanes} {f : Fin 64 → Word}
    {last : List (Fin 64)} {l : Group}
    (hl : ∀ r p, l.readV r p = x.g.readV r p) (hp : ∀ e ∈ l.pendFree, e.1 ∈ last ∨ e ∈ x.g.pendFree)
    (hw : ∀ r p, h.readV r p = (l.writeV d m f).readV r p) (hq : h.pendFree = (l.writeV d m f).pendFree) :
    x.Regs (x.retire sh h next 0).freePassed.trimmed m last [(d, f)] := by
  constructor
  · intro w hw1 p
    simp only [List.mem_singleton] at hw1
    subst hw1
    dsimp only
    rw [Group.readV_trimmed, Group.readV_freePassed, Ctx.retire_readV, hw, Group.readV_writeV_eq, hl]
    intro e he
    rw [Ctx.retire_pendFree, hq, Group.pendFree_writeV, List.mem_filter] at he
    simpa using he.2
  · intro r hr hr2 hr3 p
    simp only [List.map_cons, List.map_nil, List.mem_singleton] at hr
    rw [Group.readV_trimmed, Group.readV_freePassed, Ctx.retire_readV, hw, Group.readV_writeV_ne _ _ _ _ (Ne.symm hr), hl]
    intro e he
    rw [Ctx.retire_pendFree, hq, Group.pendFree_writeV, List.mem_filter] at he
    rcases hp e he.1 with h1 | h1
    · intro e2; exact hr2 (e2 ▸ h1)
    · exact hr3 e h1

/-- Lane registers after an instruction that writes none of them. -/
theorem Ctx.regs_none {x : Ctx} {sh : Shape} {h : Group} {next : Fin 64 → Word} {last : List (Fin 64)} (m : Lanes)
    (hl : ∀ r p, h.readV r p = x.g.readV r p) (hp : ∀ e ∈ h.pendFree, e.1 ∈ last ∨ e ∈ x.g.pendFree) :
    x.Regs (x.retire sh h next 0).freePassed.trimmed m last [] := by
  constructor
  · intro w hw; cases hw
  · intro r _ hr2 hr3 p
    rw [Group.readV_trimmed, Group.readV_freePassed, Ctx.retire_readV, hl]
    intro e he
    rw [Ctx.retire_pendFree] at he
    rcases hp e he with h1 | h1
    · intro e2; exact hr2 (e2 ▸ h1)
    · exact hr3 e h1

/-- A LANE INSTRUCTION with one destination that nothing holds: its destination written in the lanes of ACT, its flags raised. -/
theorem State.lane_completes {s : State} {x : Ctx} {i : Instr} {sh : Shape} {d : Fin 64} {last : Ctx → Group}
    {f : Ctx → Fin 64 → Word × Flags} {ls : List (Fin 64)} (he : exec i s = s.lane sh d last f)
    (h : s.Issues x sh.toks sh.uses) (ha : s.alloc x.c x.gid x.g x.t x.grid [d] = .ok) (hi : s.Inside x fun _ => x.pc + sh.len)
    (hl : ∃ pf, last x = { x.g with pendFree := pf }) (hp : ∀ e ∈ (last x).pendFree, e.1 ∈ ls ∨ e ∈ x.g.pendFree) :
    s.Completes s x i { x.g with xflags := x.g.xflags ||| x.raised fun p => (f x p).2 } (fun _ => x.pc + sh.len) sh.st
      x.act ls [(d, fun p => (f x p).1)] := by
  unfold State.Completes
  rw [he]
  unfold State.lane
  rw [h.issue, State.withSlices_ok _ ha]
  dsimp only
  obtain ⟨pf, hpf⟩ := hl
  generalize last x = l at hpf hp ⊢
  subst hpf
  exact ⟨_, _, rfl, State.finish_plain sh h.ctx rfl rfl rfl rfl rfl rfl hi, x.leaves sh rfl,
    Ctx.regs_one (l := { x.g with pendFree := pf }) (fun _ _ => rfl) hp (fun _ _ => rfl) rfl⟩

/-- The two-operand form. -/
theorem State.laneL_completes {s : State} {x : Ctx} {i : Instr} {st lat : Nat} {d a : Fin 64} {b : Mixed} {la lb old : Bool}
    {f : Word → Word → Word → Word × Flags} (he : exec i s = s.laneL st lat d a b la lb old f)
    (h : s.Issues x (mixedToks b) (keyV a :: mixedUses b ++ (if old then [keyV d] else [])))
    (ha : s.alloc x.c x.gid x.g x.t x.grid [d] = .ok) (hi : s.Inside x fun _ => x.pc + 4) :
    s.Completes s x i
      { x.g with xflags := x.g.xflags ||| x.raised fun p => (f (x.g.readV a p) (x.g.mixed b p) (x.g.readV d p)).2 }
      (fun _ => x.pc + 4) st x.act (lastOf a la ++ mixedLast b lb)
      [(d, fun p => (f (x.g.readV a p) (x.g.mixed b p) (x.g.readV d p)).1)] := by
  unfold State.laneL at he
  exact State.lane_completes
    (sh := ⟨true, st, mixedToks b, keyV a :: mixedUses b ++ (if old then [keyV d] else []), [(keyV d, lat)], .other⟩)
    (last := fun x => (x.g.lastIf a la x.pc).lastMixed b lb x.pc)
    (f := fun x p => f (x.g.readV a p) (x.g.mixed b p) (x.g.readV d p)) he h ha hi (Group.lastBoth_pend _ _ _ _ _ _) fun e h => Group.pendFree_lastBoth h

/-- The one-operand form. -/
theorem State.laneU_completes {s : State} {x : Ctx} {i : Instr} {st lat : Nat} {d a : Fin 64} {la : Bool} {f : Word → Word × Flags}
    (he : exec i s = s.laneU st lat d a la f) (h : s.Issues x [] [keyV a])
    (ha : s.alloc x.c x.gid x.g x.t x.grid [d] = .ok) (hi : s.Inside x fun _ => x.pc + 4) :
    s.Completes s x i { x.g with xflags := x.g.xflags ||| x.raised fun p => (f (x.g.readV a p)).2 }
      (fun _ => x.pc + 4) st x.act (lastOf a la) [(d, fun p => (f (x.g.readV a p)).1)] := by
  unfold State.laneU at he
  exact State.lane_completes (sh := ⟨true, st, [], [keyV a], [(keyV d, lat)], .other⟩)
    (last := fun x => x.g.lastIf a la x.pc) (f := fun x p => f (x.g.readV a p)) he h ha hi (Group.lastIf_pend _ _ _ _) fun e h => Group.pendFree_lastOne h

/-- The compact form. -/
theorem State.laneC_completes {s : State} {x : Ctx} {i : Instr} {lat : Nat} {d a : Fin 32} {last first : Bool}
    {f : Word → Word → Word × Flags} (he : exec i s = s.laneC lat d a last first f)
    (h : s.Issues x [] (keyV (smallV a) :: (if first then [keyV (smallV d)] else [])))
    (ha : s.alloc x.c x.gid x.g x.t x.grid [smallV d] = .ok) (hi : s.Inside x fun _ => x.pc + 2) :
    s.Completes s x i { x.g with xflags := x.g.xflags ||| x.raised fun p => (f (x.g.readV (smallV d) p) (x.g.readV (smallV a) p)).2 }
      (fun _ => x.pc + 2) 0 x.act (lastOf (smallV a) last)
      [(smallV d, fun p => (f (x.g.readV (smallV d) p) (x.g.readV (smallV a) p)).1)] := by
  unfold State.laneC at he
  exact State.lane_completes
    (sh := ⟨false, 0, [], keyV (smallV a) :: (if first then [keyV (smallV d)] else []), [(keyV (smallV d), lat)], .other⟩)
    (last := fun x => x.g.lastIf (smallV a) last x.pc)
    (f := fun x p => f (x.g.readV (smallV d) p) (x.g.readV (smallV a) p)) he h ha hi (Group.lastIf_pend _ _ _ _) fun e h => Group.pendFree_lastOne h

/-- AN INSTRUCTION THAT CHANGES ITS GROUP ALONE and writes no lane register. -/
theorem State.plain_completes {s : State} {x : Ctx} {i : Instr} {sh : Shape} {f : Ctx → State → Group} {h : Group}
    {ls : List (Fin 64)} (he : exec i s = s.plain sh f) (hs : s.Issues x sh.toks sh.uses) (hi : s.Inside x fun _ => x.pc + sh.len)
    (hf : ∃ pf, f x s = { h with pendFree := pf } ∧ ∀ e ∈ pf, e.1 ∈ ls ∨ e ∈ x.g.pendFree)
    (ht : h.team = x.g.team) (hp : h.part = x.g.part) (hh : h.hlanes = x.g.hlanes) (hl : h.lpc = x.g.lpc) (hst : h.lst = x.g.lst)
    (hd : h.dels = x.g.dels) (hv : h.v = x.g.v) (hm : h.mapped = x.g.mapped) (m : Lanes) :
    s.Completes s x i h (fun _ => x.pc + sh.len) sh.st m ls [] := by
  unfold State.Completes
  rw [he]
  unfold State.plain
  rw [hs.issue]
  obtain ⟨pf, hf, hpf⟩ := hf
  rw [hf]
  exact ⟨_, _, rfl, State.finish_plain sh hs.ctx ht hp hh hl hst hd hi, x.leaves sh hl,
    Ctx.regs_none m (fun r p => by unfold Group.readV; simp only [hv, hm]) hpf⟩

/-- A uniform instruction of a group. -/
theorem State.uniform_completes {s : State} {x : Ctx} {i : Instr} {st : Nat} {d : Fin 128} {srcs : List (Fin 128)}
    {f : (Fin 128 → DWord) → DWord} (he : exec i s = s.uniform st d srcs f) (h : s.Issues x (d :: srcs) (srcs.map keyS))
    (hi : s.Inside x fun _ => x.pc + 4) (m : Lanes) :
    s.Completes s x i { x.g with s := x.g.s.set d (f x.g.s.get) } (fun _ => x.pc + 4) st m [] [] := by
  unfold State.uniform at he
  rw [State.byStream_group h.cur] at he
  exact State.plain_completes (f := fun x _ => x.g.writeS d (f x.g.s.get))
    (h := { x.g with s := x.g.s.set d (f x.g.s.get) }) (ls := []) he h hi
    ⟨x.g.pendFree, rfl, fun e h => Or.inr h⟩ rfl rfl rfl rfl rfl rfl rfl rfl m

/-- A uniform instruction of a stream. -/
theorem State.uniform_stream {s : State} {y : SCtx} {i : Instr} {st : Nat} {d : Fin 128} {srcs : List (Fin 128)}
    {f : (Fin 128 → DWord) → DWord} (he : exec i s = s.uniform st d srcs f) (h : s.StreamIssues y (d :: srcs)) :
    s.StreamCompletes s y i { y.st with s := y.st.s.set d (f y.st.s.get) } (y.st.pc + 4) st := by
  unfold State.uniform at he
  unfold State.StreamCompletes
  rw [he, h.byStream]
  dsimp only
  rw [if_pos rfl, State.StreamIssues.issue (sh := ⟨true, st, d :: srcs, srcs.map keyS, [(keyS d, 2)], .other⟩) h]
  rfl

end Sys2Proof.Machine
end

