-- ==== Sys2Proof/Laws/Memory.lean ====
section
/-! SUPPORT. The canonical form of a memory: every operation keeps it, and what a byte reads as after a write. -/
namespace Sys2Proof.Machine

theorem Memory.sortedFrom_mono {lo hi : Nat} (h : lo ≤ hi) : ∀ {m : Memory}, m.sortedFrom hi = true → m.sortedFrom lo = true
  | [], _ => rfl
  | (a, b) :: rest, hm => by
    simp only [Memory.sortedFrom, Bool.and_eq_true, decide_eq_true_eq] at hm ⊢
    exact ⟨⟨Nat.le_trans h hm.1.1, hm.1.2⟩, hm.2⟩

theorem Memory.sortedFrom_set {x : Nat} {b : Byte} : ∀ {lo : Nat} {m : Memory}, lo ≤ x → m.sortedFrom lo = true →
    (m.set x b).sortedFrom lo = true
  | lo, [], hx, _ => by
    unfold Memory.set
    split <;> simp_all [Memory.sortedFrom]
  | lo, (a, c) :: rest, hx, hm => by
    simp only [Memory.sortedFrom, Bool.and_eq_true, decide_eq_true_eq] at hm
    unfold Memory.set
    split
    · split
      · simp only [Memory.sortedFrom, Bool.and_eq_true, decide_eq_true_eq]; exact hm
      · simp only [Memory.sortedFrom, Bool.and_eq_true, decide_eq_true_eq]
        exact ⟨⟨hx, by assumption⟩, ⟨by omega, hm.1.2⟩, hm.2⟩
    · split
      · subst_vars
        split
        · exact Memory.sortedFrom_mono (by omega) hm.2
        · simp only [Memory.sortedFrom, Bool.and_eq_true, decide_eq_true_eq]
          exact ⟨⟨hx, by assumption⟩, hm.2⟩
      · simp only [Memory.sortedFrom, Bool.and_eq_true, decide_eq_true_eq]
        exact ⟨hm.1, Memory.sortedFrom_set (by omega) hm.2⟩

/-- A write of a byte keeps the canonical form. -/
theorem Memory.wf_set {m : Memory} (h : m.wf = true) (x : Nat) (b : Byte) : (m.set x b).wf = true :=
  Memory.sortedFrom_set (Nat.zero_le x) h

/-- A write of bytes keeps the canonical form. -/
theorem Memory.wf_store : ∀ {m : Memory} (bs : List Byte) (a : Nat), m.wf = true → (m.store a bs).wf = true
  | _, [], _, h => h
  | _, b :: bs, a, h => Memory.wf_store bs (a + 1) (Memory.wf_set h a b)

/-- A write of a field keeps the canonical form. -/
theorem Memory.wf_putNum {m : Memory} (h : m.wf = true) (a n v : Nat) : (m.putNum a n v).wf = true := Memory.wf_store _ a h

theorem Memory.sortedFrom_filter (f : Host.Cell → Bool) : ∀ {lo : Nat} {m : Memory}, m.sortedFrom lo = true →
    Memory.sortedFrom lo (m.filter f) = true
  | _, [], _ => rfl
  | lo, (a, b) :: rest, h => by
    simp only [Memory.sortedFrom, Bool.and_eq_true, decide_eq_true_eq] at h
    rw [List.filter_cons]
    split
    · simp only [Memory.sortedFrom, Bool.and_eq_true, decide_eq_true_eq]
      exact ⟨h.1, Memory.sortedFrom_filter f h.2⟩
    · exact Memory.sortedFrom_mono (by omega) (Memory.sortedFrom_filter f h.2)

/-- Bytes set to 0 keep the canonical form. -/
theorem Memory.wf_clear {m : Memory} (h : m.wf = true) (a n : Nat) : (m.clear a n).wf = true := Memory.sortedFrom_filter _ h

/-- The empty memory is in canonical form. -/
@[simp] theorem Memory.wf_nil : Memory.wf [] = true := rfl

theorem Memory.get_below {x : Nat} : ∀ {lo : Nat} {m : Memory}, m.sortedFrom lo = true → x < lo → m.get x = 0
  | _, [], _, _ => rfl
  | lo, (a, b) :: rest, h, hx => by
    simp only [Memory.sortedFrom, Bool.and_eq_true, decide_eq_true_eq] at h
    have h1 : x ≠ a := by omega
    have h2 : x < a := by omega
    simp [Memory.get, h1, h2]

theorem Memory.get_set_sorted {x y : Nat} {b : Byte} : ∀ {lo : Nat} {m : Memory}, m.sortedFrom lo = true →
    (m.set x b).get y = if y = x then b else m.get y
  | _, [], _ => by
    unfold Memory.set
    split <;> rename_i hb
    · subst hb; simp [Memory.get]
    · simp [Memory.get]
  | lo, (a, c) :: rest, h => by
    simp only [Memory.sortedFrom, Bool.and_eq_true, decide_eq_true_eq] at h
    unfold Memory.set
    split <;> rename_i h1
    · split <;> rename_i hb
      · subst hb
        by_cases hy : y = x
        · subst hy
          have : y ≠ a := by omega
          simp [Memory.get, this, h1]
        · simp [hy]
      · by_cases hy : y = x
        · subst hy; simp [Memory.get]
        · by_cases hlt : y < x
          · have h3 : y ≠ a := by omega
            have h4 : y < a := by omega
            simp [Memory.get, hy, hlt, h3, h4]
          · simp [Memory.get, hy, hlt]
    · split <;> rename_i h2
      · subst h2
        by_cases hy : y = x
        · subst hy
          split <;> rename_i hb
          · subst hb; simpa using Memory.get_below h.2 (by omega)
          · simp [Memory.get]
        · split
          · by_cases hlt : y < x
            · simp [Memory.get, hy, hlt, Memory.get_below h.2 (show y < x + 1 by omega)]
            · simp [Memory.get, hy, hlt]
          · simp [Memory.get, hy]
      · have ih := Memory.get_set_sorted (x := x) (y := y) (b := b) h.2
        by_cases hya : y = a
        · subst hya
          have : y ≠ x := fun e => h2 e.symm
          simp [Memory.get, this]
        · by_cases hlt : y < a
          · have : y ≠ x := by omega
            simp [Memory.get, hya, hlt, this]
          · simp [Memory.get, hya, hlt, ih]

/-- A byte read after a write: the byte written there, and what stood there elsewhere. -/
theorem Memory.get_set {m : Memory} (h : m.wf = true) (x y : Nat) (b : Byte) :
    (m.set x b).get y = if y = x then b else m.get y := Memory.get_set_sorted h

theorem Memory.get_set_eq {m : Memory} (h : m.wf = true) (x : Nat) (b : Byte) : (m.set x b).get x = b := by
  simp [Memory.get_set h]

theorem Memory.get_set_ne {m : Memory} (h : m.wf = true) {x y : Nat} (b : Byte) (hn : y ≠ x) : (m.set x b).get y = m.get y := by
  simp [Memory.get_set h, hn]

/-- Bytes outside a store read as before. -/
theorem Memory.get_store_out : ∀ {m : Memory} (bs : List Byte) (a y : Nat), m.wf = true → (y < a ∨ a + bs.length ≤ y) →
    (m.store a bs).get y = m.get y
  | _, [], _, _, _, _ => rfl
  | m, b :: bs, a, y, h, hy => by
    simp only [List.length_cons] at hy
    show ((m.set a b).store (a + 1) bs).get y = m.get y
    rw [Memory.get_store_out bs (a + 1) y (Memory.wf_set h a b) (by omega), Memory.get_set_ne h b (by omega)]

/-- Bytes inside a store read as they were written. -/
theorem Memory.get_store_in : ∀ {m : Memory} (bs : List Byte) (a i : Nat), m.wf = true → (hi : i < bs.length) →
    (m.store a bs).get (a + i) = bs[i]
  | m, b :: bs, a, 0, h, _ => by
    show ((m.set a b).store (a + 1) bs).get a = b
    rw [Memory.get_store_out bs (a + 1) a (Memory.wf_set h a b) (by omega), Memory.get_set_eq h]
  | m, b :: bs, a, i + 1, h, hi => by
    have := Memory.get_store_in bs (a + 1) i (Memory.wf_set h a b) (by simpa using hi)
    show ((m.set a b).store (a + 1) bs).get (a + (i + 1)) = _
    rw [show a + (i + 1) = a + 1 + i by omega, this]; rfl

/-- Little-endian bytes hold the natural they were made from. -/
theorem leNat_leBytes : ∀ (n v : Nat), leNat (leBytes n v) = v % 256 ^ n
  | 0, v => by simp [leBytes, leNat, Nat.mod_one]
  | n + 1, v => by
    rw [leBytes, leNat, leNat_leBytes n (v / 256), Nat.pow_succ, BitVec.toNat_ofNat]
    rw [Nat.mul_comm (256 ^ n) 256, Nat.mod_mul]

@[simp] theorem length_leBytes : ∀ (n v : Nat), (leBytes n v).length = n
  | 0, _ => rfl
  | n + 1, v => by simp [leBytes, length_leBytes n]

/-- Reset memory is in canonical form. -/
theorem State.reset_mem_wf : State.reset.mem.wf = true := rfl

end Sys2Proof.Machine
end

