-- ==== Sys2Proof/Tests/Slice0.lean ====
section
/-! SUPPORT. Tests: the checks of well-formedness, the encodings that the specification works out, its worked values, and for each
statement for the provers a state and operands that meet its hypotheses. -/
set_option Elab.async false
namespace Sys2Proof.Tests
open Sys2Proof Sys2Proof.Machine Sys2Proof.Certificates

/-! ### Well-formedness: an ill-formed term for each check -/

theorem test_last_on_uniform : (Instr.iadd 1 2 (.s 3) false true 0).wellFormed = false := by decide
theorem test_pair_destination : (Instr.iadd64 1 2 (.v 4) false false 0).wellFormed = false := by decide
theorem test_pair_source : (Instr.iadd64 2 3 (.v 4) false false 0).wellFormed = false := by decide
theorem test_pair_mixed : (Instr.iadd64 2 4 (.v 5) false false 0).wellFormed = false := by decide
theorem test_pair_last : (Instr.iadd64 2 4 (.s 5) false true 0).wellFormed = false := by decide
theorem test_wide_pair : (Instr.pldw false 1 0 0 false 0).wellFormed = false := by decide
theorem test_wide_quad : (Instr.pstw true 2 0 0 false false 0).wellFormed = false := by decide
theorem test_cas_pair : (Instr.patom .cas .rlx 1 0 false 0).wellFormed = false := by decide
theorem test_relaxed_scope : (Instr.qld 0 false .grp 0 false 0).wellFormed = false := by decide
theorem test_copy_block : (Instr.cpy 0 0 2 false 0).wellFormed = false := by decide
theorem test_record_registers : (Instr.wqpop 4 0 0).wellFormed = false := by decide
theorem test_sparse_tile : (Instr.mmas 1 0 0 0).wellFormed = false := by decide
theorem test_uniform_run : (Instr.fork 127 false 0).wellFormed = false := by decide
theorem test_well_formed : (Instr.fork 126 false 0).wellFormed = true := by decide

/-! ### Encodings

Each word is worked out bit by bit in the specification (files 06 to 11). -/

theorem test_decode_uniform : decode32 0x8A1C8063 = .ok (.sadd 100 3 70 1) ∧ decode32 0x04880401 = .ok (.sli 2 0x1100 0) ∧
    decode32 0x04800441 = .ok (.slih 2 0x1000 0) ∧ decode32 0x0008A361 = .ok (.scmp 5 1 2 0) := ⟨rfl, rfl, rfl, rfl⟩
theorem test_decode_unary : decode32 0x110063D1 = .ok (.setwImm 3 32 0) ∧ decode32 0x100083E1 = .ok (.getw 4 0) ∧
    decode32 0x200023C1 = .ok (.tid 1 0) ∧ decode32 0x300123E1 = .ok (.xfrd 9 0) ∧ decode32 0x31F803F1 = .ok (.xfclr 0x3F 0) :=
  ⟨rfl, rfl, rfl, rfl, rfl⟩
theorem test_decode_control : decode32 0xFF80A641 = .ok (.bru 0x1FF0 5 false 0) ∧ decode32 0x000C0741 = .ok (.call 0x180 0) ∧
    decode32 0x003007A1 = .ok (.calli 6 true 0) ∧ decode32 0x000067C1 = .ok (.ret 0) ∧ decode32 0x210087C1 = .ok (.trap 0x21 0) ∧
    decode32 0x00000701 = .ok (.lenter 0 0) ∧ decode32 0x000047C1 = .ok (.exit 0) := ⟨rfl, rfl, rfl, rfl, rfl, rfl, rfl⟩
theorem test_decode_privileged : decode32 0x001105C1 = .ok (.xlinv 8 0) ∧ decode32 0x440865C1 = .ok (.crw 3 0x110 0) ∧
    decode32 0x4C8865C1 = .ok (.crw 3 0x132 0) := ⟨rfl, rfl, rfl⟩
theorem test_decode_lane : decode32 0x82000801 = .ok (.iadd 0 0 (.s 1) false false 0) ∧
    decode32 0x86308981 = .ok (.iadd64 4 6 (.s 3) false false 0) ∧ decode32 0x10806E01 = .ok (.isel 3 2 (.v 8) false 0) ∧
    decode32 0x1418EDC1 = .ok (.fclass 7 3 false 0) ∧ decode32 0x6010D2C1 = .ok (.cvtNarrow 3 6 2 false 0) ∧
    decode32 0x0A085301 = .ok (.cvti .rz true 2 1 false 0) ∧ decode32 0x021115C1 = .ok (.redaddF32 8 2 false 0) :=
  ⟨rfl, rfl, rfl, rfl, rfl, rfl, rfl⟩
theorem test_decode_mask : decode32 0x0A0A4F01 = .ok (.fcmp 2 .lt 1 (.v 5) false false 0) ∧
    decode32 0x88014EC1 = .ok (.icmpN32 1 .lt 0 (.s 4) false false 0) ∧ decode32 0x00190F41 = .ok (.vote 1 3 false 0) ∧
    decode32 0x00530F81 = .ok (.kand 3 1 2 0) ∧ decode32 0x0A40AF81 = .ok (.kpopc 5 1 0) := ⟨rfl, rfl, rfl, rfl, rfl⟩
theorem test_decode_pool : decode32 0x0810B601 = .ok (.pld 5 2 4 false 0) ∧ decode32 0xFE10B651 = .ok (.pst 5 2 0x7F false true 0) ∧
    decode32 0x0C109701 = .ok (.patom .addN32 .ar 4 2 false 0) ∧ decode32 0x20801741 = .ok (.bard 2 0) ∧
    decode32 0x80009761 = .ok (.fence .rel .die 0) := ⟨rfl, rfl, rfl, rfl, rfl⟩
theorem test_decode_queue : decode32 0x32181801 = .ok (.qld 1 true .die 3 false 0) ∧
    decode32 0x9A311E31 = .ok (.qatom .cas .ar .dev 0 6 8 0) ∧ decode32 0x2000F8C1 = .ok (.qpop 7 1 0) ∧
    decode32 0x400018D1 = .ok (.qwait 2 0 0) := ⟨rfl, rfl, rfl, rfl⟩
theorem test_decode_copy : decode32 0x10207941 = .ok (.cpyg 3 4 8 false 0) ∧ decode32 0x00111A01 = .ok (.wqpop 8 2 0) := ⟨rfl, rfl⟩
theorem test_decode_matrix : decode32 0x20141A41 = .ok (.tcfg 2 10 0) ∧ decode32 0x00183A41 = .ok (.tld 0 12 0) ∧
    decode32 0x31009A41 = .ok (.ttrn 3 1 0) ∧ decode32 0x0020BA41 = .ok (.scld 16 0) ∧ decode32 0x0128DA41 = .ok (.mma 0 1 20 0) ∧
    decode32 0x00291A41 = .ok (.accz 20 0) ∧ decode32 0x02315A41 = .ok (.accst 2 24 0) ∧ decode32 0x000B7A51 = .ok (.mfrd 5 true 0) ∧
    decode32 0x003D9A41 = .ok (.fork 30 false 0) ∧ decode32 0x0001BA41 = .ok (.rdv 0) ∧ decode32 0x0001DA41 = .ok (.mend 0) :=
  ⟨rfl, rfl, rfl, rfl, rfl, rfl, rfl, rfl, rfl, rfl, rfl⟩

/-- A compact parcel by R133: LAST in [15], A in [14:10], D in [9:5], COP in [4:1], so IADD (COP 1) of V3 and V2, marked last. -/
theorem test_decode_compact : decode16 0b1000100001100010 = .iaddCompact 3 2 true := rfl
/-- R142: an unassigned opcode, an unassigned SUB, a reserved field, K7 as a destination, and a parcel cut off are rejected by name. -/
theorem test_decode_refused : decode32 0x00001AC1 = .error .unassignedOp ∧ decode32 0x0001FA41 = .error .unassignedSub ∧
    decode32 0x800003C1 = .error .unassignedSub ∧ decode32 0x0101BA41 = .error .reservedField ∧
    decode32 0x001F0F41 = .error .maskK7 ∧ decodeBytes [0x01] = .error .straddle ∧ decodeBytes [0x01, 0x00] = .error .straddle := by
  refine ⟨rfl, rfl, rfl, rfl, rfl, rfl, rfl⟩

/-! ### Values that the specification works out -/

/-- R85 to R87, the example of file 04: 0.3 and 250.0 into K8P4SF, and 250.0 into K8P4SE, whose descriptor sets OVF. -/
theorem test_convert_nearest : narrow 0x00060C84 (p3109 8 4 true false) 0x3E99999A = (0x32, 0b010000) := by decide +kernel
theorem test_convert_saturates : (narrow 0x00060C84 (p3109 8 4 true false) 0x437A0000).1 = 0x7F := by decide +kernel
theorem test_widen : widen (p3109 8 4 true false) 0x7F = (0x43700000, 0) := by decide +kernel
/-- R210, the example of file 09: PK8.E2 puts 0x7F into element 2. -/
theorem test_pack : putElem 0x11223344 8 2 0x7F = 0x117F3344 := by decide
/-- R20, the example of file 01: the tree reduces 1.0e8, 1.0, -1.0e8, 1.0 to +0. -/
theorem test_reduce_tree : ((treeNode f32AddF (fun i => some (if i = 0 then 0x4CBEBC20 else if i = 1 then 0x3F800000 else if i = 2 then 0xCCBEBC20
    else if i = 3 then 0x3F800000 else 0)) 6 0).map Prod.fst) = some 0 := by decide +kernel
/-- R217, the example of file 09: lane 19 of the scan is +0, which the order of lanes would not give. -/
theorem test_scan : (scanFold f32AddF (fun i => some (if i = 0 then 0x4CBEBC20 else if i = 16 then 0x3F800000 else if i = 17 then 0xCCBEBC20
    else if i = 18 then 0x3F800000 else 0)) 20 64 0 (0x80000000, 0)).1 = 0 := by decide +kernel
/-- R90, the example of file 04: the two blocks of element (0, 0) give 2^24, with NX; one rounding of the whole sum would not. -/
theorem test_block_sum :
    let code (c : Nat) := (p3109 8 4 true false).decode c
    Product.element ⟨1, 1, 2, 0, fun _ b => code (if b = 0 then 0x78 else 0x40), fun _ b => code (if b = 0 then 0x78 else 0x40), fun _ _ b =>
      if b = 0 then [(code 0x68, code 0x68), (code 0x08, code 0x08)] else [(code 0x40, code 0x40)]⟩ 0 0 (0, 0) = (0x4B800000, 0b010000) := by
  decide +kernel
/-- R96, R123: SLI placed where the next step fetches runs, and S2 holds 0x1100 (file 08's example). -/
theorem test_step_sli : (match step (State.reset.withFetchWord 32 0x04880401) with
    | .next t => (t.group 0 0).map fun g => (g.s.get 2, g.lpc.get 63)
    | _ => none) = some (0x1100, 4) := by decide +kernel
/-- The SHA-512 of no bytes begins CF83E135 (FIPS 180-4; log entry on digests). -/
theorem test_digest : (sha512 []).take 4 = [0xCF, 0x83, 0xE1, 0x35] := by decide +kernel

/-! ### States for the hypotheses

Core 0 holds one group of 64 running lanes at offset 0 of the kernel of `placedKern`, which issues next. -/

def young : Group := { Group.fresh with priv := true }
def base : State := { State.reset.placeCode [] with cur := some (.group 0 0), agenda := [] }
/-- The same with its group, its grid or its core changed. -/
def placed (g : Group) (t : Team) (f : Core → Core) : State :=
  base.modCore 0 fun k => { f k with groups := k.groups.set 0 (some g), teams := k.teams.set 0 (some t) }
def withGroup (g : Group) : State := placed g placedTeam id
def withGrid (g : Grid) : State := { base with grids := [g] }
def withCore (f : Core → Core) : State := base.modCore 0 f
/-- What a group of core 0's slot 0 sees whose 64 lanes stand at offset 0. -/
def here (g : Group) (t : Team) (gr : Grid) : Ctx := ⟨0, 0, g, t, 0, 0, gr, 0, BitVec.allOnes 64⟩
def bx : Ctx := here young placedTeam placedGrid
/-- The group's lanes run at offset 0, and nothing is due to it. -/
def Fresh (g : Group) : Prop := g.lst = young.lst ∧ g.lpc = young.lpc ∧ g.hlanes = 0 ∧ g.dels = [] ∧ g.team = 0 ∧ g.tok = 0 ∧ g.busy = []
/-- It is on core 0 with its team and grid. -/
def At (s : State) (g : Group) (t : Team) (gr : Grid) : Prop :=
  s.cur = some (.group 0 0) ∧ s.group 0 0 = some g ∧ s.team 0 0 = some t ∧ s.grid t.grid = some gr ∧ t.odd = false ∧ s.regsSound 0 t = true ∧ Fresh g

theorem regs_sound {s : State} {c : Fin 128} {t : Team} (hm : s.marks = []) (ha : (s.die (dieOf c)).errinj.toNat = 0) :
    s.regsSound c t = true := by
  simp [State.regsSound, State.regMarks, State.regArmed, hm, ha, field]
theorem all_has (p : Fin 64) : Lanes.has (BitVec.allOnes 64) p = true := by revert p; decide +kernel
theorem young_issueAddr : young.issueAddr = some 0 := by decide +kernel
theorem young_actAt : young.actAt 0 = BitVec.allOnes 64 := by decide +kernel
theorem fresh_issuing {g : Group} (h : Fresh g) : g.issuing = young.issuing := by
  obtain ⟨h1, -, h3, h4, -⟩ := h
  simp [Group.issuing, Group.hmode, h1, h3, h4, young, Group.fresh]
theorem here_ctx {s : State} {g : Group} {t : Team} {gr : Grid} (h : At s g t gr) : s.ctxOf 0 0 = some (here g t gr) := by
  obtain ⟨-, hg, ht, hr, ho, -, hf⟩ := h
  have hi := fresh_issuing hf
  obtain ⟨-, h2, -, -, h5, -, -⟩ := hf
  have ha : g.issueAddr = some 0 := by
    rw [← young_issueAddr, Group.issueAddr, Group.issueAddr, hi]; simp only [Group.minLpc, h2]
  have hact : g.actAt 0 = BitVec.allOnes 64 := by
    rw [← young_actAt, Group.actAt, Group.actAt, hi, h2]
  simp only [State.ctxOf, hg, h5, ht, ha, hr, teamHome, ho, hact]
  rfl
theorem here_issues {s : State} {g : Group} {t : Team} {gr : Grid} (h : At s g t gr) (toks : List (Fin 128)) (uses : List Nat) :
    s.Issues (here g t gr) toks uses where
  cur := h.1
  ctx := here_ctx h
  toks := by simp [here, h.2.2.2.2.2.2.2.2.2.2.2.1]
  uses := by simp [here, h.2.2.2.2.2.2.2.2.2.2.2.2]
  sound := h.2.2.2.2.2.1
theorem here_inside {s : State} {g : Group} {t : Team} {gr : Grid} (h : At s g t gr) {next : Fin 64 → Word}
    (hn : ∀ p, (next p).toNat ≠ gr.kern.len) : s.Inside (here g t gr) next := by
  obtain ⟨-, -, ht, hr, -, -, -, -, h3, -, h5, -⟩ := h
  intro p _ _
  have hl : s.laneLen 0 0 g p = gr.kern.len := by
    simp [State.laneLen, State.kernLen, State.gridOf, h3, h5, ht, hr, Lanes.has]
  simp only [Ctx.lpcAfter, Tab.get_ofFn]
  show (if Lanes.has (BitVec.allOnes 64) p = true then next p else g.lpc.get p).toNat ≠ s.laneLen 0 0 g p
  rw [if_pos (all_has p), hl]
  exact hn p

theorem fresh_young : Fresh young := ⟨rfl, rfl, rfl, rfl, rfl, rfl, rfl⟩
theorem base_at : At base young placedTeam placedGrid := ⟨rfl, rfl, rfl, rfl, rfl, regs_sound rfl rfl, fresh_young⟩
theorem base_issues (toks : List (Fin 128)) (uses : List Nat) : base.Issues bx toks uses := here_issues base_at _ _
theorem base_inside {next : Fin 64 → Word} (hn : ∀ p, (next p).toNat ≠ 0x10000) : base.Inside bx next := here_inside base_at hn
theorem base_next : base.Inside bx fun _ => bx.pc + 4 := base_inside fun _ => by decide

/-- The same core with a stream of its matrix sequencer issuing. -/
def idleStream : Stream :=
  ⟨1, 0, 0, Tab.replicate 128 0, 0, Tab.replicate 64 0, Tab.replicate 16 .notArrived, none, 0, 0, none, false, false, none, false⟩
def streaming (st : Stream) (gr : Grid) : State :=
  { base.modCore 0 fun k => { k with matrixStream := some st } with cur := some (.stream 0 false), grids := [gr] }
def hereS (st : Stream) (gr : Grid) : SCtx := ⟨0, false, st, placedTeam, 0, 0, gr⟩
theorem stream_issues {s : State} {st : Stream} {gr : Grid} (hc : s.cur = some (.stream 0 false)) (hs : s.sctx = some (hereS st gr))
    (ht : st.tok = 0) (toks : List (Fin 128)) : s.StreamIssues (hereS st gr) toks := ⟨hc, hs, by simp [hereS, ht]⟩
def bs : State := streaming idleStream placedGrid
def bsx : SCtx := hereS idleStream placedGrid
theorem bs_issues (toks : List (Fin 128)) : bs.StreamIssues bsx toks := stream_issues rfl rfl rfl _

/-! ### Lane, mask and uniform instructions -/

theorem witness_LaneIntegerResult :
    (∃ row, laneInt (.iadd 63 0 (.s 63) false false 7) = some row ∧ LaneRow.Runs row base bx) ∧
    (∃ row, laneInt (.leaCompact 31 31 true) = some row ∧ LaneRow.Runs row base bx) ∧
    (∃ row, laneIdentity (.team 63 2 0) = some row ∧ LaneRow.Runs row base bx) ∧
    base.Issues bx (mixedToks (.s 63)) [keyV 62, keyV (nextV 62 1)] ∧
    base.alloc bx.c bx.gid bx.g bx.t bx.grid [62, nextV 62 1] = .ok ∧ base.Inside bx fun _ => bx.pc + 4 :=
  ⟨⟨_, rfl, base_issues _ _, by decide +kernel, base_next⟩,
    ⟨_, rfl, base_issues _ _, by decide +kernel, base_inside fun _ => by decide⟩,
    ⟨_, rfl, base_issues _ _, by decide +kernel, base_next⟩, base_issues _ _, by decide +kernel, base_next⟩
theorem witness_LaneFloatResult : ∃ row, laneFloat (.ffma 63 0 (.v 63) true true 7) = some row ∧ LaneRow.Runs row base bx :=
  ⟨_, rfl, base_issues _ _, by decide +kernel, base_next⟩
theorem witness_LaneCrossResult : ∃ row, laneCross (.shfl 63 0 (.s 63) false false 7) = some row ∧ LaneRow.Runs row base bx :=
  ⟨_, rfl, base_issues _ _, by decide +kernel, base_next⟩
/-- Slot 7 holds K8P4SF in the first state, and no format in the second. -/
def slotGrid : Grid := { placedGrid with fmt := Tab.replicate 8 0x00060C84 }
theorem slot_at : At (withGrid slotGrid) young placedTeam slotGrid := ⟨rfl, rfl, rfl, rfl, rfl, regs_sound rfl rfl, fresh_young⟩
theorem witness_LaneSlotResult :
    (∃ row F, laneSlot (.pk8 7 3 63 0 false 0) = some row ∧ slotFmt (slotGrid.fmt.get row.fs) = some F ∧
      row.accepts (slotGrid.fmt.get row.fs) = true ∧
      LaneRow.Runs (row.row (slotGrid.fmt.get row.fs) F) (withGrid slotGrid) (here young placedTeam slotGrid)) ∧
    ∃ row, laneSlot (.cvtWiden 7 63 0 false 0) = some row ∧ slotFmt (bx.grid.fmt.get row.fs) = none ∧
      base.Issues bx (row.row (bx.grid.fmt.get row.fs) binary32).toks (row.row (bx.grid.fmt.get row.fs) binary32).uses :=
  ⟨⟨_, _, rfl, rfl, by decide +kernel, here_issues slot_at _ _, by decide +kernel, here_inside slot_at fun _ => by decide⟩,
    _, rfl, rfl, base_issues _ _⟩
theorem witness_MaskWriteResult : ∃ row : MaskRow, maskWrite (.fcmp 6 .or 63 (.s 63) false false 7) = some row ∧
    base.Issues bx row.toks row.uses ∧ base.Inside bx fun _ => bx.pc + 4 := ⟨_, rfl, base_issues _ _, base_next⟩
theorem witness_UniformResult :
    (∃ row : UniRow, uniform (.ssel 127 0 1 7) = some row ∧ base.Issues bx (row.d :: row.srcs) (row.srcs.map keyS) ∧
      base.Inside bx fun _ => bx.pc + 4) ∧
    ∃ row : UniRow, uniform (.sli 127 0x3FFF 7) = some row ∧ bs.StreamIssues bsx (row.d :: row.srcs) :=
  ⟨⟨_, rfl, base_issues _ _, base_next⟩, _, rfl, bs_issues _⟩
theorem witness_UniformReadResult : ∃ row : ReadRow, uniformRead (.srdl 127 63 0 7) = some row ∧
    base.Issues bx row.srcs row.uses ∧ base.Inside bx fun _ => bx.pc + 4 := ⟨_, rfl, base_issues _ _, base_next⟩

/-! ### Control flow -/

/-- A kernel with loop 63 of bound 4, in a group whose count is the given one. -/
def loopGrid : Grid := { placedGrid with kern := { placedKern with loops := [(63, 4)] } }
def counted (n : Word) : Group := { young with loops := young.loops.set 63 n }
def looped (n : Word) : State := { withGroup (counted n) with grids := [loopGrid] }
theorem looped_at (n : Word) : At (looped n) (counted n) placedTeam loopGrid := ⟨rfl, rfl, rfl, rfl, rfl, regs_sound rfl rfl, rfl, rfl, rfl, rfl, rfl, rfl, rfl⟩
theorem witness_BranchResult :
    base.Issues bx [] [keyK 7] ∧ goodTarget base bx (targetAt bx.pc (0x7FFF : BitVec 16)) ∧
    (base.Inside bx fun p => if (bx.g.mask 7).has p != false then targetAt bx.pc (0x7FFF : BitVec 16) else bx.pc + 4) ∧
    base.Issues bx [lowS 63] [keyS (lowS 63)] ∧
    (base.Inside bx fun _ => if decide (bx.g.s.get (lowS 63) ≠ 0) != true then targetAt bx.pc (0 : BitVec 13) else bx.pc + 4) ∧
    (looped 3).loopBound 0 0 (counted 3) loopGrid 63 = some 4 ∧ (looped 3).Issues (here (counted 3) placedTeam loopGrid) [] [keyK 0] ∧
    ((looped 3).Inside (here (counted 3) placedTeam loopGrid) fun _ => 4) ∧ ((counted 3).loops.get 63).toNat + 1 ≤ 4 ∧
    (looped 4).loopBound 0 0 (counted 4) loopGrid 63 = some 4 ∧
    (looped 4).Issues (here (counted 4) placedTeam loopGrid) [] [keyK 0] ∧ 4 < ((counted 4).loops.get 63).toNat + 1 :=
  ⟨base_issues _ _, by unfold goodTarget; decide +kernel, base_inside fun p => by split <;> decide, base_issues _ _,
    base_inside fun _ => by decide +kernel, by decide +kernel, here_issues (looped_at _) _ _, here_inside (looped_at _) fun _ => by decide,
    by decide +kernel, by decide +kernel, here_issues (looped_at _) _ _, by decide +kernel⟩

/-- A group whose lane 63 stands at another offset, and a context of given lanes. -/
def parted : Group := { young with lpc := young.lpc.set 63 4 }
def fewer (g : Group) : Ctx := ⟨0, 0, g, placedTeam, 0, 0, placedGrid, 0, 0x7FFFFFFFFFFFFFFF⟩
theorem parted_ctx {s : State} (hg : s.group 0 0 = some parted) (ht : s.team 0 0 = some placedTeam) (hr : s.grid 0 = some placedGrid) :
    s.ctxOf 0 0 = some (fewer parted) := by
  have h1 : parted.issueAddr = some 0 := by decide +kernel
  have h2 : parted.actAt 0 = 0x7FFFFFFFFFFFFFFF := by decide +kernel
  have hr : s.grid placedTeam.grid = some placedGrid := hr
  have ht : s.team 0 parted.team = some placedTeam := ht
  simp only [State.ctxOf, hg, ht, hr, h1, h2]
  rfl
theorem parted_issues (toks : List (Fin 128)) (uses : List Nat) : (withGroup parted).Issues (fewer parted) toks uses :=
  ⟨rfl, parted_ctx rfl rfl rfl, by simp [fewer, parted, young, Group.fresh], by simp [fewer, parted, young, Group.fresh], rfl⟩
theorem parted_inside : (withGroup parted).Inside (fewer parted) fun _ => 0 := by
  have h : ∀ p, (parted.lpc.get p).toNat ≠ 0x10000 := by decide +kernel
  have hl : ∀ p, (withGroup parted).laneLen 0 0 parted p = 0x10000 := by decide +kernel
  intro p _ _
  simp only [Ctx.lpcAfter, Tab.get_ofFn]
  show BitVec.toNat (if _ then _ else parted.lpc.get p) ≠ (withGroup parted).laneLen 0 0 parted p
  rw [hl p]
  split
  · decide
  · exact h p
/-- A group that runs in the second slot of the team. -/
def second : Group := { young with uid := 1 }
def twoGroups (f : Group → Group) : State :=
  base.modCore 0 fun k => { k with groups := (k.groups.set 0 (some young)).set 1 (some (f second)) }
theorem twoGroups_team (f : Group → Group) (h : (f second).team = 0) :
    (twoGroups f).teamGroups 0 0 = [(0, young), (1, f second)] := by
  have h0 : (twoGroups f).group 0 0 = some young := rfl
  have h1 : (twoGroups f).group 0 1 = some (f second) := rfl
  have hn : ∀ i : Fin 126, (twoGroups f).group 0 (i.succ.succ) = none := fun i => by
    have : (i.succ.succ : Fin 128) ≠ 0 ∧ (i.succ.succ : Fin 128) ≠ 1 := by revert i; decide
    show (((base.core 0).groups.set 0 (some young)).set 1 (some (f second))).get i.succ.succ = none
    rw [Tab.get_set_ne _ _ (Ne.symm this.2), Tab.get_set_ne _ _ (Ne.symm this.1)]
    revert i; decide +kernel
  have hy : young.team = 0 := rfl
  rw [State.teamGroups, List.finRange_succ, List.finRange_succ]
  simp only [List.map_cons, List.map_map, List.filterMap_cons, Fin.succ_zero_eq_one, h0, h1, h, hy, if_true, List.filterMap_map]
  rw [List.filterMap_eq_nil_iff.mpr]
  intro i _
  simp [hn i]
def queued : Group := { young with q := young.q.set 0 [⟨0, .ld, 1, 0, 0, 0, 0, Tab.replicate 64 0, 0⟩] }
theorem queued_at : At (withGroup queued) queued placedTeam placedGrid := ⟨rfl, rfl, rfl, rfl, rfl, regs_sound rfl rfl, rfl, rfl, rfl, rfl, rfl, rfl, rfl⟩
theorem two_at : At (twoGroups id) young placedTeam placedGrid := ⟨rfl, rfl, rfl, rfl, rfl, regs_sound rfl rfl, fresh_young⟩
theorem witness_RegroupBranchResult :
    ((withGroup queued).Issues (here queued placedTeam placedGrid) [] [keyK 7] ∧ queued.brm = none ∧
      (withGroup queued).mayRegroup (here queued placedTeam placedGrid) = false ∧
      (withGroup queued).Inside (here queued placedTeam placedGrid) fun _ => 4) ∧
    (twoGroups id).Issues bx [] [keyK 7] ∧ bx.g.brm = none ∧ (twoGroups id).mayRegroup bx = true ∧
      goodTarget (twoGroups id) bx (targetAt bx.pc (0x7FFF : BitVec 16)) ∧ ((twoGroups id).Inside bx fun _ => bx.pc) ∧
      (∃ e ∈ (twoGroups id).teamGroups bx.c bx.g.team, e.1 ≠ bx.gid) ∧
      (∀ e ∈ (twoGroups id).teamGroups bx.c bx.g.team, e.1 ≠ bx.gid → e.2.brm = none ∧ Settled (twoGroups id) bx.c e.1 e.2) := by
  refine ⟨⟨here_issues queued_at _ _, rfl, by decide +kernel, here_inside queued_at fun _ => by decide⟩, here_issues two_at _ _, rfl,
    by decide +kernel, by unfold goodTarget; decide +kernel, here_inside two_at fun _ => by decide, ?_, ?_⟩
  · exact ⟨(1, second), by rw [show bx.g.team = 0 from rfl, show bx.c = 0 from rfl, twoGroups_team id rfl]; simp, by decide⟩
  · intro e he hne
    rw [show bx.g.team = 0 from rfl, show bx.c = 0 from rfl, twoGroups_team id rfl] at he
    simp only [List.mem_cons, List.not_mem_nil, or_false] at he
    obtain rfl | rfl := he
    · exact absurd rfl hne
    · exact ⟨rfl, rfl, rfl, ⟨0, rfl⟩, fun p _ => by revert p; decide +kernel⟩
/-- A kernel whose CALLI at offset 0 may reach offset 0xFFFE, and a group one level deep. -/
def callGrid : Grid := { placedGrid with kern := { placedKern with targets := [(0, 0xFFFE)] } }
def pointed : Group := { young with mapped := 1, v := young.v.set 0 (Tab.replicate 64 0xFFFE), depth := Tab.replicate 64 7 }
def calling : State := { withGroup pointed with grids := [callGrid] }
theorem calling_at : At calling pointed placedTeam callGrid := ⟨rfl, rfl, rfl, rfl, rfl, regs_sound rfl rfl, rfl, rfl, rfl, rfl, rfl, rfl, rfl⟩
def cx : Ctx := here pointed placedTeam callGrid
theorem pointed_reads (p : Fin 64) : pointed.readV 0 p = 0xFFFE ∧ pointed.readV 63 p = 0 ∧ pointed.depth.get p = 7 := by
  revert p; decide +kernel
theorem witness_CallResult :
    calling.Issues cx [] [] ∧ calling.Issues cx [] [keyV 0] ∧ calling.Issues cx [] [keyV 63] ∧
    (cx.g.hmode = false ∧ (∀ p, cx.act.has p = true → (cx.g.depth.get p).toNat < cx.grid.kern.depth) ∧
      calling.alloc cx.c cx.gid cx.g cx.t cx.grid [63] = .ok) ∧
    goodTarget calling cx (targetAt cx.pc (0x7FFF : BitVec 21)) ∧ (calling.Inside cx fun _ => targetAt cx.pc (0x7FFF : BitVec 21)) ∧
    (∀ p, cx.act.has p = true →
      goodTarget calling cx (cx.g.readV 0 p) ∧ (cx.pc.toNat, (cx.g.readV 0 p).toNat) ∈ cx.grid.kern.targets) ∧
    calling.Inside cx (cx.g.readV 0) ∧ (∀ p, cx.act.has p = true → cx.g.depth.get p ≠ 0 ∧ goodTarget calling cx (cx.g.readV 63 p)) ∧
    calling.Inside cx (cx.g.readV 63) := by
  have hl : calling.codeLen cx.c cx.gid cx.g = 0x10000 := by decide +kernel
  have hg (a : Word) (h1 : a.toNat % 2 = 0) (h2 : a.toNat < 0x10000) : goodTarget calling cx a := ⟨h1, by rw [hl]; exact h2⟩
  have r0 (p) : cx.g.readV 0 p = 0xFFFE := (pointed_reads p).1
  have r63 (p) : cx.g.readV 63 p = 0 := (pointed_reads p).2.1
  have rd (p) : cx.g.depth.get p = 7 := (pointed_reads p).2.2
  refine ⟨here_issues calling_at _ _, here_issues calling_at _ _, here_issues calling_at _ _, ⟨rfl, ?_, by decide +kernel⟩,
    hg _ (by decide) (by decide), here_inside calling_at fun _ => by decide +kernel, ?_, here_inside calling_at ?_, ?_,
    here_inside calling_at ?_⟩
  · intro p _; rw [rd]; decide
  · intro p _; rw [r0]; exact ⟨hg _ (by decide) (by decide), by decide +kernel⟩
  · intro p; show (cx.g.readV 0 p).toNat ≠ _; rw [r0]; decide
  · intro p _; rw [rd, r63]; exact ⟨by decide, hg _ (by decide) (by decide)⟩
  · intro p; show (cx.g.readV 63 p).toNat ≠ _; rw [r63]; decide
theorem witness_NopResult : base.Issues bx [] [] ∧ (base.Inside bx fun _ => bx.pc + 4) ∧ (∀ p, bx.g.lst.get p ≠ .parked) ∧
    (base.core bx.c).corectl.getLsbD 1 = false := ⟨base_issues _ _, base_next, by decide +kernel, by decide +kernel⟩
theorem witness_ExitResult :
    ((∃ p, (fewer parted).g.issuing.has p = true ∧ (fewer parted).act.has p = false) ∧ ((withGroup parted).Inside (fewer parted) fun _ => 0) ∧
      (withGroup parted).Issues (fewer parted) [] [keyV 63] ∧ ∀ p, (fewer parted).act.has p = true → (fewer parted).g.depth.get p = 0) ∧
    base.Issues bx [] [] ∧ bx.g.hmode = false ∧ ∀ p, bx.g.lst.get p = .running ∨ bx.g.lst.get p = .parked → bx.act.has p = true :=
  ⟨⟨⟨63, by decide +kernel⟩, parted_inside, parted_issues _ _, by decide +kernel⟩, base_issues _ _, rfl, fun p _ => all_has p⟩
/-- A stream whose loop 63 has been counted to 2, in a kernel that gives it the bound 4. -/
def loopStream : Stream := { idleStream with loops := idleStream.loops.set 63 2 }
def loopS : State := streaming loopStream loopGrid
theorem witness_StreamControlResult :
    bs.StreamIssues bsx [lowS 63] ∧ (0xFFFE % 2 = 0 ∧ (targetAt bsx.st.pc (0 : BitVec 13)).toNat < bsx.grid.kern.len) ∧
    loopS.StreamIssues (hereS loopStream loopGrid) [] ∧
    (loopGrid.kern.loops.find? fun e => e.1 == (63 : Fin 64).val) = some ((63 : Fin 64).val, 4) ∧
    (loopStream.loops.get 63).toNat + 1 < 4 ∧ (targetAt loopStream.pc (0x7FF : BitVec 12)).toNat % 2 = 0 ∧
    (targetAt loopStream.pc (0x7FF : BitVec 12)).toNat < loopGrid.kern.len :=
  ⟨bs_issues _, by decide +kernel, stream_issues rfl rfl rfl _, by decide +kernel, by decide +kernel, by decide +kernel, by decide +kernel⟩

/-! ### Exceptions and privileged instructions -/

/-- A handler descriptor at 0x2000 (R300): its code base, HENTRY 0, HLEN 0x100, HSPACE 0, and TRAPVEC names it. -/
def trapping (g : Group) : State :=
  let s := (withGroup g).modCore 0 fun k => { k with trapvec := 0x2001 }
  { s with mem := s.mem.putNum 0x2008 8 (0x100 * 2 ^ 32) }
theorem trapping_at {g : Group} (h : Fresh g) : At (trapping g) g placedTeam placedGrid := ⟨rfl, rfl, rfl, rfl, rfl, regs_sound rfl rfl, h⟩
theorem alone_older (g : Group) : (trapping g).olderPending 0 0 g = false := by
  rw [State.olderPending, List.any_eq_false]
  intro i _
  by_cases hi : i = 0
  · subst hi
    rw [show (trapping g).group 0 0 = some g from rfl]
    simp
  · rw [show (trapping g).group 0 i = none from ?_]
    · simp
    · show (((base.core 0).groups).set 0 (some g)).get i = none
      rw [Tab.get_set_ne _ _ (Ne.symm hi)]
      revert i; decide +kernel
theorem trapping_free : HandlerFree (trapping young) bx :=
  ⟨rfl, rfl, by decide +kernel, ⟨_, rfl, by decide +kernel⟩, rfl, alone_older young⟩
theorem witness_TrapTaken : (trapping young).Issues bx [] [] ∧ HandlerFree (trapping young) bx := ⟨here_issues (trapping_at fresh_young) _ _, trapping_free⟩
/-- BRK with CORECTL.DBG set. -/
theorem witness_BreakTaken : ∃ s : State, s.Issues bx [] [] ∧ HandlerFree s bx ∧ (s.core bx.c).corectl.getLsbD 1 = true := by
  refine ⟨(trapping young).modCore 0 fun k => { k with corectl := 2 }, here_issues ⟨rfl, rfl, rfl, rfl, rfl, regs_sound rfl rfl, fresh_young⟩ _ _,
    ⟨rfl, rfl, by decide +kernel, ⟨_, rfl, by decide +kernel⟩, rfl, alone_older young⟩, by decide +kernel⟩
def faultless (s : State) : State := s.modCore 0 fun k => { k with faultqb := 0x4000 }
theorem witness_FaultTaken :
    ((trapping young).ctxOf bx.c bx.gid = some bx ∧ HandlerFree (trapping young) bx ∧ (0x11 : Byte).toNat < 18) ∧
    (faultless (withGroup parted)).ctxOf 0 0 = some (fewer parted) ∧ parted.hmode = false ∧ parted.halted = false ∧
    ((faultless (withGroup parted)).core 0).trapvec.getLsbD 0 = false ∧ ((faultless (withGroup parted)).core 0).queueFull = false ∧
    ((faultless (withGroup parted)).core 0).recPend = [] ∧ ringBase ((faultless (withGroup parted)).core 0).faultqb ≠ 0 ∧
    (∃ p, (fewer parted).g.issuing.has p = true ∧ (fewer parted).act.has p = false) ∧
    (faultless (withGroup parted)).Inside (fewer parted) fun _ => 0 :=
  ⟨⟨here_ctx (trapping_at fresh_young), trapping_free, by decide⟩, parted_ctx rfl rfl rfl, rfl, rfl, by decide +kernel, by decide +kernel, rfl,
    by decide +kernel, ⟨63, by decide +kernel⟩, parted_inside⟩
/-- The group in its handler, whose S113 names offset 4, and the bank that it holds. -/
def handled : Group := { young with hlanes := BitVec.allOnes 64, s := young.s.set 113 4 }
def heldBank : Bank := ⟨0, young, 0, 0, 0, 0, 0x100, 0, 0, 0, 0, 0⟩
def returning : State := (withGroup handled).modCore 0 fun k => { k with banks := k.banks.set 0 (some heldBank) }
def rx : Ctx := here handled placedTeam placedGrid
theorem handled_ctx : returning.ctxOf 0 0 = some rx := by
  have hg : returning.group 0 0 = some handled := rfl
  have ht : returning.team 0 handled.team = some placedTeam := rfl
  have hr : returning.grid placedTeam.grid = some placedGrid := rfl
  have h1 : handled.issueAddr = some 0 := by decide +kernel
  have h2 : handled.actAt 0 = BitVec.allOnes 64 := by decide +kernel
  simp only [State.ctxOf, hg, ht, hr, h1, h2]
  rfl
theorem returning_issues (toks : List (Fin 128)) (uses : List Nat) : returning.Issues rx toks uses :=
  ⟨rfl, handled_ctx, by simp [rx, here, handled, young, Group.fresh], by simp [rx, here, handled, young, Group.fresh], rfl⟩
theorem witness_ReturnFromTrap : returning.Issues rx [] [keyS 113] ∧ rx.g.hmode = true ∧ rx.g.hlanes = rx.act ∧
    returning.bankOf rx.c rx.gid rx.g = some heldBank ∧ rx.g.dels = [] ∧ ((rx.g.s.get 113).setWidth 32 : Word).toNat % 2 = 0 ∧
    ((rx.g.s.get 113).setWidth 32 : Word).toNat < rx.grid.kern.len ∧
    (∀ p, rx.g.lst.get p = .running → rx.act.has p = false → (rx.g.lpc.get p).toNat ≠ rx.grid.kern.len) :=
  ⟨returning_issues _ _, rfl, rfl, rfl, rfl, by decide +kernel, by decide +kernel, fun p _ h => by
    rw [show rx.act.has p = true from all_has p] at h; exact absurd h (by decide)⟩
def user : Group := { young with priv := false }
theorem user_at : At (withGroup user) user placedTeam placedGrid := ⟨rfl, rfl, rfl, rfl, rfl, regs_sound rfl rfl, rfl, rfl, rfl, rfl, rfl, rfl, rfl⟩
theorem witness_PrivilegeFault : ∃ w, privileged (.xlinv 63 0) = some w ∧ (withGroup user).Issues (here user placedTeam placedGrid) w.1 w.2 ∧
    user.priv = false ∧ user.hmode = false := ⟨_, rfl, here_issues user_at _ _, rfl, rfl⟩
theorem witness_SystemResult : bx.privileged = true ∧ base.Issues bx [lowS 63] [] ∧ base.Issues bx [lowS 63] [keyS (lowS 63)] ∧
    (base.Inside bx fun _ => bx.pc + 4) ∧ (regAssigned 0x14F = true ∧ regLevelM 0x14F = false) ∧ regAssigned 0x00E = false ∧
    (regAssigned 0x100 = true ∧ regLevelM 0x100 = true) :=
  ⟨rfl, base_issues _ _, base_issues _ _, base_next, by decide, by decide, by decide⟩
/-- Space 0, the range of 64 KiB at 0x10000 and the counter at 8; and a length that is no multiple of 64 KiB. -/
def dropping (n : DWord) : Group := { young with s := ((young.s.set 61 0x10000).set 62 n).set 63 8 }
theorem dropping_at (n : DWord) : At (withGroup (dropping n)) (dropping n) placedTeam placedGrid := ⟨rfl, rfl, rfl, rfl, rfl, regs_sound rfl rfl, rfl, rfl, rfl, rfl, rfl, rfl, rfl⟩
theorem witness_InvalidateResult :
    (bx.privileged = true ∧ (withGroup (dropping 1)).Issues (here (dropping 1) placedTeam placedGrid) ((List.range 4).map (nextS (lowS 60)))
      (((List.range 4).map (nextS (lowS 60))).map keyS) ∧ ((dropping 1).s.get (nextS (lowS 60) 2)).toNat % 65536 ≠ 0) ∧
    (withGroup (dropping 0x10000)).Issues (here (dropping 0x10000) placedTeam placedGrid) ((List.range 4).map (nextS (lowS 60)))
      (((List.range 4).map (nextS (lowS 60))).map keyS) ∧
    (let r (i : Nat) : Nat := ((dropping 0x10000).s.get (nextS (lowS 60) i)).toNat
     r 1 % 65536 = 0 ∧ r 2 % 65536 = 0 ∧ r 3 % 8 = 0 ∧ r 2 ≠ 0 ∧ r 1 / 2 ^ 54 = (r 1 + r 2 - 1) / 2 ^ 54 ∧ r 0 < 2 ^ 32) ∧
    Sound (withGroup (dropping 0x10000)) ∧ ((withGroup (dropping 0x10000)).spaceRoot 0 0).isSome = true ∧
    (withGroup (dropping 0x10000)).Inside (here (dropping 0x10000) placedTeam placedGrid) fun _ => 4 :=
  ⟨⟨rfl, here_issues (dropping_at _) _ _, by decide +kernel⟩, here_issues (dropping_at _) _ _, by decide +kernel, ⟨rfl, by decide +kernel⟩,
    by decide +kernel, here_inside (dropping_at _) fun _ => by decide⟩
/-- A group that GSTOP has stopped beside the one that saves it, to the save area at 0x8000. -/
def savingGroup : Group := { young with s := (young.s.set 62 1).set 63 0x8000 }
def halted1 : Group := { second with stop := .stopped true false }
def saving : State := base.modCore 0 fun k => { k with
  groups := (k.groups.set 0 (some savingGroup)).set 1 (some halted1), ctxbase := 0x8000, ctxlen := 0x10000 }
theorem saving_at : At saving savingGroup placedTeam placedGrid := ⟨rfl, rfl, rfl, rfl, rfl, regs_sound rfl rfl, rfl, rfl, rfl, rfl, rfl, rfl, rfl⟩
/-- A context of 256 bytes at 0x5000 whose CHECK is the keyed one, and the save that it is part of. -/
def header : Memory := ((base.mem.putNum 0x5000 4 0x43585447).putNum 0x5004 2 1).putNum 0x5008 4 0x100
def keyed : DWord := contextCheck 0 (patch (header.bytes 0x5000 0x100) 0xF8 (zeros 8))
def sealedMem : Memory := header.putNum 0x50F8 8 keyed.toNat
def savedPart : SavedPart := ⟨7, 0x5000, 0x100, keyed, Tab.replicate 64 0, [], []⟩
def savedSave : Saved := ⟨9, 0, 0, 1, false, true, [⟨0, 0x5000, 0x100, [savedPart], [none, none]⟩], none, true⟩
def loadingGroup : Group := { young with s := young.s.set 62 0x5000 }
def loadingOn (k : Core) : State := { (withGroup loadingGroup).setCore 0 k with mem := sealedMem, saved := [savedSave] }
def loading : State := loadingOn ((withGroup loadingGroup).core 0)
/-- The same on a core with no free group slot. -/
def loadingFull : State := loadingOn { (withGroup loadingGroup).core 0 with groups := (Tab.replicate 128 (some second)).set 0 (some loadingGroup) }
theorem loadingFull_at : At loadingFull loadingGroup placedTeam placedGrid := ⟨rfl, rfl, rfl, rfl, rfl, regs_sound rfl rfl, rfl, rfl, rfl, rfl, rfl, rfl, rfl⟩
theorem loading_at : At loading loadingGroup placedTeam placedGrid := ⟨rfl, rfl, rfl, rfl, rfl, regs_sound rfl rfl, rfl, rfl, rfl, rfl, rfl, rfl, rfl⟩
theorem header_wf : header.wf = true := by decide +kernel
theorem sealed_get (x : Nat) (h : x < 0x50F8 ∨ 0x5100 ≤ x) : sealedMem.get x = header.get x :=
  Memory.get_store_out _ _ _ header_wf (by rw [length_leBytes]; omega)
theorem sealed_bytes (a n : Nat) (h : a + n ≤ 0x50F8 ∨ 0x5100 ≤ a) : sealedMem.bytes a n = header.bytes a n :=
  List.map_congr_left fun i hi => sealed_get _ (by simp only [List.mem_range] at hi; omega)
theorem sealed_num (a n : Nat) (h : a + n ≤ 0x50F8 ∨ 0x5100 ≤ a) : sealedMem.num a n = header.num a n := by
  rw [Memory.num, Memory.num, sealed_bytes a n h]
theorem sealed_check : sealedMem.num 0x50F8 8 = keyed.toNat := by
  have : sealedMem.bytes 0x50F8 8 = leBytes 8 keyed.toNat := by
    apply List.ext_getElem
    · rw [length_leBytes]; simp [Memory.bytes]
    · intro i h1 h2
      simp only [Memory.bytes, List.length_map, List.length_range] at h1
      simp only [Memory.bytes, List.getElem_map, List.getElem_range]
      exact Memory.get_store_in _ _ i header_wf (by rw [length_leBytes]; exact h1)
  rw [Memory.num, this, leNat_leBytes]
  exact Nat.mod_eq_of_lt keyed.isLt
theorem sealed_patch : patch (sealedMem.bytes 0x5000 0x100) 0xF8 (zeros 8) = patch (header.bytes 0x5000 0x100) 0xF8 (zeros 8) := by
  have h (m : Memory) : m.bytes 0x5000 0x100 = m.bytes 0x5000 0xF8 ++ m.bytes 0x50F8 8 := by
    rw [Memory.bytes, Memory.bytes, Memory.bytes, show (0x100 : Nat) = 0xF8 + 8 from rfl, List.range_add, List.map_append, List.map_map]
    rfl
  have hl (m : Memory) (a n : Nat) : (m.bytes a n).length = n := by simp [Memory.bytes]
  have hp (m : Memory) : patch (m.bytes 0x5000 0x100) 0xF8 (zeros 8) = m.bytes 0x5000 0xF8 ++ zeros 8 := by
    rw [patch, h m, List.take_left' (hl m _ _), List.drop_of_length_le (by simp [hl, zeros])]
    simp
  rw [hp, hp, sealed_bytes _ _ (by decide)]
theorem sealed_width : sealedMem.num (0x5000 + 0x0C) 1 = 0 := by rw [sealed_num _ _ (by decide)]; decide +kernel
theorem sealed_section : sealedMem.num (0x5000 + 0x0E) 1 = 0 := by rw [sealed_num _ _ (by decide)]; decide +kernel
theorem sealed_mapped : sealedMem.num (0x5000 + 0x38) 8 = 0 := by rw [sealed_num _ _ (by decide)]; decide +kernel
theorem sealed_body (grid : Grid) : bodyReserved sealedMem grid false savedPart 0x5000 = false := by
  have h : queuesReserved sealedMem 0 (0x5000 + 0x100) 8 (0x5000 + 0x800 + popcount (0 : BitVec 64) * 4 * 0) = false := by
    rw [queuesReserved, if_pos (.inl (by decide))]
  simp only [bodyReserved, sealed_width, sealed_section, sealed_mapped, Bool.false_eq_true, if_false]
  rw [show savedPart.size = 0x100 from rfl, show BitVec.ofNat 64 0 = (0 : BitVec 64) from rfl, h]
  rfl
theorem loading_saved (k : Core) : (loadingOn k).savedAt 0 0x5000 = some (savedSave, savedPart) := by
  have hm : (loadingOn k).mem = sealedMem := rfl
  have hb : (loadingOn k).pkg.boots = 0 := rfl
  have hs : (loadingOn k).saved ++ (loadingOn k).past = [savedSave] := rfl
  have hg : (loadingOn k).grid savedSave.grid = some placedGrid := rfl
  have hroot (n : Word) (hn : n = 0) : ((loadingOn k).spaceRoot 0 n).isNone = false := by
    subst hn
    have he : (loadingOn k).spaceEntry 0 0 = some 0x100000 :=
      (show (loadingOn k).spaceEntry 0 0 = base.spaceEntry 0 0 from rfl).trans (by decide +kernel)
    have h1 : (loadingOn k).pnum 0x100000 8 = 0x110001 := by
      rw [State.pnum, hm, sealed_num _ _ (by decide)]; decide +kernel
    have h2 : (loadingOn k).pnum (0x100000 + 8) 8 = 0 := by
      rw [State.pnum, hm, sealed_num _ _ (by decide)]; decide +kernel
    have h3 : (loadingOn k).isRetiring ((loadingOn k).die 0).part 0 = false := rfl
    simp only [State.spaceRoot, he, h1, h2, h3]
    decide
  have hr : groupReserved sealedMem 0x5000 = false := by
    unfold groupReserved
    rw [sealed_num _ _ (by decide), sealed_get _ (by decide), sealed_num _ _ (by decide), sealed_num _ _ (by decide),
      sealed_bytes _ _ (by decide), sealed_bytes _ _ (by decide)]
    decide +kernel
  have h0 : sealedMem.num 0x5000 4 = 0x43585447 := by rw [sealed_num _ _ (by decide)]; decide +kernel
  have h8 : sealedMem.num (0x5000 + 8) 4 = 0x100 := by rw [sealed_num _ _ (by decide)]; decide +kernel
  have h4 : sealedMem.num (0x5000 + 4) 2 = 1 := by rw [sealed_num _ _ (by decide)]; decide +kernel
  have h10 : sealedMem.num (0x5000 + 0x10) 4 = 0 := by rw [sealed_num _ _ (by decide)]; decide +kernel
  have hc : sealedMem.num (0x5000 + 0xF8) 8 = keyed.toNat := sealed_check
  have hk : contextCheck 0 (patch (header.bytes 0x5000 0x100) 0xF8 (zeros 8)) = keyed := rfl
  have hf : ([savedSave].findSome? fun x => (x.halves.flatMap SavedHalf.parts).findSome? fun p =>
      if p.check = keyed then some (x, p) else none) = some (savedSave, savedPart) := by
    simp [savedSave, savedPart]
  simp only [State.savedAt, hm, hb, hs, h0, h8, h4, h10, hc, hr, sealed_patch, hk, BitVec.ofNat_toNat, BitVec.setWidth_eq, hf]
  simp [hroot, hg, sealed_body]
/-- The group that the context forms: one of the least width, with no register mapped. -/
theorem sealed_seat (u : Nat) : (readGroup sealedMem 0x5000 savedPart u).1.seat placedGrid = ⟨0, (roundWidth 0).lanes, max 0 placedGrid.reservation⟩ := by
  have h : (readGroup sealedMem 0x5000 savedPart u).1.seat placedGrid = ⟨sealedMem.num (0x5000 + 0x0D) 1, (roundWidth (sealedMem.num (0x5000 + 0x0C) 1)).lanes,
    max (popcount (BitVec.ofNat 64 (sealedMem.num (0x5000 + 0x38) 8))) placedGrid.reservation⟩ := rfl
  rw [h, sealed_width, sealed_mapped, sealed_num _ _ (by decide)]
  decide +kernel
/-- A group seated leaves every team and grid. -/
theorem seatResumed_gridOf (h : Group) (slot : Fin 16) (n : Nat) (gs : List Group) :
    ∀ (s : State) (old : Option Nat), (s.seatResumed 0 slot n old gs).gridOf 0 h = s.gridOf 0 h := by
  have hs (s : State) (g : Group) : (s.seatGroup 0 g).gridOf 0 h = s.gridOf 0 h := by
    rw [State.seatGroup]
    split
    · rfl
    · simp [State.gridOf, State.team, State.grid, State.setGroup, State.modCore, State.core, State.setCore]
  induction gs with
  | nil => intro s old; rfl
  | cons g gs ih =>
    intro s old
    rw [State.seatResumed, ih]
    exact hs _ _
theorem loading_grid : (loading.loadGroup 0 savedSave savedPart 0x5000).2.gridOf 0 loadingGroup = some placedGrid := by
  have hg : loading.grid savedSave.grid = some placedGrid := rfl
  have hs : loading.slotOfTeam 0 savedSave = some 0 := by decide +kernel
  have ht : loading.team 0 0 = some placedTeam := rfl
  have hm : loading.mem = sealedMem := rfl
  have hp : placedGrid.paired = false := rfl
  have hy (u : State) : u.takePart savedSave savedPart = u := rfl
  have hn : (0 / 4 % 2 == 1) = false := rfl
  simp only [State.loadGroup, hg, hs, ht, hm, sealed_section, hp, hn, hy, Bool.false_eq_true, if_false]
  rw [apply_ite Prod.snd, apply_ite (State.gridOf · 0 loadingGroup)]
  split
  · exact seatResumed_gridOf _ _ _ _ _ _
  · rfl
theorem inside_of {s : State} {g : Group} {t : Team} {gr : Grid} {next : Fin 64 → Word} (hh : g.hlanes = 0)
    (hk : s.kernLen 0 g = gr.kern.len) (hn : ∀ p, (next p).toNat ≠ gr.kern.len) : s.Inside (here g t gr) next := by
  intro p _ _
  have hl : s.laneLen 0 0 g p = gr.kern.len := by simp [State.laneLen, hk, hh, Lanes.has]
  simp only [Ctx.lpcAfter, Tab.get_ofFn]
  show (if Lanes.has (BitVec.allOnes 64) p = true then next p else g.lpc.get p).toNat ≠ s.laneLen 0 0 g p
  rw [if_pos (all_has p), hl]
  exact hn p
theorem witness_ContextResult_save : (here savingGroup placedTeam placedGrid).privileged = true ∧
    saving.Issues (here savingGroup placedTeam placedGrid) [lowS 62, nextS (lowS 62) 1] [keyS (lowS 62), keyS (nextS (lowS 62) 1)] ∧
    (savingGroup.s.get (lowS 62)).toNat = 1 ∧ (savingGroup.s.get (nextS (lowS 62) 1)).toNat = 0x8000 ∧
    saving.group 0 (Fin.ofNat 128 1) = some halted1 ∧ halted1.halted = true ∧ (saving.core 0).saveArea.1 ≤ 0x8000 ∧
    0x8000 + saving.saveSize 0 (Fin.ofNat 128 1) halted1 ≤ (saving.core 0).saveArea.1 + (saving.core 0).saveArea.2 ∧
    saving.saveWaits 0 halted1 = false ∧
    ((saving.saveGroup 0 (Fin.ofNat 128 1) 0x8000).Inside (here savingGroup placedTeam placedGrid) fun _ => 4) ∧
    saving.memWf ∧ Unlocked saving 0x8000 (saving.saveSize 0 1 halted1) ∧ saving.team 0 halted1.team = some placedTeam ∧ saving.grid placedTeam.grid = some placedGrid ∧ halted1.dels = [] ∧
    halted1.stop ≠ .doubleFault ∧ (saving.teamGroups 0 halted1.team).length ≠ 1 :=
  ⟨rfl, here_issues saving_at _ _, by decide +kernel, by decide +kernel, rfl, rfl, by decide +kernel, by decide +kernel, by decide +kernel,
    inside_of rfl (by decide +kernel) fun _ => by decide, show Memory.wf _ = true by decide +kernel,
    fun d => .inl (by revert d; decide +kernel), rfl, rfl, rfl, by decide, by decide +kernel⟩
theorem witness_ContextResult :
    (Sound base ∧ base.Issues bx [lowS 0, nextS (lowS 0) 1] [keyS (lowS 0)] ∧ base.savedAt (dieOf bx.c) 0 = none) ∧
    (loading.Issues (here loadingGroup placedTeam placedGrid) [lowS 62, nextS (lowS 62) 1] [keyS (lowS 62)] ∧
      (loadingGroup.s.get (lowS 62)).toNat = 0x5000 ∧ loading.savedAt (dieOf 0) 0x5000 = some (savedSave, savedPart) ∧
      (∀ t ∈ savedPart.metTags, loading.tagWaits ⟨0, t.1, t.2⟩ .dev = false) ∧ Sound loading ∧
      ((loading.loadGroup 0 savedSave savedPart 0x5000).2.Inside (here loadingGroup placedTeam placedGrid) fun _ => 4)) ∧
    (loading.grid savedSave.grid = some placedGrid ∧ placedGrid.paired = false ∧ loading.slotOfTeam 0 savedSave = some 0 ∧
      loading.team 0 0 = some placedTeam ∧
      (readGroup loading.mem 0x5000 savedPart loading.nextId).1.grant.lanes ≤ (loading.core 0).healthCap ∧
      (∃ i rest, (loading.core 0).freeGroups = i :: rest) ∧
      (loading.core 0).threadsUsed + (readGroup loading.mem 0x5000 savedPart loading.nextId).1.grant.lanes ≤ 2048 ∧
      columnsFit [(readGroup loading.mem 0x5000 savedPart loading.nextId).1.seat placedGrid] (loading.slotsFree 0 0 placedTeam placedGrid) = true ∧
      loading.mem.num (0x5000 + 0x0E) 1 / 4 % 2 = 0) ∧
    loadingFull.Issues (here loadingGroup placedTeam placedGrid) [lowS 62, nextS (lowS 62) 1] [keyS (lowS 62)] ∧
    loadingFull.savedAt (dieOf 0) 0x5000 = some (savedSave, savedPart) ∧ loadingFull.slotOfTeam 0 savedSave = some 0 ∧
    (readGroup loadingFull.mem 0x5000 savedPart loadingFull.nextId).1.grant.lanes ≤ (loadingFull.core 0).healthCap ∧
    (loadingFull.core 0).freeGroups = [] ∧ loadingFull.Inside (here loadingGroup placedTeam placedGrid) fun _ => 4 := by
  have hw (u : Nat) : (readGroup sealedMem 0x5000 savedPart u).1.grant = roundWidth 0 := by
    rw [show (readGroup sealedMem 0x5000 savedPart u).1.grant = roundWidth (sealedMem.num (0x5000 + 0x0C) 1) from rfl, sealed_width]
  have hm : loading.mem = sealedMem := rfl
  have hf : loadingFull.mem = sealedMem := rfl
  rw [hm, hf, hw, hw, sealed_seat]
  refine ⟨⟨⟨rfl, by decide +kernel⟩, base_issues _ _, by decide +kernel⟩, ⟨here_issues loading_at _ _, by decide +kernel, loading_saved _, fun t ht => (by cases ht),
      ⟨rfl, by decide +kernel⟩, inside_of rfl (by rw [State.kernLen, loading_grid]; rfl) fun _ => by decide⟩,
    ⟨rfl, rfl, by decide +kernel, rfl, by decide +kernel, List.exists_cons_of_ne_nil (by decide +kernel), by decide +kernel, by decide +kernel,
      by rw [sealed_section]⟩, here_issues loadingFull_at _ _, loading_saved _, by decide +kernel, by decide +kernel, by decide +kernel,
    here_inside loadingFull_at fun _ => by decide⟩

/-! ### Pool memory, synchronisation and queues -/

theorem base_sound : Sound base := ⟨rfl, by decide +kernel⟩
theorem witness_PoolAccessResult :
    (∃ r, poolLoads (.pldw true 60 63 0x1F false 7) = some r ∧ Sound base ∧ base.Issues bx [] [keyV r.a] ∧ PoolRow.Runs r base bx false ∧
      base.alloc bx.c bx.gid bx.g bx.t bx.grid r.regs = .ok) ∧
    (∃ r, poolStores (.pst 63 0 63 true true 7) = some r ∧ base.Issues bx [] (keyV r.a :: r.regs.map keyV) ∧ PoolRow.Runs r base bx true) ∧
    (∀ k, (base.core k).pool.wf = true) ∧
    ∀ m < 4, ∀ n < 4, base.scratchLoc 0 placedTeam (65532 + m) = base.scratchLoc 0 placedTeam (65532 + n) → m = n :=
  ⟨⟨_, rfl, base_sound, base_issues _ _, ⟨by decide +kernel, by decide +kernel, by decide +kernel, base_next⟩, by decide +kernel⟩,
    ⟨_, rfl, base_issues _ _, by decide +kernel, by decide +kernel, by decide +kernel, base_next⟩, by decide +kernel, by decide +kernel⟩
theorem base_releases (sc : Scope) (h : sc = .team ∨ sc = .sys ∨ sc = .dev) : Releases base bx sc := by
  rcases h with rfl | rfl | rfl <;> exact .inr (by decide +kernel)
theorem witness_PoolAtomicResult : Sound base ∧ base.Issues bx [] [keyV 63, keyV 62, keyV (nextV 62 1)] ∧
    PoolRow.Runs ⟨1, 62, 63, 0, false, false, 7⟩ base bx true ∧ base.alloc bx.c bx.gid bx.g bx.t bx.grid [62] = .ok ∧ Releases base bx .team ∧
    (∀ t ∈ base.poolTagsMet bx ((⟨1, 62, 63, 0, false, false, 7⟩ : PoolRow).addr bx) bx.act.list, base.tagWaits t .team = false) :=
  ⟨base_sound, base_issues _ _, ⟨by decide +kernel, by decide +kernel, by decide +kernel, base_next⟩, by decide +kernel,
    base_releases _ (.inl rfl), by decide +kernel⟩
def offAt (n : DWord) : Group := { young with s := young.s.set 1 n }
theorem offAt_at (n : DWord) : At (withGroup (offAt n)) (offAt n) placedTeam placedGrid := ⟨rfl, rfl, rfl, rfl, rfl, regs_sound rfl rfl, rfl, rfl, rfl, rfl, rfl, rfl, rfl⟩
def addrOf (n : DWord) : DWord := BitVec.ofInt 64 (((offAt n).s.get 1).toNat + 8 * (0x7F : BitVec 7).toInt)
theorem witness_ScratchUniformResult :
    ((withGroup (offAt 65536)).acquiring (here (offAt 65536) placedTeam placedGrid) = false ∧
      ((withGroup (offAt 65536)).Inside (here (offAt 65536) placedTeam placedGrid) fun _ => 4) ∧
      (addrOf 65536).toNat + 8 ≤ placedGrid.scratchBytes ∧ (addrOf 65536).toNat % 8 = 0 ∧ Sound (withGroup (offAt 65536)) ∧
      (withGroup (offAt 65536)).Issues (here (offAt 65536) placedTeam placedGrid) [0, 1] [keyS 1, keyS 0]) ∧
    (placedGrid.scratchBytes < (addrOf 65544).toNat + 8 ∧
      (withGroup (offAt 65544)).Issues (here (offAt 65544) placedTeam placedGrid) [0, 1] [keyS 1, keyS 0]) ∧
    (addrOf 65535).toNat + 8 ≤ placedGrid.scratchBytes ∧ (addrOf 65535).toNat % 8 ≠ 0 ∧
      (withGroup (offAt 65535)).Issues (here (offAt 65535) placedTeam placedGrid) [0, 1] [keyS 1, keyS 0] :=
  ⟨⟨by decide +kernel, here_inside (offAt_at _) fun _ => by decide, by decide +kernel, by decide +kernel, ⟨rfl, by decide +kernel⟩,
      here_issues (offAt_at _) _ _⟩,
    ⟨by decide +kernel, here_issues (offAt_at _) _ _⟩, by decide +kernel, by decide +kernel, here_issues (offAt_at _) _ _⟩

theorem base_cores {f : Core → Core} (c : Fin 128) : (base.modCore 0 f).core c = if c = 0 then f (base.core 0) else Core.reset := by
  by_cases h : c = 0
  · subst h; rfl
  · rw [if_neg h]
    show ((base.cores).set 0 _).get c = _
    rw [Tab.get_set_ne _ _ (Ne.symm h)]
    show ((State.reset.cores).set 0 _).get c = _
    rw [Tab.get_set_ne _ _ (Ne.symm h)]
    exact Tab.get_replicate _ _
theorem base_core (c : Fin 128) (h : c ≠ 0) : base.core c = Core.reset := by
  show ((State.reset.cores).set 0 _).get c = _
  rw [Tab.get_set_ne _ _ (Ne.symm h)]
  exact Tab.get_replicate _ _
/-- The groups of these states stand on core 0. -/
theorem group_of {g h : Group} {t : Team} {f : Core → Core} {c gid : Fin 128} (hg : (placed g t f).group c gid = some h) :
    c = 0 ∧ gid = 0 ∧ h = g := by
  rw [State.group, placed, base_cores] at hg
  split at hg
  · rename_i hc
    refine ⟨hc, ?_⟩
    by_cases hi : gid = 0
    · subst hi
      rw [Tab.get_set_eq] at hg
      exact ⟨rfl, (Option.some.inj hg).symm⟩
    · rw [Tab.get_set_ne _ _ (Ne.symm hi)] at hg
      have : ((State.reset.core 0).groups.set 0 (some { Group.fresh with priv := true })).get gid = some h := hg
      rw [Tab.get_set_ne _ _ (Ne.symm hi)] at this
      have hn : (State.reset.core 0).groups.get gid = none := Tab.get_replicate _ _
      rw [hn] at this
      cases this
  · rw [show Core.reset.groups.get gid = none from Tab.get_replicate _ _] at hg
    cases hg
theorem no_stream (g : Group) (t : Team) (c : Fin 128) (copy : Bool) : ((placed g t id).core c).stream copy = none := by
  rw [placed, base_cores]
  split
  · cases copy <;> rfl
  · cases copy <;> rfl
theorem base_eq : withGroup young = base := by decide +kernel
theorem none_at {g : Group} (t : Team) (h : g.barWaits = []) (i : Fin 16) : NoneAt (placed g t id) i := by
  constructor
  · intro c gid k hk w hw
    obtain ⟨-, -, rfl⟩ := group_of hk
    rw [h] at hw
    cases hw
  · intro c copy st hs
    rw [no_stream] at hs
    cases hs
theorem none_waits {g : Group} (t : Team) (h : g.wait = none) (f : Fin 64) : NoneWaits (placed g t id) f := by
  constructor
  · intro c gid k w n hk hw
    obtain ⟨-, -, rfl⟩ := group_of hk
    rw [h] at hw
    cases hw
  · intro c copy st w n hs
    rw [no_stream] at hs
    cases hs
theorem no_brm {g : Group} (t : Team) (f : Core → Core) (h : g.brm = none) (c : Fin 128) (slot : Fin 16) :
    ∀ e ∈ (placed g t f).teamGroups c slot, e.2.brm = none := by
  intro e he
  rw [State.teamGroups, List.mem_filterMap] at he
  obtain ⟨i, -, hi⟩ := he
  split at hi
  · rename_i k hk
    split at hi
    · cases hi
      obtain ⟨-, -, rfl⟩ := group_of hk
      exact h
    · cases hi
  · cases hi
theorem witness_SyncResult :
    (base.Issues bx [] [] ∧ (base.Inside bx fun _ => bx.pc + 4) ∧ base.readsOut bx = false ∧ base.metWaits bx .sys = false ∧
      base.migrating bx = false ∧ Releases base bx .sys ∧
      ∀ v ∈ base.xlinvs, v.team = bx.t.admitted → ∀ p, bx.act.has p = true → bx.g.tid.get p ∉ v.tids) ∧
    (bx.g.hmode = false ∧ (63 : Fin 64).val < bx.grid.kern.nflag ∧ (base.team bx.home bx.slot).isSome = true ∧ Releases base bx .team ∧
      NoneWaits base 63 ∧ base.flag bx.home bx.slot 63 = false ∧ ∀ e ∈ base.teamGroups bx.c bx.g.team, e.2.brm = none) ∧
    (placed young { placedTeam with flags := -1 } id).Issues (here young { placedTeam with flags := -1 } placedGrid) [] [] ∧
    (placed young { placedTeam with flags := -1 } id).flag 0 0 63 = true :=
  ⟨⟨base_issues _ _, base_next, by decide +kernel, by decide +kernel, by decide +kernel, base_releases _ (.inr (.inl rfl)), fun v hv => by cases hv⟩,
    ⟨rfl, by decide, rfl, base_releases _ (.inl rfl), base_eq ▸ none_waits placedTeam rfl 63, by decide +kernel,
      base_eq ▸ no_brm placedTeam id rfl _ _⟩, here_issues ⟨rfl, rfl, rfl, rfl, rfl, regs_sound rfl rfl, fresh_young⟩ _ _, by decide +kernel⟩
/-- Barrier 15 with a count expected, and a group whose S63 holds a count to arrive. -/
def barTeam (n : BitVec 13) : Team := { placedTeam with bars := placedTeam.bars.set 15 ⟨0, n, 0, 0, 0, 0⟩ }
def arriving (m : DWord) : Group := { young with s := young.s.set 63 m }
def barred (n : BitVec 13) (m : DWord) : State := placed (arriving m) (barTeam n) id
def barX (n : BitVec 13) (m : DWord) : Ctx := here (arriving m) (barTeam n) placedGrid
theorem barred_at (n : BitVec 13) (m : DWord) : At (barred n m) (arriving m) (barTeam n) placedGrid :=
  ⟨rfl, rfl, rfl, rfl, rfl, regs_sound rfl rfl, rfl, rfl, rfl, rfl, rfl, rfl, rfl⟩
theorem barX_tids (p q : Fin 64) : (barX 64 64).g.tid.get p = (barX 64 64).g.tid.get q → p = q := by revert p q; decide +kernel
theorem witness_BarrierResult :
    ((barX 64 64).g.hmode = false ∧ (15 : Fin 16).val < (barX 64 64).grid.kern.nbar ∧ ((barred 64 64).Inside (barX 64 64) fun _ => 4) ∧
      (barred 64 64).Issues (barX 64 64) [] [] ∧ Releases (barred 64 64) (barX 64 64) .team ∧ NoneAt (barred 64 64) 15 ∧
      ((barred 64 64).team 0 0).isSome = true ∧
      (∀ p q, (barX 64 64).act.has p = true → (barX 64 64).act.has q = true → (barX 64 64).g.tid.get p = (barX 64 64).g.tid.get q → p = q)) ∧
    (∀ p, ((barred 64 64).barrier 0 0 15).arrivedSet.getLsbD ((barX 64 64).g.tid.get p).toNat = false ∧
      ((barred 64 64).barrier 0 0 15).droppedSet.getLsbD ((barX 64 64).g.tid.get p).toNat = false) ∧
    (((barred 64 64).barrier 0 0 15).arrived.toNat + (barX 64 64).act.list.length = ((barred 64 64).barrier 0 0 15).expect.toNat ∧
      ((barred 64 64).barrier 0 0 15).pendDrop.toNat + (barX 64 64).act.list.length ≤ ((barred 64 64).barrier 0 0 15).expect.toNat ∧
      ((barred 64 64).barrier 0 0 15).pendDrop.toNat ≤ ((barred 64 64).barrier 0 0 15).expect.toNat) ∧
    (∀ w ∈ (barX 64 64).g.barWaits, w.site ≠ (barX 64 64).pc) ∧ (∀ e ∈ (barred 64 64).teamGroups 0 0, e.2.brm = none) ∧
    ((barred 65 64).Issues (barX 65 64) [] [keyS (lowS 63)] ∧
      ((barred 65 64).barrier 0 0 15).arrived.toNat + 64 < ((barred 65 64).barrier 0 0 15).expect.toNat ∧
      ((barred 65 64).Inside (barX 65 64) fun _ => 0)) ∧
    ((barred 64 0x1FFF).Issues (barX 64 0x1FFF) [] [keyS (lowS 63)] ∧
      ((barred 64 0x1FFF).barrier 0 0 15).expect.toNat <
        ((barred 64 0x1FFF).barrier 0 0 15).arrived.toNat + ((arriving 0x1FFF).s.get (lowS 63)).toNat % 8192) :=
  ⟨⟨rfl, by decide, here_inside (barred_at _ _) fun _ => by decide, here_issues (barred_at _ _) _ _, .inr (by decide +kernel),
      none_at _ rfl _, rfl, fun p q _ _ => barX_tids p q⟩, by decide +kernel, by decide +kernel, (by intro w hw; cases hw), no_brm _ _ rfl _ _,
    ⟨here_issues (barred_at _ _) _ _, by decide +kernel, here_inside (barred_at _ _) fun _ => by decide⟩,
    here_issues (barred_at _ _) _ _, by decide +kernel⟩
/-- A barrier that expects none, and one with room for all of a group's lanes but one. -/
theorem witness_BarrierResult_over :
    (∀ n ∈ [(0 : BitVec 13), 63], (barX n 64).g.hmode = false ∧ ((barred n 64).Inside (barX n 64) fun _ => 4) ∧
      (barred n 64).Issues (barX n 64) [] [] ∧ Releases (barred n 64) (barX n 64) .team ∧ NoneAt (barred n 64) 15 ∧
      ((barred n 64).team 0 0).isSome = true) ∧
    ((barred 0 64).barrier 0 0 15).expect = 0 ∧
    (let b := (barred 63 64).barrier 0 0 15; let room := b.expect.toNat - b.arrived.toNat;
      0 < room ∧ room < (barX 63 64).act.list.length ∧ b.pendDrop.toNat + room ≤ b.expect.toNat ∧
      (∀ p q, (barX 63 64).g.tid.get p = (barX 63 64).g.tid.get q → p = q) ∧
      ∀ p, b.arrivedSet.getLsbD ((barX 63 64).g.tid.get p).toNat = false ∧ b.droppedSet.getLsbD ((barX 63 64).g.tid.get p).toNat = false) := by
  refine ⟨fun n hn => ?_, by decide +kernel, by decide +kernel, by decide +kernel, by decide +kernel, fun p q => barX_tids p q, by decide +kernel⟩
  refine ⟨rfl, here_inside (barred_at _ _) fun _ => by decide, here_issues (barred_at _ _) _ _, .inr ?_, none_at _ rfl _, rfl⟩
  simp only [List.mem_cons, List.not_mem_nil, or_false] at hn
  obtain rfl | rfl := hn <;> decide +kernel
/-- The stream of `bs` waits nowhere, and no group does. -/
theorem bs_group {c gid : Fin 128} {k : Group} (h : bs.group c gid = some k) : k = young := by
  have : (withGroup young).group c gid = some k := by
    rw [base_eq]
    rw [State.group, bs, streaming] at h
    by_cases hc : c = 0
    · subst hc; exact h
    · rw [State.group, base_core c hc]
      have hb : (base.modCore 0 fun k => { k with matrixStream := some idleStream }).core c = Core.reset := by rw [base_cores, if_neg hc]
      have : ((base.modCore 0 fun k => { k with matrixStream := some idleStream }).core c).groups.get gid = some k := h
      rwa [hb] at this
  exact (group_of this).2.2
theorem bs_stream {c : Fin 128} {copy : Bool} {st : Stream} (h : (bs.core c).stream copy = some st) : st = idleStream := by
  have hb : bs.core c = if c = 0 then { base.core 0 with matrixStream := some idleStream } else Core.reset := by
    show (base.modCore 0 fun k => { k with matrixStream := some idleStream }).core c = _
    rw [base_cores]
  rw [hb] at h
  split at h
  · cases copy
    · exact (Option.some.inj h).symm
    · cases h
  · cases copy <;> cases h
theorem bs_no_waits : NoneWaits bs 63 := by
  constructor
  · intro c gid k w n hk hw
    rw [bs_group hk] at hw
    cases hw
  · intro c copy st w n hs hw
    rw [bs_stream hs] at hw
    cases hw
/-- The same with flag 63 set. -/
def flagged : State := bs.modTeam 0 0 fun t => { t with flags := -1 }
theorem witness_StreamSyncResult :
    (bs.team bsx.home bsx.slot).isSome = true ∧ bs.StreamIssues bsx [] ∧ (63 : Fin 64).val < bsx.grid.kern.nflag ∧
    ReleasesStream bs bsx .team ∧ NoneWaits bs 63 ∧ (15 : Fin 16).val < bsx.grid.kern.nbar ∧ bsx.st.bars.get 15 = .notArrived ∧
    bsx.st.barWait = none ∧ (bs.barrier bsx.home bsx.slot 15).arrived.toNat + 1 < (bs.barrier bsx.home bsx.slot 15).expect.toNat ∧
    (bs.barrier bsx.home bsx.slot 15).pendDrop.toNat + 1 ≤ (bs.barrier bsx.home bsx.slot 15).expect.toNat ∧
    bs.StreamIssues bsx [lowS 63] ∧
    flagged.StreamIssues ⟨0, false, idleStream, { placedTeam with flags := -1 }, 0, 0, placedGrid⟩ [] ∧ flagged.flag 0 0 63 = true :=
  ⟨rfl, bs_issues _, by decide, .inr (by decide +kernel), bs_no_waits, by decide, rfl, rfl, by decide +kernel, by decide +kernel,
    bs_issues _, ⟨rfl, rfl, fun r _ => by revert r; decide +kernel⟩, by decide +kernel⟩
/-- A stream whose S63 holds a count, at barrier 15 that expects the given one. -/
def joining (m : DWord) : Stream := { idleStream with s := idleStream.s.set 63 m }
def joined (n : BitVec 13) (m : DWord) : State :=
  { placed young (barTeam n) fun k => { k with matrixStream := some (joining m) } with cur := some (.stream 0 false) }
def jx (n : BitVec 13) (m : DWord) : SCtx := ⟨0, false, joining m, barTeam n, 0, 0, placedGrid⟩
theorem joined_issues (n : BitVec 13) (m : DWord) (toks : List (Fin 128)) : (joined n m).StreamIssues (jx n m) toks :=
  ⟨rfl, rfl, by simp [jx, joining, idleStream]⟩
theorem joining_bars (m : DWord) : (joining m).bars.get 15 ≠ .arrived := by
  rw [show (joining m).bars = idleStream.bars from rfl]; decide
theorem joined_none (n : BitVec 13) (m : DWord) : NoneAt (joined n m) 15 := by
  constructor
  · intro c gid k hk w hw
    obtain ⟨-, -, rfl⟩ := group_of (g := young) (t := barTeam n) (f := fun k => { k with matrixStream := some (joining m) }) hk
    cases hw
  · intro c copy st hs
    have hb : (joined n m).core c = (placed young (barTeam n) fun k => { k with matrixStream := some (joining m) }).core c := rfl
    rw [hb, placed, base_cores] at hs
    split at hs
    · cases copy
      · obtain rfl := Option.some.inj hs
        exact ⟨joining_bars m, nofun⟩
      · cases hs
    · cases copy <;> cases hs
theorem witness_StreamSyncResult_arrives :
    (∀ n m, (joined n m).StreamIssues (jx n m) [] ∧ (joined n m).StreamIssues (jx n m) [lowS 63] ∧ NoneAt (joined n m) 15 ∧
      Mated (joined n m) (jx n m) ∧ (jx n m).st.bars.get 15 = .notArrived ∧ (jx n m).st.barWait = none) ∧
    ReleasesStream (joined 1 1) (jx 1 1) .team ∧ ReleasesStream (joined 2 3) (jx 2 3) .team ∧
    (let b := (joined 1 1).barrier 0 0 15; b.arrived.toNat + 1 = b.expect.toNat ∧ b.expect ≠ 0 ∧ b.pendDrop.toNat + 1 ≤ b.expect.toNat) ∧
    ((joining 1).s.get (lowS 63)).toNat % 8192 = 1 ∧
    (let b := (joined 2 3).barrier 0 0 15; b.arrived.toNat + 1 < b.expect.toNat ∧
      b.expect.toNat < b.arrived.toNat + ((joining 3).s.get (lowS 63)).toNat % 8192) :=
  ⟨fun n m => ⟨joined_issues _ _ _, joined_issues _ _ _, joined_none n m, .inl ⟨rfl, rfl⟩, rfl, rfl⟩, .inr (by decide +kernel),
    .inr (by decide +kernel), by decide +kernel, by decide +kernel, by decide +kernel⟩
/-- A group whose S0 is the base of the placed gigabyte, with queue 0 as given. -/
def queueing (es : List QEntry) : Group := { young with s := young.s.set 0 placedBase, q := young.q.set 0 es }
def qx (es : List QEntry) : Ctx := here (queueing es) placedTeam placedGrid
theorem queueing_at (es : List QEntry) : At (withGroup (queueing es)) (queueing es) placedTeam placedGrid :=
  ⟨rfl, rfl, rfl, rfl, rfl, regs_sound rfl rfl, rfl, rfl, rfl, rfl, rfl, rfl, rfl⟩
def isSent (h : Hit) : Bool :=
  match h with
  | .sent _ _ => true
  | _ => false
theorem sent_of {h : Hit} (hh : isSent h = true) : (∃ pa, h = .frozen pa) ∨ ∃ pa u, h = .sent pa u := by
  cases h <;> first | exact .inr ⟨_, _, rfl⟩ | cases hh
/-- Seven entries in a queue of depth 8, pushed by another instruction. -/
def seven : List QEntry := List.replicate 7 ⟨0, .ld, 1, 0, 0, 0, 0, Tab.replicate 64 0, 8⟩
/-- An entry whose slots have all arrived. -/
def arrivedEntry : QEntry := ⟨5, .ld, -1, -1, 0, 0, 0, Tab.replicate 64 7, 8⟩
def qs (es : List QEntry) : State := withGroup (queueing es)
theorem seven_hits (k : AccKind) (hk : k ≠ .other) :
    ∀ e ∈ ((qs seven).laneHits 0 0 0 k 4 (laneAddr (queueing seven) 0 63) (qx seven).act.list).1, (∃ pa, e.2 = .frozen pa) ∨ ∃ pa u, e.2 = .sent pa u := by
  have h : ∀ e ∈ ((qs seven).laneHits 0 0 0 k 4 (laneAddr (queueing seven) 0 63) (qx seven).act.list).1, isSent e.2 = true := by
    cases k
    · decide +kernel
    · decide +kernel
    · decide +kernel
    · exact absurd rfl hk
  exact fun e he => sent_of (h e he)
theorem witness_QueueResult :
    (queueBase ((qs seven).queueWord 0 0 (queueing seven) placedGrid 0) = 0 ∧ queueDepth ((qs seven).queueWord 0 0 (queueing seven) placedGrid 0) = 8 ∧
      ((queueing seven).q.get 0).length < 8 ∧ (qs seven).requestsFull (qx seven) = false ∧ (∀ e ∈ (queueing seven).q.get 0, e.site ≠ (qx seven).pc) ∧
      (∀ p, (queueing seven).lst.get p ≠ .parked) ∧ ((qs seven).Inside (qx seven) fun _ => 4) ∧ (qs seven).spaceOf 0 (queueing seven) = 0 ∧
      (qs seven).Issues (qx seven) [0] [keyV 63, keyV 62, keyS 0, keyV (nextV 62 1)] ∧
      ((qs seven).core 0).replayBefore ((queueing seven).held.getD (qs seven).nextId) = false ∧ ((qs seven).core 0).replay.length ≤ 64) ∧
    ((qs [arrivedEntry]).Issues (qx [arrivedEntry]) [] [] ∧
      (((queueing [arrivedEntry]).q.get 0).find? fun e => e.kind != .st) = some arrivedEntry ∧ arrivedEntry.pending = 0 ∧ arrivedEntry.deferred = 0 ∧
      arrivedEntry.lanes &&& ~~~arrivedEntry.filled = 0 ∧ arrivedEntry.ecc = 0 ∧
      (qs [arrivedEntry]).alloc 0 0 (queueing [arrivedEntry]) placedTeam placedGrid [63] = .ok ∧
      ((qs [arrivedEntry]).Inside (qx [arrivedEntry]) fun _ => 4) ∧
      (((queueing [arrivedEntry]).q.get 0).filter QEntry.incomplete).length ≤ (0 : Fin 64).val) ∧
    (qs []).Issues (qx []) [] [] ∧ ∀ e ∈ (queueing []).q.get 0, e.kind = .st :=
  ⟨⟨by decide +kernel, by decide +kernel, by decide +kernel, by decide +kernel, by decide +kernel, by decide +kernel,
      here_inside (queueing_at _) fun _ => by decide, by decide +kernel, here_issues (queueing_at _) _ _, by decide +kernel, by decide +kernel⟩,
    ⟨here_issues (queueing_at _) _ _, by decide +kernel, by decide +kernel, by decide +kernel, by decide +kernel, by decide +kernel, by decide +kernel,
      here_inside (queueing_at _) fun _ => by decide, by decide +kernel⟩, here_issues (queueing_at _) _ _, by decide +kernel⟩

/-! ### Copies, transfers, counters and records -/

/-- A block of 4,096 bytes within scratch at S4; and an open copy of thread 0. -/
def copying : Group := { young with s := ((young.s.set 5 61440).set 6 (0x1000 + 3 * 2 ^ 13)) }
theorem copying_at : At (withGroup copying) copying placedTeam placedGrid := ⟨rfl, rfl, rfl, rfl, rfl, regs_sound rfl rfl, rfl, rfl, rfl, rfl, rfl, rfl, rfl⟩
def laneCopy : Copy := ⟨3, 0, 0, 0, 1, 0, [0], 0, 0, 0, 0, .lane 0 0 4 true true, 0, 0, 0, 4, none, .moving, [], none, none⟩
def copied : State := { base with copies := [laneCopy] }
theorem copied_at : At copied young placedTeam placedGrid := ⟨rfl, rfl, rfl, rfl, rfl, regs_sound rfl rfl, fresh_young⟩
theorem witness_CopyResult :
    (∃ r, copies (.cpys 63 63 4 false 7) = some r ∧
      (withGroup copying).Issues (here copying placedTeam placedGrid) (lowS r.ds :: r.block) (keyV r.a :: r.block.map keyS) ∧
      (withGroup copying).acquiring (here copying placedTeam placedGrid) = false ∧
      (copying.copyBlock r.sb).w2 / 2 ^ 15 = 0 ∧ (copying.copyBlock r.sb).w3 / 2 ^ 32 = 0 ∧ (copying.copyBlock r.sb).bytes = 4096 ∧
      (∀ p, (here copying placedTeam placedGrid).act.has p = true → (r.from_ (here copying placedTeam placedGrid) p).toNat % 4 = 0 ∧
        (r.to_ (here copying placedTeam placedGrid) p).toNat % 4 = 0 ∧
        (r.from_ (here copying placedTeam placedGrid) p).toNat + 4096 ≤ placedGrid.scratchBytes ∧
        (r.to_ (here copying placedTeam placedGrid) p).toNat + 4096 ≤ placedGrid.scratchBytes)) ∧
    ((withGroup copying).Inside (here copying placedTeam placedGrid) fun _ => 4) ∧
    (base.Issues bx [127] [] ∧ (∀ p, bx.act.has p = true → (bx.g.batch.get p).toNat + 1 < 2 ^ 32) ∧
      (base.copies.any fun k => k.openFor bx bx.act.list) = false) ∧
    copied.Issues bx [127] [] ∧ (copied.copies.any fun k => k.openFor bx bx.act.list) = true :=
  ⟨⟨_, rfl, here_issues copying_at _ _, by decide +kernel, by decide +kernel, by decide +kernel, by decide +kernel, by decide +kernel⟩,
    here_inside copying_at fun _ => by decide, ⟨base_issues _ _, by decide +kernel, by decide +kernel⟩, here_issues copied_at _ _, by decide +kernel⟩
/-- A peer frame mapped at 0x40000000, behind a trained port; and S0 naming the descriptor at scratch offset 65472. -/
def describing : Group := { young with s := (young.s.set 0 65472).set 1 0 }
def peered : State :=
  let s := placed describing placedTeam fun k => { k with pool := k.pool.putNum (65536 + 65472 + 8) 8 0x40000000 }
  { s with mem := (s.mem.putNum 0x110000 8 0x120001).putNum 0x130008 8 (2 ^ 47 + 0x7F), ports := s.ports.map fun p => { p with trained := true } }
theorem peered_at : At peered describing placedTeam placedGrid := ⟨rfl, rfl, rfl, rfl, rfl, regs_sound rfl rfl, rfl, rfl, rfl, rfl, rfl, rfl, rfl⟩
def px : Ctx := here describing placedTeam placedGrid
/-- A descriptor of two slices. -/
def sliced : State := placed describing placedTeam fun k => { k with pool := k.pool.putNum (65536 + 65472 + 0x38) 8 16 }
theorem sliced_at : At sliced describing placedTeam placedGrid := ⟨rfl, rfl, rfl, rfl, rfl, regs_sound rfl rfl, rfl, rfl, rfl, rfl, rfl, rfl, rfl⟩
theorem witness_TransferResult :
    (Sound peered ∧ peered.acquiring px = false ∧ (peered.Inside px fun _ => 4) ∧ peered.Issues px [0, 1] [keyS 0, keyS 1] ∧
      (peered.team 0 0).isSome = true ∧ ((peered.team 0 0).elim [] Team.bulks = []) ∧ 65472 + 64 ≤ placedGrid.scratchBytes ∧
      (peered.bulkAt (peered.callerOf px) 65472).2 = false ∧
      bulkChecks (peered.callerOf px) (peered.bulkAt (peered.callerOf px) 65472).1 false 0 0 (wordOf (.cbulk .dev 0 1 0)) = none ∧
      (peered.bulkAt (peered.callerOf px) 65472).1.nsl = 1) ∧
    (Sound sliced ∧ sliced.Issues px [0, 1] [keyS 0, keyS 1] ∧ (sliced.bulkAt (sliced.callerOf px) 65472).2 = false ∧
      bulkChecks (sliced.callerOf px) (sliced.bulkAt (sliced.callerOf px) 65472).1 false 0 0 (wordOf (.cbulk .dev 0 1 0)) = none ∧
      (sliced.bulkAt (sliced.callerOf px) 65472).1.nsl ≠ 1) ∧
    peered.peerChecks (peered.callerOf px) (peered.peerAt (peered.callerOf px) 65472) true (wordOf (.rput .dev 0 1 0)) = none ∧
    peered.peerChecks (peered.callerOf px) (peered.peerAt (peered.callerOf px) 65472) false (wordOf (.rget 0 1 0)) = none :=
  ⟨⟨⟨rfl, by decide +kernel⟩, by decide +kernel, here_inside peered_at fun _ => by decide, here_issues peered_at _ _, rfl, rfl, by decide +kernel,
      by decide +kernel, by decide +kernel, by decide +kernel⟩,
    ⟨⟨rfl, by decide +kernel⟩, here_issues sliced_at _ _, by decide +kernel, by decide +kernel, by decide +kernel⟩, by decide +kernel, by decide +kernel⟩
/-- A transfer of `nsl` slices open at the same descriptor, with slice 1 arrived; S1 names slice `k`. -/
def slices (nsl : Nat) : BulkOpen := ⟨65472, .sys, ⟨0, 0, 1, 4, 0, 0, placedBase + 8, 1, placedBase, 4, true, true, nsl⟩, 2⟩
def nextSlice (k : DWord) : Group := { describing with s := describing.s.set 1 k }
def sliceTeam (nsl : Nat) : Team := { placedTeam with bulks := [slices nsl] }
def slicing (nsl : Nat) (k : DWord) : State := placed (nextSlice k) (sliceTeam nsl) id
def sx (nsl : Nat) (k : DWord) : Ctx := here (nextSlice k) (sliceTeam nsl) placedGrid
theorem slicing_at (nsl : Nat) (k : DWord) : At (slicing nsl k) (nextSlice k) (sliceTeam nsl) placedGrid :=
  ⟨rfl, rfl, rfl, rfl, rfl, regs_sound rfl rfl, rfl, rfl, rfl, rfl, rfl, rfl, rfl⟩
theorem witness_TransferResult_open :
    (∀ e ∈ [(3, (0 : DWord)), (2, 0), (2, 63)], Sound (slicing e.1 e.2) ∧ (slicing e.1 e.2).acquiring (sx e.1 e.2) = false ∧
      ((slicing e.1 e.2).Inside (sx e.1 e.2) fun _ => 4) ∧ (slicing e.1 e.2).Issues (sx e.1 e.2) [0, 1] [keyS 0, keyS 1] ∧
      (((slicing e.1 e.2).team 0 0).elim [] Team.bulks).find? (fun o => o.desc == ((nextSlice e.2).s.get 0).toNat) = some (slices e.1)) ∧
    (let joins (nsl : Nat) (k : DWord) : Nat := (List.finRange 64).countP fun n =>
        ((slices nsl).arrived ||| (1#64 <<< (((nextSlice k).s.get 1).toNat % 64))).getLsbD n.val;
      joins 3 0 ≠ 3 ∧ joins 2 0 = 2 ∧ ((nextSlice 0).s.get 1).toNat % 64 < 2 ∧ 2 ≤ ((nextSlice 63).s.get 1).toNat % 64) := by
  refine ⟨fun e he => ⟨⟨rfl, ?_⟩, ?_, here_inside (slicing_at _ _) fun _ => by decide, here_issues (slicing_at _ _) _ _, ?_⟩, by decide +kernel⟩ <;>
    · simp only [List.mem_cons, List.not_mem_nil, or_false] at he
      obtain rfl | rfl | rfl := he <;> decide +kernel
theorem sent_pair {h : Hit × State} (hh : isSent h.1 = true) : ∃ pa u t, h = (.sent pa u, t) := by
  obtain ⟨h1, t⟩ := h
  cases h1 <;> first | exact ⟨_, _, _, rfl⟩ | cases hh
/-- The same with what a check of the address and the state answers. -/
theorem sent_with {h : Hit × State} (P : Nat → State → Bool) (hh : (match h.1 with
    | .sent pa _ => P pa h.2
    | _ => false) = true) : ∃ pa u t, h = (.sent pa u, t) ∧ P pa t = true := by
  obtain ⟨h1, t⟩ := h
  cases h1 <;> first | exact ⟨_, _, _, rfl, hh⟩ | cases hh
/-- A group whose S0 names the counter at the placed gigabyte's base, with the read that a CNTWAIT has made of it. -/
def counting (m : DWord) : Group := { young with s := (young.s.set 0 placedBase).set 1 m }
def kx (m : DWord) : Ctx := here (counting m) placedTeam placedGrid
def counterReq : Req :=
  ⟨5, 5, .load, .or, false, 0, 0, 0, 1, 0, 0, [0], 0, placedBase, placedPa, 0, none, .dev, true, false, none, 0, 0, false, .done 7 false, 0⟩
def countS (m : DWord) : State := { withGroup (counting m) with reqs := [counterReq] }
theorem countS_at (m : DWord) : At (countS m) (counting m) placedTeam placedGrid := ⟨rfl, rfl, rfl, rfl, rfl, regs_sound rfl rfl, rfl, rfl, rfl, rfl, rfl, rfl, rfl⟩
theorem witness_CounterResult :
    ((countS 7).Issues (kx 7) [0, 1] [keyS 0, keyS 1] ∧ ((countS 7).Inside (kx 7) fun _ => 4) ∧
      ((countS 7).core 0).replayBefore ((counting 7).held.getD (countS 7).nextId) = false ∧
      ∃ pa u t, (countS 7).laneHit 0 0 ((countS 7).callerOf (kx 7)).space .atomic 8 ((countS 7).callerOf (kx 7)).pos placedBase = (.sent pa u, t)) ∧
    ((countS 7).counterRead ((countS 7).callerOf (kx 7)) placedBase = some counterReq ∧ ((counting 7).s.get 1).toNat ≤ (7 : DWord).toNat) ∧
    (countS 8).Issues (kx 8) [0, 1] [keyS 0, keyS 1] ∧
    (countS 8).counterRead ((countS 8).callerOf (kx 8)) placedBase = some counterReq ∧ (7 : DWord).toNat < ((counting 8).s.get 1).toNat ∧
    ∀ e ∈ (countS 8).teamGroups 0 0, e.2.brm = none :=
  ⟨⟨here_issues (countS_at _) _ _, here_inside (countS_at _) fun _ => by decide, by decide +kernel, sent_pair (by decide +kernel)⟩,
    ⟨by decide +kernel, by decide +kernel⟩, here_issues (countS_at _) _ _, by decide +kernel, by decide +kernel, no_brm placedTeam id rfl 0 0⟩
/-- Work queue 1 of space 0, with room for four records, and a firing of a graph with an edge in and an edge out. -/
def workS (tail : Nat) : State :=
  { (withGroup (counting 1)).modDie 0 fun d => { d with wqtab := 0x200002 } with
    mem := ((base.mem.putNum 0x200040 8 0x300000).putNum 0x20004C 4 tail).putNum 0x200050 8 (2 ^ 34) }
theorem workS_at (n : Nat) : At (workS n) (counting 1) placedTeam placedGrid := ⟨rfl, rfl, rfl, rfl, rfl, regs_sound rfl rfl, rfl, rfl, rfl, rfl, rfl, rfl, rfl⟩
def edges : List GEdge := [⟨0, 1, 0, 1, 1, 1, 4, placedBase.toNat + 0x10000, 1, 0⟩, ⟨1, 0, 1, 1, 1, 1, 4, placedBase.toNat + 0x20000, 0, 0⟩]
def firing0 : Firing := ⟨8, 0, 0, 0, true, 0, [], false⟩
def graph0 : Graph := ⟨3, 0x1000, 0, 0, 0, ⟨[], edges, [], 0, none⟩, 0, 0, [firing0], 0, [], 0, 0, 0, none, none⟩
def firingGrid : Grid := { placedGrid with firing := some (3, 8) }
def graphS : State := { withGroup (counting 1) with grids := [firingGrid], graphs := [graph0] }
theorem graphS_at : At graphS (counting 1) placedTeam firingGrid := ⟨rfl, rfl, rfl, rfl, rfl, regs_sound rfl rfl, rfl, rfl, rfl, rfl, rfl, rfl, rfl⟩
def gx : Ctx := here (counting 1) placedTeam firingGrid
/-- The same with the page frozen in its entry. -/
def frozenS : State := { graphS with mem := graphS.mem.putNum 0x130000 8 (graphS.mem.num 0x130000 8 + 0x100) }
theorem frozenS_at : At frozenS (counting 1) placedTeam firingGrid := ⟨rfl, rfl, rfl, rfl, rfl, regs_sound rfl rfl, rfl, rfl, rfl, rfl, rfl, rfl, rfl⟩
theorem frozen_with {h : Hit × State} (hh : (match h.1 with
    | .frozen _ => true
    | _ => false) = true) : ∃ pa t, h = (.frozen pa, t) := by
  obtain ⟨h1, t⟩ := h
  cases h1 <;> first | exact ⟨_, _, rfl⟩ | cases hh
theorem workS_brm (n : Nat) : ∀ g ∈ (workS n).teamGroups 0 0, g.2.brm = none :=
  no_brm (g := counting 1) placedTeam id rfl 0 0
theorem workS_served (n : Nat) : (workS n).served = [] := rfl
theorem witness_RecordResult :
    (((workS 4).Inside (kx 1) fun _ => 4) ∧ ((counting 1).s.get 1).toNat < 65536 ∧
      (workS 4).Issues (kx 1) (1 :: (List.range 8).map (nextS 120)) (keyS 1 :: ((List.range 8).map (nextS 120)).map keyS) ∧
      (workS 4).workExists 0 1 0 true = true ∧ (workS 4).workCount ((workS 4).workEntry 0 1) = 4 ∧
      (workS 4).workSize ((workS 4).workEntry 0 1) = 4 ∧ (∀ r ∈ (workS 4).served, r.takenBy placedTeam.admitted (counting 1).threads = false) ∧
      (workS 4).acquiring (kx 1) = false ∧ Sound (workS 4) ∧
      (workS 4).lineTagged (kx 1) ((workS 4).workRecord ((workS 4).workEntry 0 1) ((workS 4).workHead ((workS 4).workEntry 0 1))) = false ∧
      (∀ g ∈ (workS 4).teamGroups 0 0, g.2.brm = none)) ∧
    (workS 3).workCount ((workS 3).workEntry 0 1) < (workS 3).workSize ((workS 3).workEntry 0 1) ∧ Releases (workS 3) (kx 1) .dev ∧
    (workS 3).workExists 0 1 0 true = true ∧ (workS 3).acquiring (kx 1) = false ∧ (workS 3).workOpen 0 1 = true ∧
    (graphS.Issues gx (0 :: (List.range 8).map (nextS 120)) [keyS 0] ∧ ∃ p pa u t, graphS.graphPort gx 0 false = some p ∧
      graphS.laneHit 0 0 0 .load 8 gx.act.first (nextRecordVa p) = (.sent pa u, t) ∧ inVault pa = true ∧ Sound t ∧
      t.acquiring gx = false ∧ t.lineTagged gx pa = false ∧ t.linkHeld 0 pa = false ∧
      ∀ r ∈ t.reqs, r.open_ = true → (r.writes = true ∧ r.core = 0) ∨ gx.made r = true → overlap r.pa r.size pa 64 = false) ∧
    (graphS.acquiring gx = false ∧ Releases graphS gx .dev ∧ ∃ p pa u t, graphS.graphPort gx 1 true = some p ∧
      graphS.laneHit 0 0 0 .store 8 gx.act.first (nextRecordVa p) = (.sent pa u, t) ∧ inVault pa = true ∧ t.linkHeld 0 pa = false) ∧
    (frozenS.Issues gx (1 :: (List.range 8).map (nextS 120)) (keyS 1 :: ((List.range 8).map (nextS 120)).map keyS) ∧
      frozenS.acquiring gx = false ∧ Releases frozenS gx .dev ∧ ∃ p pa t, frozenS.graphPort gx 1 true = some p ∧
      frozenS.laneHit 0 0 0 .store 8 gx.act.first (nextRecordVa p) = (.frozen pa, t)) := by
  refine ⟨⟨here_inside (workS_at _) fun _ => by decide, by decide +kernel, here_issues (workS_at _) _ _, by decide +kernel, by decide +kernel,
      by decide +kernel, fun r hr => (by rw [workS_served] at hr; exact absurd hr List.not_mem_nil), by decide +kernel, ⟨rfl, by decide +kernel⟩,
      by decide +kernel, workS_brm 4⟩, by decide +kernel, .inr (by decide +kernel), by decide +kernel, by decide +kernel, by decide +kernel,
    ⟨here_issues graphS_at _ _, ?_⟩, ⟨by decide +kernel, .inr (by decide +kernel), ?_⟩,
    here_issues frozenS_at _ _, by decide +kernel, .inr (by decide +kernel), ?_⟩
  · obtain ⟨pa, u, t, h, hp⟩ := sent_with (h := graphS.laneHit 0 0 0 .load 8 gx.act.first (nextRecordVa ⟨3, firing0, edges[0], 1, 0⟩))
      (fun pa t => inVault pa && decide (t.marks = [] ∧ ∀ d, (t.die d).errinj.getLsbD 8 = false) && !t.acquiring gx && !t.lineTagged gx pa &&
        !t.linkHeld 0 pa && decide (t.reqs = [])) (by decide +kernel)
    simp only [Bool.and_eq_true, decide_eq_true_eq, Bool.not_eq_true'] at hp
    exact ⟨_, pa, u, t, rfl, h, hp.1.1.1.1.1, hp.1.1.1.1.2, hp.1.1.1.2, hp.1.1.2, hp.1.2, fun r hr => absurd (hp.2 ▸ hr) List.not_mem_nil⟩
  · obtain ⟨pa, u, t, h, hp⟩ := sent_with (h := graphS.laneHit 0 0 0 .store 8 gx.act.first (nextRecordVa ⟨3, firing0, edges[1], 1, 0⟩))
      (fun pa t => inVault pa && !t.linkHeld 0 pa) (by decide +kernel)
    simp only [Bool.and_eq_true, Bool.not_eq_true'] at hp
    exact ⟨_, pa, u, t, rfl, h, hp⟩
  · obtain ⟨pa, t, h⟩ := frozen_with (h := frozenS.laneHit 0 0 0 .store 8 gx.act.first (nextRecordVa ⟨3, firing0, edges[1], 1, 0⟩))
      (by decide +kernel)
    exact ⟨_, pa, t, rfl, h⟩
/-- No group waits at a work queue. -/
theorem witness_RecordResult_first : (workS 4).olderWaiter 0 1 0 0 0 = false := by
  rw [State.olderWaiter, List.any_eq_false]
  intro oc _
  rw [Bool.and_eq_true, not_and]
  intro _
  rw [List.any_eq_true]
  rintro ⟨og, -, h⟩
  split at h
  · cases h
  · rename_i g hg
    have : g = counting 1 := (group_of (t := placedTeam) (f := id) hg).2.2
    subst this
    cases h

/-! ### The matrix engine, streams and width -/

/-- Tiles of 32 rows and 64 columns of K8P4SF, the shape that file 11 works out; S0 holds the shape. -/
def shaped : Group := { young with s := young.s.set 0 0x4020 }
def shapedS : State := { placed shaped placedTeam fun k => { k with tsh := Tab.replicate 16 0x4020 } with grids := [slotGrid] }
theorem shaped_at : At shapedS shaped placedTeam slotGrid := ⟨rfl, rfl, rfl, rfl, rfl, regs_sound rfl rfl, rfl, rfl, rfl, rfl, rfl, rfl, rfl⟩
def ex : Ctx := here shaped placedTeam slotGrid
def eng : Eng := ⟨0, placedTeam, slotGrid, 0, shaped.s.get⟩
def engStream : State := streaming idleStream slotGrid
theorem witness_EngineResult :
    (∃ r, engineRow (.tcfg 15 0 0) = some r ∧ shapedS.Issues ex r.toks r.uses ∧ r.ok eng shapedS) ∧
    (∃ r, engineRow (.mma 0 15 1 0) = some r ∧ shapedS.Issues ex r.toks r.uses ∧ r.ok eng shapedS) ∧
    Sound shapedS ∧ (shapedS.core 0).engine = none ∧ shapedS.acquiring ex = false ∧ 1 ≤ ex.grid.accg ∧ (shapedS.Inside ex fun _ => 4) ∧
    (∃ r, engineRow (.accz 0 0) = some r ∧ engStream.StreamIssues (hereS idleStream slotGrid) r.toks ∧
      r.ok ⟨0, placedTeam, slotGrid, 0, idleStream.s.get⟩ engStream) ∧ Sound engStream ∧ (engStream.core 0).engine = none :=
  ⟨⟨_, rfl, here_issues shaped_at _ _, by simp only [engine]; decide +kernel⟩,
    ⟨_, rfl, here_issues shaped_at _ _, by simp only [engine]; decide +kernel⟩, ⟨rfl, by decide +kernel⟩, rfl, by decide +kernel, by decide,
    here_inside shaped_at fun _ => by decide,
    ⟨_, rfl, stream_issues rfl rfl rfl _, by simp only [engine]; decide +kernel⟩, ⟨rfl, by decide +kernel⟩, rfl⟩
theorem witness_TransposeResult : Sound shapedS ∧ shapedS.Issues ex [] [] ∧ (shapedS.core 0).engine = none ∧ shapedS.acquiring ex = false ∧
    1 ≤ ex.grid.accg ∧ (shapedS.Inside ex fun _ => 4) ∧ (shapedS.tile eng 15).rows = 32 ∧ (shapedS.tile eng 15).cols = 64 ∧
    (shapedS.tile eng 15).w = 8 :=
  ⟨⟨rfl, by decide +kernel⟩, here_issues shaped_at _ _, rfl, by decide +kernel, by decide, here_inside shaped_at fun _ => by decide,
    by decide +kernel, by decide +kernel, by decide +kernel⟩
/-- The same tiles under a matrix stream. -/
def tiledStream : State := { engStream.modCore 0 fun k => { k with tsh := Tab.replicate 16 0x4020 } with cur := some (.stream 0 false) }
theorem witness_TransposeResult_stream : Sound tiledStream ∧ tiledStream.StreamIssues (hereS idleStream slotGrid) [] ∧
    (hereS idleStream slotGrid).copy = false ∧ (tiledStream.core 0).engine = none ∧ 1 ≤ slotGrid.accg ∧
    (tiledStream.tile ⟨0, placedTeam, slotGrid, 0, idleStream.s.get⟩ 15).rows = 32 ∧
    (tiledStream.tile ⟨0, placedTeam, slotGrid, 0, idleStream.s.get⟩ 15).cols = 64 ∧
    (tiledStream.tile ⟨0, placedTeam, slotGrid, 0, idleStream.s.get⟩ 15).w = 8 :=
  ⟨⟨rfl, by decide +kernel⟩, stream_issues rfl rfl rfl _, rfl, rfl, by decide, by decide +kernel, by decide +kernel, by decide +kernel⟩
theorem witness_ProductResult : Sound shapedS ∧ (shapedS.core eng.c).pool.wf = true ∧ eng.t.accG.Nodup ∧
    (denseProduct shapedS eng 0 15 0).acc % 64 = 0 ∧
    (denseProduct shapedS eng 0 15 0).acc + 4 * (denseProduct shapedS eng 0 15 0).m * (denseProduct shapedS eng 0 15 0).n ≤
      65536 * eng.t.accG.length :=
  ⟨⟨rfl, by decide +kernel⟩, rfl, by decide +kernel, by decide +kernel, by decide +kernel⟩
/-- A kernel that declares both streams at offset 0, and a team that has kept a code. -/
def forkGrid : Grid := { placedGrid with kern := { placedKern with strms := [(0, false), (0, true)] } }
def keptTeam (c : Byte) : Team := { placedTeam with kept := c }
def forking (c : Byte) : State := { placed young (keptTeam c) id with grids := [forkGrid] }
def fx (c : Byte) : Ctx := here young (keptTeam c) forkGrid
theorem forking_at (c : Byte) : At (forking c) young (keptTeam c) forkGrid := ⟨rfl, rfl, rfl, rfl, rfl, regs_sound rfl rfl, fresh_young⟩
theorem witness_ForkResult :
    (((forking 0).Inside (fx 0) fun _ => 4) ∧ ((forking 0).team 0 0).isSome = true ∧
      (forking 0).Issues (fx 0) (List.finRange 128) ((List.finRange 128).map keyS) ∧
      (forking 0).forkChecks (fx 0) false 0 0 (forkPlace (fx 0) false) (wordOf (.fork 126 false 7)) = none ∧ Releases (forking 0) (fx 0) .team ∧
      ((forking 0).core (forkPlace (fx 0) false).1).matrixStream = none ∧ ((forking 0).core (forkPlace (fx 0) false).1).copyStream = none) ∧
    (forking 0).streamsIdle 0 0 (keptTeam 0) = true ∧ (forking 0).streamWritesOpen (fx 0) = false ∧ ((forking 0).team 0 0).map Team.kept = some 0 ∧
    ((forking 1).Inside (fx 1) fun _ => 4) ∧ (forking 1).Issues (fx 1) [] [] ∧ (forking 1).streamsIdle 0 0 (keptTeam 1) = true ∧
    (forking 1).streamWritesOpen (fx 1) = false ∧
    ((forking 1).team 0 0).map Team.kept = some 1 ∧ (1 : Byte) ≠ 0 :=
  ⟨⟨here_inside (forking_at _) fun _ => by decide, rfl, here_issues (forking_at _) _ _, by decide +kernel, .inr (by decide +kernel),
      rfl, rfl⟩, by decide +kernel, by decide +kernel, rfl, here_inside (forking_at _) fun _ => by decide, here_issues (forking_at _) _ _,
    by decide +kernel, by decide +kernel, rfl, by decide⟩
/-- Why a group at width 64 keeps its width when SETW asks for 16 (R18, R298). -/
def Keeps (s : State) (x : Ctx) : Prop :=
  x.g.grant.lanes ≤ Grant.w16.lanes ∨ s.queuesBusy x.c x.g = true ∨ s.asyncOf x.c x.g = true ∨ (s.core x.c).freeGroups.length < 3 ∨
    (∃ b < 4, ∃ c < 4, b ≠ c ∧ (∃ p < 16, x.g.hlanes.has (Fin.ofNat 64 (b * 16 + p)) = true) ∧
      ∃ p < 16, x.g.hlanes.has (Fin.ofNat 64 (c * 16 + p)) = true) ∨
    (x.g.hmode = true ∧ ∃ k, s.bankOf x.c x.gid x.g = some k ∧ (s.queuesBusy x.c k.snap = true ∨ k.snap.tok ≠ 0))
theorem witness_WidthResult :
    base.Issues bx [127, 126] [keyS 126] ∧ base.Issues bx [127] [] ∧ (∀ p, bx.g.lst.get p ≠ .parked) ∧ (base.Inside bx fun _ => bx.pc + 4) ∧
    (bx.g.s.get 126).toNat = 0 ∧ ((0 : Nat) = 0 ∨ 32 < (0 : Nat)) ∧ ¬Keeps base bx ∧ (∀ b ∈ bx.g.busy, b.left = 0) := by
  refine ⟨base_issues _ _, base_issues _ _, by decide +kernel, base_next, by decide +kernel, by decide, ?_, fun b hb => by cases hb⟩
  rintro (h | h | h | h | ⟨b, -, c, -, -, ⟨p, -, h⟩, -⟩ | ⟨h, -⟩)
  · exact absurd h (by decide +kernel)
  · exact absurd h (by decide +kernel)
  · exact absurd h (by decide +kernel)
  · exact absurd h (by decide +kernel)
  · rw [show bx.g.hlanes = 0 from rfl] at h; simp [Lanes.has] at h
  · cases h
/-- A group of which only the first 16 lanes are in handler mode, and one of which all are. -/
def handledPart : Group := { handled with hlanes := 0xFFFF }
def partS : State := (withGroup handledPart).modCore 0 fun k => { k with banks := k.banks.set 0 (some heldBank) }
def wx : Ctx := ⟨0, 0, handledPart, placedTeam, 0, 0, placedGrid, 0, 0xFFFF⟩
theorem part_ctx : partS.ctxOf 0 0 = some wx := by
  have hg : partS.group 0 0 = some handledPart := rfl
  have ht : partS.team 0 handledPart.team = some placedTeam := rfl
  have hr : partS.grid placedTeam.grid = some placedGrid := rfl
  have h1 : handledPart.issueAddr = some 0 := by decide +kernel
  have h2 : handledPart.actAt 0 = 0xFFFF := by decide +kernel
  simp only [State.ctxOf, hg, ht, hr, h1, h2]
  rfl
theorem witness_WidthResult_handler :
    (partS.Issues wx [127] [] ∧ (∀ p, handledPart.lst.get p ≠ .parked) ∧ (partS.Inside wx fun _ => 4) ∧ ¬Keeps partS wx ∧
      handledPart.hmode = true ∧ partS.bankOf 0 0 handledPart = some heldBank ∧ handledPart.dels = []) ∧
    returning.Issues rx [127] [] ∧ (∀ p, handled.lst.get p ≠ .parked) ∧ (returning.Inside rx fun _ => 4) ∧ Keeps returning rx := by
  have hl : ∀ p, partS.laneLen 0 0 handledPart p = if p.val < 16 then 0x100 else 0x10000 := by decide +kernel
  have hr : ∀ p, returning.laneLen 0 0 handled p = 0x100 := by decide +kernel
  have hn : ∀ p, ((wx.lpcAfter fun _ => 4).get p).toNat < 0x100 := by decide +kernel
  have hm : ∀ p, ((rx.lpcAfter fun _ => 4).get p).toNat < 0x100 := by decide +kernel
  refine ⟨⟨⟨rfl, part_ctx, by simp [wx, handledPart, handled, young, Group.fresh], by simp, rfl⟩, by decide +kernel, fun p _ _ h => ?_, ?_,
    by decide +kernel, by decide +kernel, rfl⟩, returning_issues _ _, by decide +kernel, fun p _ _ h => ?_, ?_⟩
  · have h : ((wx.lpcAfter fun _ => 4).get p).toNat = partS.laneLen 0 0 handledPart p := h
    have := hn p; rw [hl p] at h; split at h <;> omega
  · rintro (h | h | h | h | ⟨b, hb, c, hc, hne, ⟨p, hp, h⟩, q, hq, h'⟩ | ⟨-, k, hk, h⟩)
    · exact absurd h (by decide +kernel)
    · exact absurd h (by decide +kernel)
    · exact absurd h (by decide +kernel)
    · exact absurd h (by decide +kernel)
    · have hv : ∀ p : Fin 64, Lanes.has wx.g.hlanes p = true → p.val < 16 := by decide +kernel
      have h1 := hv _ h; have h2 := hv _ h'
      simp only [Fin.ofNat] at h1 h2
      omega
    · rw [show partS.bankOf wx.c wx.gid wx.g = some heldBank by decide +kernel] at hk
      obtain rfl := Option.some.inj hk
      exact absurd h (by decide +kernel)
  · have h : ((rx.lpcAfter fun _ => 4).get p).toNat = returning.laneLen 0 0 handled p := h
    have := hm p; rw [hr p] at h; omega
  · exact .inr (.inr (.inr (.inr (.inl ⟨0, by decide, 1, by decide, by decide, ⟨0, by decide, by decide +kernel⟩, 0, by decide, by decide +kernel⟩))))

/-! ### Decoding and the step -/

theorem ok_of {ε α : Type} {e : Except ε α} {a : α} (h : e.toOption = some a) : e = .ok a := by
  cases e <;> simp_all [Except.toOption]
theorem xl_of {h : Xlate × State} {pa u : Nat} (hh : h.1 = .ok pa u) : h = (.ok pa u, h.2) := by rw [← hh]
theorem witness_DecodeOfEncode : encode (.ffma 5 2 (.v 9) true false 3) = some ⟨true, 0x1210B0E7⟩ ∧
    (Instr.ffma 5 2 (.v 9) true false 3).wellFormed = true := by decide +kernel
theorem witness_EncodeOfDecode : 0x1210B0E7 < 2 ^ 32 ∧ 0x1210B0E7 % 2 = 1 ∧ decode32 0x1210B0E7 = .ok (.ffma 5 2 (.v 9) true false 3) ∧
    0xFFFE < 2 ^ 16 ∧ 0xFFFE % 2 = 0 := ⟨by decide, by decide, rfl, by decide, by decide⟩
/-- The machine after reset with a word placed where it fetches next, the issue of which is the next action. -/
def fetching (w : Nat) : State := State.reset.withFetchWord 32 w
def fetching0 (w : Nat) : State := { fetching w with agenda := [] }
def fetching1 (w : Nat) : State := { fetching0 w with cur := some (.group 0 0) }
def fetch1 (w : Nat) : Xlate × State := (fetching1 w).translate 0 0 placedBase .load .fetch
def fetch2 (w : Nat) : Xlate × State := (fetch1 w).2.translate 0 0 (placedBase + 2) .load .fetch
def word (w : Nat) : List Byte := (fetch1 w).2.mem.bytes placedPa 2 ++ (fetch2 w).2.mem.bytes (placedPa + 2) 2
theorem fetching_at (w : Nat) : At (fetching1 w) young placedTeam placedGrid := ⟨rfl, rfl, rfl, rfl, rfl, regs_sound rfl rfl, fresh_young⟩
theorem witness_StepRunsDecoded (w : Nat) (hw : w = 0x1210B0E7 ∨ w = 1 ∨ w = 0x0BAA) :
    (fetching w).agenda = [.issue (.group 0 0)] ∧ (fetching0 w).ready (.group 0 0) = true ∧
    (fetching1 w).ctxOf 0 0 = some bx ∧ ¬(bx.g.stop = .atSafePoint ∧ bx.atSafePoint (fetching1 w) = true) ∧
    (fetching1 w).spaceOf 0 bx.g = 0 ∧ (fetching1 w).fetchVa bx = placedBase ∧ fetch1 w = (.ok placedPa 1, (fetch1 w).2) ∧
    fetch2 w = (.ok (placedPa + 2) 1, (fetch2 w).2) := by
  refine ⟨rfl, ?_, here_ctx (fetching_at w), by simp [bx, here, young, Group.fresh], rfl, rfl, xl_of ?_, xl_of ?_⟩ <;>
    obtain rfl | rfl | rfl := hw <;> decide +kernel
theorem witness_StepRunsDecoded_words :
    leNat ((fetch1 0x1210B0E7).2.mem.bytes placedPa 2) % 2 = 1 ∧ decodeBytes (word 0x1210B0E7) = .ok (.ffma 5 2 (.v 9) true false 3, 4) ∧
    leNat ((fetch1 1).2.mem.bytes placedPa 2) % 2 = 1 ∧ (∃ e, decodeBytes (word 1) = .error e) ∧
    leNat ((fetch1 0x0BAA).2.mem.bytes placedPa 2) % 2 = 0 ∧ decodeBytes ((fetch1 0x0BAA).2.mem.bytes placedPa 2) = .ok (decode16 0x0BAA, 2) := by
  refine ⟨by decide +kernel, ok_of (by decide +kernel), by decide +kernel, ?_, by decide +kernel, ok_of (by decide +kernel)⟩
  have h : word 1 = [1, 0, 0, 0] := by decide +kernel
  rw [h]; exact ⟨_, rfl⟩
theorem witness_StepRunsDecoded_stream :
    let s := streaming idleStream placedGrid
    ({ s with cur := none }).ready (.stream 0 false) = true ∧ s.sctx = some bsx ∧ bsx.st.pc.toNat < bsx.grid.kern.len ∧
    (s.translate 0 0 (placedBase + 0) .load .fetch).1 = .ok placedPa 1 := by
  refine ⟨by decide +kernel, rfl, by decide, by decide +kernel⟩
theorem witness_StepRunsDecoded_event : ({ base with agenda := [.happen .boot] }).agenda = .happen .boot :: [] ∧ encode .boot = none := ⟨rfl, rfl⟩
theorem witness_StepKeepsMemory : memsWf (fetching 0x1210B0E7) ∧ ∃ t, step (fetching 0x1210B0E7) = .next t := by
  refine ⟨⟨show (fetching 0x1210B0E7).mem.wf = true by decide +kernel, by decide +kernel⟩, ?_⟩
  have h : (match step (fetching 0x1210B0E7) with | .next _ => true | _ => false) = true := by decide +kernel
  revert h
  cases step (fetching 0x1210B0E7) with
  | next t => exact fun _ => ⟨t, rfl⟩
  | fault f => exact fun h => (nomatch h)
  | refused r => exact fun h => (nomatch h)

/-! ### What happens after the issue -/

/-- A request of group 0 for the word at the placed gigabyte's base. -/
def reqOf (k : AccKind) (ph : ReqPhase) (en : Option (Fin 8 × Nat)) : Req :=
  ⟨5, 5, k, .addN32, false, 0, 0, 0, 1, 0, 0, [0], 0, placedBase, placedPa, 0, en, .dev, true, false, none, 0, 0, false, ph, 0⟩
def asking (r : Req) : State := { base with reqs := [r] }
def waitingEntry : QEntry := ⟨9, .ld, -1, 0, 0, 0, 0, Tab.replicate 64 7, 8⟩
def answered : Req := reqOf .load (.done 3 false) (some (0, 9))
def answers : State := { base.modCore 0 fun k => { k with groups := k.groups.set 0 (some { young with q := young.q.set 0 [waitingEntry] }) } with
  reqs := [answered] }
def tagged : State := { asking (reqOf .load .sent none) with tags := [⟨placedPa / 64, 1, 3⟩] }
def xlWait : XlReq := ⟨8, 1, 0, placedBase⟩
def xlState : State := base.modDie 0 fun d => { d with xlreqs := [xlWait] }
theorem sound_base : Sound base := ⟨rfl, by decide +kernel⟩
theorem witness_AccessEvents :
    (∀ k ∈ [AccKind.load, .store, .atomic], let r := reqOf k .sent none;
      (asking r).reqs.find? (fun e => e.id == 5) = some r ∧ (asking r).mayPerform r = true ∧ (asking r).linkHeld r.core r.pa = false ∧
      r.outside = false ∧ (asking r).tagMet r = none ∧ (asking r).marks = [] ∧ ∀ d, ((asking r).die d).errinj.getLsbD 8 = false) ∧
    (∃ g, tagged.tagMet (reqOf .load .sent none) = some g ∧
      ∀ e ∈ tagged.reqs, e.core = g.core → e.writes = true → e.open_ = true → e.push ≤ g.rel →
        Scope.dev ≠ .sys ∧ e.outside = true) ∧
    (answers.reqs.find? (fun e => e.id == 5) = some answered ∧ answers.olderData answered = false ∧
      answers.linkHeld answered.core answered.pa = false ∧ Sound answers ∧ answers.findGroup 0 0 = some 0 ∧
      ∃ g, answers.group 0 0 = some g ∧ waitingEntry ∈ g.q.get 0) ∧
    (let r := reqOf .load .frozen none;
      ((asking r).core 0).replayFor 0 placedBase = none ∧ ∃ pa u t, (asking r).translate 0 0 placedBase .load .core = (.ok pa u, t) ∧
        (asking r).heldAhead 5 (t.xlatePage 0 placedBase (.ok pa u)) = false) ∧
    (xlState.die 0).xlreqs.find? (fun y => y.id == 8) = some xlWait ∧ (∀ e, e ≠ 0 → ∀ y ∈ (xlState.die e).xlreqs, y.id ≠ 8) ∧
    ∃ pa u, (xlState.translate 1 0 placedBase .load .core).1 = .ok pa u :=
  ⟨by decide +kernel, ⟨_, rfl, by decide +kernel⟩, ⟨rfl, by decide +kernel, by decide +kernel, ⟨rfl, by decide +kernel⟩, by decide +kernel, _, rfl, by decide +kernel⟩,
    ⟨by decide +kernel, placedPa, 1, _, xl_of (by decide +kernel), by decide +kernel⟩, rfl, by decide +kernel, placedPa, 1, by decide +kernel⟩
/-- A copy of the placed team, with its job and how far it has come. -/
def copyOf (j : CopyJob) (ph : CopyPhase) : Copy := ⟨3, 0, 0, 0, 1, 0, [0], 0, 0, 0, 0, j, 0, 0, 0, 4, none, ph, [], none, none⟩
def bulkDesc : BulkDesc := ⟨0, 0, 1, 4, 0, 0, placedBase + 8, 1, placedBase, 4, true, true, 1⟩
def moving (k : Copy) : State := { base with copies := [k] }
def tokenS : State := { base with tokens := [⟨6, 0, 0, 0, false, 5, false⟩] }
def invalidating (pa : Option Nat) : Xlinv := ⟨4, 0, 0, 0, 1, [0], [], 0, placedBase, pa⟩
def xlinvS (pa : Option Nat) : State := { base with xlinvs := [invalidating pa] }
def awayReq (k : AccKind) : Req := { reqOf k .away none with pa := 2 ^ 46 }
theorem at_of {h : EngineAt × State} {a : EngineAt} (hh : h.1 = a) : h = (a, h.2) := by rw [← hh]
theorem witness_CopyEvents :
    (let k := copyOf (.lane 0 65532 4 true true) .moving;
      (moving k).copies.find? (fun e => e.id == 3) = some k ∧ (moving k).team k.core k.slot = some placedTeam ∧
        (65532 : DWord).toNat + 4 ≤ (moving k).copyScratch k ∧ (65532 : DWord).toNat / 65536 = ((65532 : DWord).toNat + 4 - 1) / 65536 ∧
        (moving k).marks = [] ∧ ∀ d, ((moving k).die d).errinj.getLsbD 8 = false) ∧
    (let k := copyOf (.lane 0 65532 4 true true) .status; (moving k).copies.find? (fun e => e.id == 3) = some k ∧ k.phase = .status) ∧
    (let k := copyOf (.bulk bulkDesc .dev) .status;
      (moving k).copies.find? (fun e => e.id == 3) = some k ∧ (moving k).copyReleased k .dev = true ∧
        ∃ pa t, (moving k).engineAt k false bulkDesc.stat 8 .store = (.vault pa, t) ∧ Sound t) ∧
    (let k := copyOf (.bulk bulkDesc .dev) .counter;
      (moving k).copies.find? (fun e => e.id == 3) = some k ∧ (moving k).copyReleased k .dev = true ∧
        ∃ pa t, (moving k).engineAt k false bulkDesc.cnt 8 .atomic = (.vault pa, t) ∧ Sound t) ∧
    (∃ k, tokenS.tokens.find? (fun e => e.id == 6) = some k ∧ k.stream = false ∧ tokenS.findGroup k.core k.uid = some 0 ∧
      tokenS.group k.core 0 = some young ∧ tokenS.bankOf k.core 0 young = none ∧ (∀ c ∈ k.copies tokenS, c.phase = .done ∧ c.code = 0)) ∧
    (∀ pa ∈ [none, some placedPa], (xlinvS pa).xlinvs.find? (fun e => e.id == 4) = some (invalidating pa) ∧
      (∀ r ∈ (xlinvS pa).reqs, r.phase = .sent ∨ r.phase = .away → r.xl ∉ (invalidating pa).drops) ∧
      (∀ k ∈ (xlinvS pa).copies, k.isAway = true → k.id ∉ (invalidating pa).drops) ∧ inVault placedPa = true ∧ Sound (xlinvS pa)) ∧
    (∃ t, (xlinvS none).translate 0 0 placedBase .store .host = (.ok placedPa 1, t) ∧ Sound t) ∧
    ∀ k : AccKind, (asking (awayReq k)).reqs.find? (fun e => e.id == 5 && e.phase == .away) = some (awayReq k) ∧ (awayReq k).entry = none :=
  ⟨by decide +kernel, by decide +kernel, ⟨rfl, by decide +kernel, placedPa, _, at_of (by decide +kernel), by decide +kernel, by decide +kernel⟩,
    ⟨rfl, by decide +kernel, placedPa + 8, _, at_of (by decide +kernel), by decide +kernel, by decide +kernel⟩,
    ⟨_, rfl, rfl, by decide +kernel, rfl, rfl, by decide +kernel⟩, fun pa h => by
      simp only [List.mem_cons, List.not_mem_nil, or_false] at h
      obtain rfl | rfl := h <;> exact ⟨rfl, by decide +kernel, by decide +kernel, by decide, rfl, by decide +kernel⟩,
    ⟨_, xl_of (by decide +kernel), by decide +kernel, by decide +kernel⟩,
    fun _ => ⟨rfl, rfl⟩⟩
/-- Groups that wait for each event, alone on core 0. -/
def woke : Group := { young with idle := true, woken := true }
def askedToStop : Group := { young with stop := .requested true }
def delivery : Delivery := ⟨.fault, 5, 1, 0, true, .other, 0, 0, 0, 0, false⟩
def due : Group := { young with dels := [delivery] }
def atBrm : Group := { young with brm := some ⟨0, 8, 0, false, 256⟩ }
def waitKern : Kern := { placedKern with waits := [(0, 5)] }
def waitGrid : Grid := { placedGrid with kern := waitKern }
def overdue : Group := { young with wait := some ⟨0, 5, .flag 0 0⟩, polled := true }
def overdueS : State := { trapping overdue with grids := [waitGrid] }
theorem overdue_at : At overdueS overdue placedTeam waitGrid := ⟨rfl, rfl, rfl, rfl, rfl, regs_sound rfl rfl, rfl, rfl, rfl, rfl, rfl, rfl, rfl⟩
def enlarging : Group := { young with enlarge := 1, polled := true }
theorem only_group {g h : Group} {f : Core → Core} {i : Fin 128} (hi : i ≠ 0) : (placed g placedTeam f).group 0 i ≠ some h :=
  fun e => hi (group_of e).2.1
theorem trapping_group (g : Group) (i : Fin 128) : (trapping g).group 0 i = (withGroup g).group 0 i := rfl
theorem witness_GroupEvents :
    ((withGroup woke).group 0 0 = some woke ∧ woke.idle = true ∧ woke.woken = true) ∧
    ((withGroup askedToStop).group 0 0 = some askedToStop ∧ askedToStop.stop = .requested true ∧ askedToStop.hmode = false ∧
      askedToStop.dels = [] ∧ askedToStop.engHeld = false ∧ (withGroup askedToStop).asyncOf 0 askedToStop = false ∧
      (withGroup askedToStop).reqs = []) ∧
    ((trapping due).group 0 0 = some due ∧ due.hmode = false ∧ due.halted = false ∧ ((trapping due).core 0).trapvec.getLsbD 0 = true ∧
      ((trapping due).handler 0 0 due).isSome = true ∧ ((trapping due).core 0).banks.get due.part = none ∧
      ∀ i h, i ≠ 0 → (trapping due).group 0 i = some h → h.part = due.part → h.dels = []) ∧
    ((withGroup atBrm).group 0 0 = some atBrm ∧ (withGroup atBrm).awake 0 = true ∧ (∃ b, atBrm.brm = some b ∧ 256 ≤ b.elapsed ∧ atBrm.actAt b.site = atBrm.inState .running) ∧
      (withGroup atBrm).teamGroups 0 atBrm.team = [(0, atBrm)] ∧ (withGroup atBrm).gridOf 0 atBrm = some placedGrid ∧
      atBrm.hmode = false ∧ atBrm.dels = [] ∧ atBrm.inState .running ≠ 0 ∧
      ∀ p, (atBrm.tid.get p).toNat % atBrm.grant.lanes = p.val ∧ (atBrm.tid.get p).toNat % 64 / atBrm.grant.lanes = atBrm.block) ∧
    (let x := here overdue placedTeam waitGrid;
      overdueS.ctxOf 0 0 = some x ∧ (∃ w, overdue.wait = some w ∧ w.site = x.pc ∧ overdueS.waitBound 0 0 overdue x.grid w.site = some 5 ∧
        (5 : Int) ≤ w.elapsed ∧ overdueS.awake 0 = true ∧
        overdueS.satisfied 0 x.home x.slot x.t overdue.team (overdueS.spaceOf 0 overdue) overdue.q.get overdue.tok (fun _ => false) w.on = false) ∧
      HandlerFree overdueS x) ∧
    ((withGroup enlarging).group 0 0 = some enlarging ∧ enlarging.enlarge ≠ 0 ∧ ((withGroup enlarging).core 0).loan = [] ∧
      (∀ i, (withGroup enlarging).groupFree 0 i = false) ∧
      ∀ i h, i ≠ 0 → (withGroup enlarging).group 0 i = some h → h.enlarge ≠ 0 →
        enlarging.age.1 * 2 ^ 64 + enlarging.age.2 < h.age.1 * 2 ^ 64 + h.age.2) ∧
    (let s := base.modCore 0 fun k => { k with timerm := 0 }; s.group 0 0 = some young ∧ s.reft = (s.core 0).timerm) ∧
    (let s := base.modCore 0 fun k => { k with engine := some (.group 0 0, 0) };
      s.group 0 0 = some young ∧ (s.core 0).engine = some (.group 0 0, 0)) := by
  refine ⟨⟨rfl, rfl, rfl⟩, ⟨rfl, rfl, by decide +kernel, rfl, rfl, by decide +kernel, rfl⟩,
    ⟨rfl, rfl, rfl, by decide +kernel, by decide +kernel, rfl, fun i h hi e => absurd (trapping_group due i ▸ e) (only_group (f := id) hi)⟩,
    ⟨rfl, by decide +kernel, ⟨_, rfl, by decide, by decide +kernel⟩, by decide +kernel, rfl, rfl, rfl, by decide +kernel, by decide +kernel⟩,
    ⟨here_ctx overdue_at, ⟨_, rfl, rfl, by decide +kernel, by decide, by decide +kernel, by decide +kernel⟩,
      rfl, rfl, by decide +kernel, ⟨_, rfl, by decide +kernel⟩, rfl, alone_older overdue⟩,
    ⟨rfl, by decide, rfl, ?_, fun i h hi e => absurd e (only_group (f := id) hi)⟩, ⟨rfl, rfl⟩, ⟨rfl, rfl⟩⟩
  intro i
  by_cases hi : i = 0
  · subst hi; rfl
  · rw [State.groupFree]
    split
    · rfl
    · rename_i h; exact absurd h (only_group (f := id) hi)
/-- A graph of one stage, the placed grid, whose table fires it once; with an edge to itself. -/
def selfEdge : GEdge := ⟨0, 0, 0, 1, 1, 1, 4, 0, 1, 0⟩
def onePlan : GPlan := ⟨[⟨0, placedGrid, 1, 1⟩], [selfEdge], [⟨0, 0, true⟩], 0, none⟩
def oneGraph : Graph := ⟨3, 0x1000, 0, 0, 0, onePlan, 0, 0, [], 0, [], 0, 0, 0, none, none⟩
def endedFiring : Firing := ⟨8, 0, 0, 0, true, 0, [], true⟩
def graphs (g : Graph) : State := { base with graphs := [g] }
def quoteOf (st : QState) : Quote :=
  ⟨7, st, 0, 0, 0, 0, 0, 10, 10, [], 0, 0, 0, 0, 6, [], none, none, 11, 11, false, 0, 0, 0, 0, 0, none, [], []⟩
def quoting (st : QState) : State := { base with quotes := [quoteOf st], grids := [{ placedGrid with qid := some 7 }], reft := 1 }
theorem witness_GraphEvents :
    ((graphs oneGraph).graphOf 3 = some oneGraph ∧ ¬(oneGraph.entry = 0 ∧ (oneGraph.swap.isSome = true ∨ oneGraph.unbind.isSome = true)) ∧
      (graphs oneGraph).isRetiring ((graphs oneGraph).die oneGraph.die).part oneGraph.space = false ∧
      (graphs oneGraph).writesWait oneGraph.die = false ∧ onePlan.table[oneGraph.entry]? = some ⟨0, 0, true⟩ ∧ onePlan.stages[0]? = some ⟨0, placedGrid, 1, 1⟩ ∧
      ∀ x ∈ onePlan.edges, (x.dst = 0 → oneGraph.period * x.n + 0 * x.c + x.c ≤ x.made) ∧
        (x.src = 0 → oneGraph.period * x.n + 0 * x.p + x.p ≤ x.used + x.cap)) ∧
    (let g : Graph := { oneGraph with firings := [endedFiring] };
      (graphs g).graphOf 3 = some g ∧ g.firings.find? (fun x => x.id == endedFiring.id) = some endedFiring ∧ endedFiring.done = true ∧
      (∀ x ∈ g.firings, x.stage = 0 → ¬(x.period < 0 ∨ x.period = 0 ∧ x.fire < 0)) ∧ (graphs g).storesLeft g.die g.space = false ∧
      (∀ i < g.plan.stages.length, (g.doneSet ||| (1#64 <<< endedFiring.stage)).getLsbD i = true)) ∧
    (let g : Graph := { oneGraph with swap := some (onePlan, ⟨0, 0, 0⟩) };
      (graphs g).graphOf 3 = some g ∧ g.firings = [] ∧ g.entry = 0 ∧ g.swap = some (onePlan, ⟨0, 0, 0⟩)) ∧
    (let g : Graph := { oneGraph with unbind := some ⟨0, 0, 0⟩ };
      (graphs g).graphOf 3 = some g ∧ g.firings = [] ∧ g.entry = 0 ∧ g.swap = none ∧ g.unbind = some ⟨0, 0, 0⟩) ∧
    ((quoting .quoted).quote 7 = some (quoteOf .quoted) ∧ (quoteOf .quoted).expiry.toNat < (quoting .quoted).reft.toNat) ∧
    (quoting .running).quote 7 = some (quoteOf .running) ∧
    (∃ g, (quoting .running).grids.find? (fun x => x.qid == some 7 && x.firing.isNone) = some g ∧ (quoting .running).grid g.id = some g) ∧
    (quoteOf .running).clause.getLsbD 1 = true ∧ (quoteOf .running).clause.getLsbD 2 = true ∧
    (quoteOf .running).time < (quoteOf .running).measured ∧ (quoteOf .running).energy < (quoteOf .running).measuredE := by
  refine ⟨⟨by decide +kernel, by decide, by decide +kernel, by decide +kernel, rfl, rfl, by decide⟩,
    ⟨by decide +kernel, by decide +kernel, rfl, by decide, by decide +kernel, by decide⟩,
    ⟨by decide +kernel, rfl, rfl, rfl⟩, ⟨by decide +kernel, rfl, rfl, rfl, rfl⟩, ⟨by decide +kernel, by decide +kernel⟩, by decide +kernel,
    ⟨{ placedGrid with qid := some 7 }, by decide +kernel, by decide +kernel⟩, by decide, by decide, by decide, by decide⟩
/-- Die 0 changed. -/
def onDie (f : Die → Die) : State := base.modDie 0 f
/-- The placed grid with another team that waits for a unit. -/
def moreGrid : Grid := { placedGrid with dims := (2, 1, 1) }
def moreS : State := withGrid { moreGrid with accg := 0 }
def swapping : State := { base.modCore 0 fun k => { k with idleCount := 65536, ctxbase := 0x8000, ctxlen := 0x1000000 } with grids := [moreGrid] }
/-- A team asked to stop, and its group as the stop leaves it. -/
def stopping (safe : Bool) (st : Stop) : State :=
  placed { young with stop := st } { placedTeam with stop := some ⟨safe, 65536, some (0x8000, 0x100000), false⟩ } id
def leaving (bulks : List BulkOpen) : State := base.modCore 0 fun k => { k with
  groups := Tab.replicate 128 none, teams := k.teams.set 0 (some { placedTeam with exited := true, bulks := bulks }) }
/-- A paired team and its other half, and the pair that they make. -/
def even : Team := { placedTeam with paired := true }
def odd : Team := { even with odd := true }
def leavingPair : State :=
  (base.modCore 0 fun k => { k with groups := Tab.replicate 128 none, teams := k.teams.set 0 (some { even with exited := true }) }).modCore 1
    fun k => { k with teams := k.teams.set 0 (some { odd with exited := true }) }
/-- The same grid for pairs, and a save of the placed grid's team, which stands on no core. -/
def pairGrid : Grid := { moreGrid with accg := 0, shape := (4096, 1, 1), regg := 8, scrg := 2, cmap := 0xC }
def saved0 : Saved := ⟨9, 0, 0, 1, false, false, [⟨0, 0, 0, [], []⟩], none, true⟩
def savedS : State := { base.modCore 0 (fun k => { k with groups := Tab.replicate 128 none, teams := Tab.replicate 16 none }) with saved := [saved0] }
/-- A retirement of space 1, which die 0 has an entry for and nothing runs in. -/
def retiringS : State := { onDie (fun d => { d with spacetb := 0x100002 }) with retiring := [⟨1, 0, [0]⟩] }
theorem waits_of {s : State} (P : Waiting → Prop) (l : List Waiting) (hl : l.length = 1) (hw : ∀ w ∈ l, P w ∧ (s.unitFor w).isSome = true) :
    ∃ w, l = [w] ∧ P w ∧ ∃ c, s.unitFor w = some c := by
  obtain ⟨w, rfl⟩ := List.length_eq_one_iff.1 hl
  obtain ⟨h1, h2⟩ := hw w (List.mem_singleton.2 rfl)
  exact ⟨w, rfl, h1, Option.isSome_iff_exists.1 h2⟩
theorem witness_PlacementEvents :
    (∃ w, moreS.waiting = [w] ∧ (w.save = none ∧ w.grid.paired = false ∧ w.grid.threads ≤ 2048) ∧ ∃ c, moreS.unitFor w = some c) ∧
    (∃ w, (withGrid pairGrid).waiting = [w] ∧ (w.save = none ∧ w.grid.paired = true ∧ w.grid.threads ≤ 4096) ∧
      ∃ c, (withGrid pairGrid).unitFor w = some c) ∧
    (∃ w, savedS.waiting = [w] ∧ w.save = some saved0 ∧ ∃ c, savedS.unitFor w = some c) ∧
    (∀ bs ∈ [[], [⟨0, .dev, bulkDesc, 1⟩]], (leaving bs).team 0 0 = some { placedTeam with exited := true, bulks := bs } ∧
      (leaving bs).streamsIdle 0 0 { placedTeam with exited := true, bulks := bs } = true ∧ (leaving bs).halfCopies 0 0 = false) ∧
    (leavingPair.team 0 0 = some { even with exited := true } ∧ leavingPair.streamsIdle 0 0 { even with exited := true } = true ∧
      leavingPair.halfCopies 0 0 = false ∧ leavingPair.halfCopies (partner 0) even.mate = false) ∧
    (retiringS.retiring.find? (fun e => e.space == 1 && e.part == (retiringS.die 0).part) = some ⟨1, 0, [0]⟩ ∧
      retiringS.spaceBusy (retiringS.die 0).part 1 = false ∧ retiringS.memWf ∧ Sound retiringS ∧
      inVault ((retiringS.die 0).retcnt.toNat / 8 * 8) = true ∧ Unlocked retiringS ((retiringS.die 0).retcnt.toNat / 8 * 8) 8 ∧ (∀ q ∈ retiringS.quotes, q.pend = none) ∧
      (∀ g ∈ retiringS.grids, g.space ≠ 1) ∧ retiringS.graphs = [] ∧ retiringS.spaceEntry 0 1 = some 0x100010 ∧
      ∀ x : Fin 4, ((retiringS.spaceEntry x 1).all fun e => decide (8 ≤ e)) = true) :=
  ⟨waits_of _ _ (by decide +kernel) (by decide +kernel), waits_of _ _ (by decide +kernel) (by decide +kernel),
    waits_of _ _ (by decide +kernel) (by decide +kernel), by decide +kernel, ⟨rfl, by decide +kernel, by decide +kernel, by decide +kernel⟩,
    by decide +kernel, by decide +kernel, show Memory.wf _ = true by decide +kernel, ⟨rfl, by decide +kernel⟩, by decide +kernel,
    fun d => .inl (by revert d; decide +kernel), fun q hq => (by cases hq), by decide +kernel, rfl, by decide +kernel, by decide +kernel⟩
/-- A pair of which a stop at safe points has passed its window. -/
def pairStop : TeamStop := ⟨true, 65536, some (0x8000, 0x100000), false⟩
def stoppingPair : State :=
  (placed { young with stop := .atSafePoint } { even with stop := some pairStop } id).modCore 1 fun k => { k with
    teams := k.teams.set 0 (some { odd with stop := some pairStop }) }
theorem witness_SwapEvents :
    (∃ g, swapping.youngestOpen 0 = some (0, placedTeam, g) ∧ (swapping.core 0).fpwin ≠ 0 ∧
      ((swapping.core 0).fpwin.toNat : Int) ≤ (swapping.core 0).idleCount ∧ swapping.awake 0 = true ∧ placedTeam.stop = none ∧
      (swapping.without (0, 0, placedTeam, g)).openFits 0 = true ∧ placedTeam.halves 0 0 = [(0, 0)] ∧ swapping.team 0 0 = some placedTeam ∧
      (swapping.spanFor 0 0 false).isSome = true ∧ swapping.group 0 0 = some young ∧ young.stop = .none) ∧
    (((stopping true .atSafePoint).team 0 0).bind Team.stop = some ⟨true, 65536, some (0x8000, 0x100000), false⟩ ∧
      (stopping true .atSafePoint).awake 0 = true ∧ (stopping true .atSafePoint).halfHalted 0 0 = false ∧ placedTeam.halves 0 0 = [(0, 0)] ∧
      ((if ((stopping true .atSafePoint).core 0).fpwin = 0 then 65536 else ((stopping true .atSafePoint).core 0).fpwin.toNat : Nat) : Int) ≤ 65536) ∧
    (stoppingPair.team 0 0 = some { even with stop := some pairStop } ∧
      stoppingPair.team (partner 0) even.mate = some { odd with stop := some pairStop } ∧ stoppingPair.awake 0 = true ∧
      ∃ h ∈ ({ even with stop := some pairStop } : Team).halves 0 0, stoppingPair.halfHalted h.1 h.2 = false) ∧
    ((stopping false (.stopped false false)).teamStopped 0 0 { placedTeam with stop := some ⟨false, 65536, some (0x8000, 0x100000), false⟩ } false = true ∧
      (stopping false (.stopped false false)).grid 0 = some placedGrid ∧ (stopping false (.stopped false false)).pkg.suspPhase = 0 ∧
      ((stopping false (.stopped false false)).die (dieOf 0)).esave = false ∧
      (stopping false (.stopped false false)).isRetiring ((stopping false (.stopped false false)).die placedGrid.die).part placedGrid.space = false) :=
  ⟨⟨moreGrid, by decide +kernel, by decide +kernel, by decide +kernel, by decide +kernel, rfl, by decide +kernel, rfl, rfl, by decide +kernel, rfl, rfl⟩,
    ⟨rfl, by decide +kernel, by decide +kernel, rfl, by decide +kernel⟩, ⟨rfl, rfl, by decide +kernel, (0, 0), by decide +kernel, by decide +kernel⟩,
    by decide +kernel, by decide +kernel, rfl, by decide +kernel, by decide +kernel⟩

/-! ### Clocks, power, heat, ports and health -/

theorem witness_ClockEvents :
    (let s := onDie fun d => { d with req := 60 }; let x := s.die 0; let want := min x.req.toNat x.cap.toNat;
      let new := if s.dieHeld 0 then 50 else max 50 (if s.pkg.overPower then min want (x.cur.toNat - 1) else want)
      x.relock = none ∧ x.throt = false ∧ (∀ l, x.lastStep = some l → 10000 ≤ (s.reft - l).toNat) ∧
      x.cur.toNat ≠ new ∧ x.tmax.toNat < 103) ∧
    (let s := onDie fun d => { d with throt := true }; let x := s.die 0;
      x.throt = true ∧ x.relock = none ∧ 25 < x.cur.toNat ∧ 103 ≤ (103 : Byte).toNat ∧ (103 : Byte).toNat < 110 ∧
      x.throttleAt.toNat ≤ s.reft.toNat) ∧
    (102 : Byte).toNat < 103 ∧ (105 ≤ (105 : Byte).toNat ∧ (105 : Byte).toNat < 110 ∧ (base.die 0).throt = false) ∧
    (117 < 118 ∧ ((onDie fun d => { d with esave := true }).die 0).esave = true) ∧
    (let s := onDie fun d => { d with relock := some 0 }; (s.die 0).relock = some 0 ∧ (0 : DWord).toNat ≤ s.reft.toNat) ∧
    (let s := onDie fun d => { d with throt := true, throttleAt := 1 }; (s.die 0).throt = true ∧ s.reft.toNat < (s.die 0).throttleAt.toNat) ∧
    (let may (s : State) : Prop :=
        let x := s.die 0
        let n := x.stretches.length + 1
        n * 100 ≤ 3 * (x.cur.toNat * (100 - min 80 (180 - x.lastStep.elim 180 fun l => (s.reft - l).toNat)) / 4 - n)
      let s (live : BitVec 4) : State := onDie fun d => { d with stretches := List.replicate 36 0, live := live }
      may base ∧ ¬may (s 0) ∧ ((s 0).die 0).live = 0 ∧ ¬may (s 1) ∧ ((s 1).die 0).live ≠ 0) ∧
    (∀ i, ((base.die 0).wear.get i).toNat / 2 ^ 38 ≤ 0) ∧ ∃ i, ((base.die 0).wear.get i).toNat / 2 ^ 38 = 0 :=
  ⟨⟨rfl, rfl, fun _ h => (nomatch h), by decide +kernel, by decide +kernel⟩, ⟨rfl, rfl, by decide, by decide, by decide, by decide⟩, by decide,
    ⟨by decide, by decide, rfl⟩, ⟨by decide, rfl⟩, ⟨rfl, by decide⟩, ⟨rfl, by decide⟩,
    ⟨by decide +kernel, by decide +kernel, by decide +kernel, by decide +kernel, by decide +kernel⟩, by decide +kernel, 0, by decide +kernel⟩
/-- Core 1, which holds nothing, in a power state; and a wake latched for it. -/
def powered (p : CorePower) (chive : List (Fin 128 × WakeKind)) : State :=
  let s := (base.modCore 1 fun k => { k with power := p }).modDie 0 fun d => { d with chive := chive }
  { s with reft := 5000 }
def suspending (n : BitVec 3) : State := { base with pkg := { base.pkg with suspPhase := n } }
def stoppedS : State := { stopping false (.stopped false false) with pkg := { base.pkg with suspPhase := 1 } }
theorem powered_group (p : CorePower) (l : List (Fin 128 × WakeKind)) (i : Fin 128) : (powered p l).group 1 i = none :=
  Tab.get_replicate _ _
theorem witness_PowerEvents :
    (let s := powered (.clockGated 0) [];
      5000 ≤ s.reft.toNat - 0 ∧ (s.core 1).pwrst.getLsbD 2 = false ∧ s.coreHeld 1 = false ∧ s.coreWakes 1 = false ∧
      ∀ i g, s.group 1 i = some g → g.wait = none) ∧
    (powered (.held 0) []).coreWakes 1 = false ∧ (powered .gated [(1, .notify)]).coreWakes 1 = true ∧
    ((powered (.held 0) [(1, .notify)]).coreWakes 1 = true ∧ ((powered (.held 0) [(1, .notify)]).die (dieOf 1)).chiveHeld = []) ∧
    (let s := powered (.waking 0) [];
      ((s.die (dieOf 1)).ramps.get (quadOf 1)).length < 4 ∧
      ∀ e : Fin 128, e < 1 → dieOf e = dieOf 1 → quadOf e = quadOf 1 → ∀ m, (s.core e).power ≠ .waking m) ∧
    (stoppedS.pkg.suspPhase = 1 ∧ stoppedS.allStopped = true) ∧ (suspending 2).pkg.suspPhase = 2 ∧
    ((suspending 3).pkg.suspPhase = 3 ∧ (suspending 3).memWf ∧ Sound (suspending 3) ∧
      ∀ c, Unlocked (suspending 3) ((suspending 3).slotOf c) 0x800000) ∧ (suspending 4).pkg.suspPhase = 4 :=
  ⟨⟨by decide +kernel, by decide +kernel, by decide +kernel, by decide +kernel, fun i g h => by rw [powered_group] at h; exact nomatch h⟩,
    by decide +kernel, by decide +kernel, ⟨by decide +kernel, by decide +kernel⟩,
    ⟨by decide +kernel, fun e h _ _ m => by
      have : e = 0 := by omega
      subst this
      exact fun h => nomatch (show CorePower.active = .waking m from h)⟩,
    ⟨rfl, by decide +kernel⟩, rfl,
    ⟨rfl, show base.mem.wf = true by decide +kernel, ⟨rfl, by decide +kernel⟩, fun _ d => .inl (by revert d; decide +kernel)⟩, rfl⟩
/-- A core with a context save area, and one without. -/
def savable : State := base.modCore 0 fun k => { k with ctxbase := 0x8000, ctxlen := 0x1000000 }
def committing : State := (stopping false (.stopped false false)).modDie 0 fun d => { d with esqueue := [(0, 0)], esave := true }
theorem witness_ThermalEvents :
    (110 ≤ (110 : Byte).toNat ∧ (110 : Byte).toNat < 118 ∧ (savable.die 0).esave = false ∧ savable.emergencyOrder 0 = [(0, 0, placedTeam, placedGrid)] ∧
      savable.team 0 0 = some placedTeam ∧ placedTeam.paired = false ∧ placedTeam.stop = none ∧ savable.spanFor 0 0 false = some (32768, 562176)) ∧
    (base.emergencyOrder 0 = [(0, 0, placedTeam, placedGrid)] ∧ base.spanFor 0 0 false = none) ∧
    (let m := { placedTeam with stop := some ⟨false, 65536, some (0x8000, 0x100000), false⟩ };
      (committing.die 0).esqueue = [(0, 0)] ∧ committing.team 0 0 = some m ∧ committing.grid m.grid = some placedGrid ∧ m.paired = false ∧
      m.odd = false ∧ m.exited = false ∧ committing.isRetiring (committing.die placedGrid.die).part placedGrid.space = false ∧
        committing.teamStopped 0 0 m false = true) ∧
    (102 : Byte).toNat < 103 ∧ 118 ≤ (118 : Byte).toNat :=
  ⟨⟨by decide, by decide, rfl, by decide +kernel, rfl, rfl, rfl, by decide +kernel⟩, ⟨by decide +kernel, by decide +kernel⟩,
    ⟨rfl, rfl, rfl, rfl, rfl, rfl, by decide +kernel, by decide +kernel⟩, by decide, by decide⟩
/-- Port 0 trained, with a window of 1 GiB at the placed gigabyte and READ 5 outstanding for the load of lane 0. -/
def port0 : Port := ⟨true, false, 0, 0x4000, 1, 0, 0, [(5, 5)], []⟩
def ported (s : State) : State := { s with ports := s.ports.set 0 port0 }
def away0 (k : AccKind) : Req := { reqOf k .away none with pa := 2 ^ 47 }
def asked : State := ported { base with reqs := [away0 .load] }
def refused : State := ported { trapping young with reqs := [away0 .load] }
def header0 : List Byte := [4, 0, 0, 0] ++ leBytes 4 9 ++ leBytes 4 7 ++ [0, 3] ++ zeros 50
def serving : State :=
  let s := ported (quoting .running)
  { s.modDie 0 fun d => { d with svctab := 0x300001, wqtab := 0x200002 } with
    mem := (((((base.mem.putNum 0x300000 8 (2 ^ 32 + 7)).putNum 0x300008 8 1).putNum 0x300018 8 7).putNum 0x200040 8 0x310000).putNum
      0x200050 8 (2 ^ 34 + 2 ^ 33)) }
theorem witness_PortEvents :
    base.portsSend = true ∧ (suspending 2).portsSend = false ∧
    (let p : Port := { port0 with trained := false, confirming := true }; p.mayConfirm 0 = true ∧ p.confirming = true) ∧
    (port0.mayConfirm 0 = true ∧ port0.confirming = false) ∧
    (let s := ported base; let p := s.ports.get 0;
      p.trained = true ∧ s.pkg.mbstate = .running ∧ Sound s ∧ (0 : DWord).toNat + 8 ≤ p.wlen.toNat * 2 ^ 30 ∧
      field (p.wbase.toNat * 65536 + 0) 46 2 = 0 ∧ field (p.wbase.toNat * 65536 + 0) 39 7 = 0 ∧
      (p.wbase.toNat * 65536 + 0) % 2 ^ 32 + 8 ≤ 0xC0000000 ∧ ¬((0x40000000 : DWord).toNat + 8 ≤ p.wlen.toNat * 2 ^ 30)) ∧
    (asked.ports.get 0).reads.find? (fun e => e.1 == 5) = some (5, 5) ∧
    asked.reqs.find? (fun e => e.id == 5 && e.phase == .away) = some (away0 .load) ∧ Sound asked ∧
    ((away0 .load).kind ≠ .other ∧ (∀ copy u, (refused.core 0).stream copy = some u → u.uid ≠ 0) ∧ refused.findGroup 0 0 = some 0 ∧ refused.group 0 0 = some young ∧
      young.lst.get 0 = .running ∧ young.hmode = false ∧ young.halted = false ∧ young.dels = [] ∧
      (refused.core 0).trapvec.getLsbD 0 = true ∧ (∃ b, refused.handler 0 0 young = some b ∧ refused.handlerEntry 0 ≠ b.hlen) ∧
      (refused.core 0).banks.get young.part = none ∧ refused.olderPending 0 0 young = false) ∧
    ((serving.ports.get 0).trained = true ∧ serving.pkg.mbstate = .running ∧ (readHeader header0).kind = 4 ∧ (serving.die 0).doors = [] ∧
      serving.serviceCheck 0 (readHeader header0) = .ok (0x300000, 1) ∧ serving.workOpen 0 1 = true ∧ Sound serving) ∧
    (((ported base).ports.get 0).trained = true ∧ (ported base).serviceCheck 0 (readHeader header0) = .error 1 ∧
      5 < (readHeader (6 :: header0.drop 1)).kind ∧ (ported base).serviceCheck 0 (readHeader (6 :: header0.drop 1)) = .error 2 ∧
      Sound (ported base)) ∧
    (let s := serving.modDie 0 fun d => { d with doors := [.message 0 header0 []] };
      (s.ports.get 0).trained = true ∧ s.pkg.mbstate = .running ∧ ∃ y ∈ (s.die 0).doors, y.line = 2 + (0 : Fin 16).val) := by
  refine ⟨by decide +kernel, by decide +kernel, ⟨by decide +kernel, rfl⟩, ⟨by decide +kernel, rfl⟩, ⟨rfl, rfl, ⟨rfl, by decide +kernel⟩, by decide, by decide, by decide, by decide, by decide⟩, rfl, by decide +kernel,
    ⟨rfl, by decide +kernel⟩, ⟨by decide, fun copy u h => ?_, by decide +kernel, rfl, rfl, rfl, rfl, rfl, by decide +kernel, ⟨_, rfl, by decide +kernel⟩, rfl, alone_older young⟩,
    ⟨rfl, rfl, by decide +kernel, rfl, ok_of (by decide +kernel), by decide +kernel, rfl, by decide +kernel⟩,
    ⟨rfl, rfl, by decide +kernel, rfl, rfl, by decide +kernel⟩, rfl, rfl, .message 0 header0 [], by decide +kernel, rfl⟩
  cases copy <;> exact nomatch h
def linkState (failures : Nat) : State := { base with links := base.links.set 0 ⟨true, failures, false⟩ }
def scrubbing : State := onDie fun d => { d with scrubs := [⟨placedPa, 2, 0x400000, 0, 0⟩] }
/-- A request whose first frame KRMAP reserves, and one that is over. -/
def scrubMapped : State := onDie fun d => { d with scrubs := [⟨0x400000, 2, 0x400000, 0, 0⟩], krlock := true, krmap := 0x400000 }
def scrubbed : State := onDie fun d => { d with scrubs := [⟨placedPa, 2, 0x400000, 131072, 0⟩] }
def beat (seen : Bool) (missed : Nat) : State := onDie fun d => { d with hbSeen := seen, hbMissed := missed }
theorem witness_HealthEvents :
    (base.links.get 0).down = false ∧ ((linkState 1).links.get 0).retraining = true ∧ ((linkState 1).links.get 0).failures < 2 ∧
    2 ≤ ((linkState 2).links.get 0).failures ∧ base.bar2Open placedPa 8 = true ∧ base.bar2Open 0xC0000000 1 = false ∧
    (Sound base ∧ (scrubbing.die 0).scrubs = [⟨placedPa, 2, 0x400000, 0, 0⟩] ∧ Sound scrubbing ∧ 0 < 2 * 65536 ∧
      ¬(0 % 65536 = 0 ∧ (isVaultOf 0 placedPa = false ∨ scrubbing.kernelReserved 0 placedPa = true))) ∧
    ((scrubMapped.die 0).scrubs = [⟨0x400000, 2, 0x400000, 0, 0⟩] ∧ Sound scrubMapped ∧ isVaultOf 0 0x400000 = true ∧
      scrubMapped.kernelReserved 0 0x400000 = true) ∧
    ((scrubbed.die 0).scrubs = [⟨placedPa, 2, 0x400000, 131072, 0⟩] ∧ Sound scrubbed ∧ 2 * 65536 ≤ 131072 ∧ inVault 0x400000 = true) ∧
    (base.marks = [] ∧ arrayDie ⟨0, 0, 4⟩ = 0) ∧ base.pkg.mbstate = .running ∧ base.reft.toNat % 100000 = 0 ∧
    ((beat true 0).die 0).hbSeen = true ∧ (((beat false 1).die 0).hbSeen = false ∧ ((beat false 1).die 0).hbMissed < 2) ∧
    ((beat false 2).die 0).hbSeen = false ∧ 2 ≤ ((beat false 2).die 0).hbMissed ∧ ((beat false 2).die 0).orphan = false ∧
    (beat false 2).adopter 0 = some 1 :=
  ⟨rfl, rfl, by decide, by decide, by decide +kernel, by decide +kernel,
    ⟨⟨rfl, by decide +kernel⟩, rfl, ⟨rfl, by decide +kernel⟩, by decide, by decide +kernel⟩, ⟨rfl, ⟨rfl, by decide +kernel⟩, by decide, by decide +kernel⟩,
    ⟨rfl, ⟨rfl, by decide +kernel⟩, by decide, by decide⟩, ⟨rfl, by decide +kernel⟩, rfl, by decide, rfl,
    ⟨rfl, by decide⟩, rfl, by decide, rfl, by decide +kernel⟩

/-! ### Commands -/

/-- A file of one portable kernel whose code is EXIT: its CODE body, at offset 168, lies on a 64 KiB boundary when the file is
loaded 168 bytes below one (R156 to R165, R318). -/
def tinyCode : List Byte := leBytes 4 0x000047C1
def sectEntry (ty fl off size ent n : Nat) : List Byte :=
  leBytes 2 ty ++ leBytes 2 fl ++ leBytes 4 0xFFFF ++ leBytes 4 off ++ leBytes 4 size ++ zeros 8 ++ leBytes 4 ent ++ leBytes 4 n
def tinyFile : List Byte :=
  leBytes 4 0x01464F42 ++ leBytes 4 1 ++ leBytes 4 4 ++ leBytes 20 32 ++
    (sectEntry 15 0 160 3 0 0 ++ sectEntry 1 1 168 4 0 0 ++ sectEntry 3 0 176 128 128 1 ++ sectEntry 14 0 304 72 72 1) ++
    [0, 107, 0, 0, 0, 0, 0, 0] ++ (tinyCode ++ zeros 4) ++ (leBytes 4 1 ++ leBytes 4 1 ++ leBytes 8 (2 ^ 40 + 2 * 2 ^ 48 + 16 * 2 ^ 56) ++
      leBytes 112 1) ++ (leBytes 8 1 ++ sha512 tinyCode)
def fileVa : Nat := placedBase.toNat + 0x20000 - 168
/-- Queue 0 of die 0, in space 0, with one command at the head of its ring. -/
def commanding (opc a0 a1 : Nat) (m : Memory → Memory) (f : State → State) : State :=
  let t := ((((m base.mem).putNum 0x400000 8 0x401000).putNum 0x400010 8 (2 ^ 37)).putNum 0x401000 8 opc).putNum 0x401008 16 (a0 + a1 * 2 ^ 64)
  f ({ base.modDie 0 fun d => { d with lqtab := 0x400001, tails := [(0, 1)] } with mem := t.putNum 0x401020 8 (placedBase.toNat + 0x100) })
def tinyKern : Kern := { placedKern with len := 4, floor := 1, ceil := 2, width := 16, bcnt := [], fmtm := 0, queues := Tab.replicate 8 0 }
def launch0 : Nat := placedBase.toNat + 0x1000
/-- A launch record of one team of four threads of kernel 0 of file 1, for core 0. -/
def recorded (m : Memory) : Memory :=
  ((((m.store placedPa tinyCode).putNum (placedPa + 0x1000) 8 1).putNum (placedPa + 0x1008) 8 0x100010004).putNum (placedPa + 0x1010) 16
    (1 + 2 ^ 32 + 2 ^ 64 + 2 ^ 96)).putNum (placedPa + 0x1030) 16 1
def withFile (s : State) : State := { s with files := [⟨1, 0, [tinyKern], [⟨[(0, 0), (1, 0)], [⟨0, 0, true, 1⟩, ⟨1, 0, false, 1⟩]⟩]⟩] }
/-- A bind descriptor of that file's graph, whose two stages both run kernel 0. -/
def bindVa : Nat := launch0 + 0x300
def described (m : Memory) : Memory :=
  ((((recorded m).putNum (placedPa + 0x1308) 8 (launch0 + 0x800)).putNum (placedPa + 0x1310) 16 (launch0 + 0x600 + 10 * 2 ^ 64)).putNum
    (placedPa + 0x1320) 8 1).putNum (placedPa + 0x1330) 16 (0x100000 + (launch0 + 0x400) * 2 ^ 64) |>.putNum (placedPa + 0x1400) 16
      (launch0 + launch0 * 2 ^ 64)
theorem taken_of {s : State} {n : Nat} (h : (s.pkg.mbstate == .running && s.nextQueue 0 == some 0 && (s.commandOf 0 0).opc == n &&
    (s.commandOf 0 0).zero) = true) : Taken s 0 0 n := by
  simp only [Bool.and_eq_true, beq_iff_eq] at h
  exact ⟨h.1.1.1, h.1.1.2, h.1.2, h.2⟩
theorem fst_of {α β : Type} {p : α × β} {a : α} (h : p.1 = a) : ∃ b, p = (a, b) := ⟨p.2, by rw [← h]⟩
theorem ok_fst {ε α β : Type} {p : Except ε α × β} {a : α} (h : p.1.toOption = some a) : ∃ b, p = (.ok a, b) := fst_of (ok_of h)
theorem pair_of {ε α β : Type} {p : Except ε α × β} {a : α} (h : p.1.toOption = some a) : p = (.ok a, p.2) := by rw [← ok_of h]
def loadS : State := commanding 1 fileVa 376 (fun m => m.store (fileVa - placedBase.toNat + placedPa) tinyFile) id
def loadC : Command := loadS.commandOf 0 0
def loadU : State := loadS.advanceQueue loadC
theorem witness_CommandResult_load : Taken loadS 0 0 1 ∧ (loadU.spaceRoot 0 loadC.space).isSome = true ∧
    (∃ v, loadU.frontRead 0 loadC.space loadC.a0 loadC.a1.toNat = (.ok tinyFile, v)) ∧
    (∃ b ks, loadPlan tinyFile loadC.a0.toNat = .ok (b, ks) ∧ ofType b.sects 2 = []) ∧ loadS.files.length < 65535 ∧
    ∃ e, loadPlan [] loadC.a0.toNat = .error e := by
  refine ⟨taken_of (by decide +kernel), by decide +kernel, ok_fst (by decide +kernel), ?_, by decide, _, rfl⟩
  have ha : loadC.a0.toNat = fileVa := by decide +kernel
  have hp : ((loadPlan tinyFile fileVa).toOption.elim false fun x => (ofType x.1.sects 2).isEmpty) = true := by decide +kernel
  rw [ha]
  revert hp
  cases loadPlan tinyFile fileVa with
  | error e => exact fun h => (nomatch h)
  | ok x => exact fun h => ⟨x.1, x.2, rfl, List.isEmpty_iff.1 h⟩
def unloadS : State := commanding 2 1 0 id withFile
theorem witness_CommandResult_unload : Taken unloadS 0 0 2 ∧ (unloadS.spaceRoot 0 (unloadS.commandOf 0 0).space).isSome = true ∧
    (∃ x ∈ unloadS.files, x.handle = (unloadS.commandOf 0 0).a0.toNat ∧ x.space = (unloadS.commandOf 0 0).space) ∧ unloadS.quotes = [] ∧
    ∀ x ∈ unloadS.grids, x.handle = (unloadS.commandOf 0 0).a0.toNat → x.teams ≤ x.finished :=
  ⟨taken_of (by decide +kernel), by decide +kernel, by decide +kernel, rfl, by decide +kernel⟩
/-- The state in which the front end has taken the command and read its launch record. -/
def reads (s : State) (c : Command) : Except FrontErr (List Byte) × State := (s.advanceQueue c).frontRead 0 c.space c.a0 256
def recBytes (s : State) (c : Command) : List Byte := (reads s c).1.toOption.getD []
def quoteS : State := commanding 3 launch0 (launch0 + 0x200) recorded withFile
def quoteC : Command := quoteS.commandOf 0 0
def quoteV : State := (reads quoteS quoteC).2
def quoteW : State := (quoteV.codeOf quoteC tinyKern).2
theorem witness_CommandResult_quote : Taken quoteS 0 0 3 ∧ (quoteS.spaceRoot 0 quoteC.space).isSome = true ∧
    quoteC.a0 ≠ 0 ∧ quoteC.a2 = 0 ∧ quoteC.a0.toNat % 64 = 0 ∧ quoteC.a1.toNat % 64 = 0 ∧
    reads quoteS quoteC = (.ok (recBytes quoteS quoteC), quoteV) ∧
    quoteV.kernelFor quoteC.space (launchRec (recBytes quoteS quoteC)) = some tinyKern ∧
    quoteV.launchProblem quoteC (launchRec (recBytes quoteS quoteC)) true true [] = none ∧ quoteV.pinsWait 0 quoteC.space tinyKern.pins = false ∧
    quoteV.codeOf quoteC tinyKern = (.ok (sitesOf tinyCode), quoteW) ∧ unboundedCycle (sitesOf tinyCode) = false ∧
    ∃ z, quoteW.frontStore 0 quoteC.space quoteC.a1 (quoteW.quoteGrid quoteC (launchRec (recBytes quoteS quoteC)) tinyKern (sitesOf tinyCode)).bytes =
      (.ok (), z) := by
  refine ⟨taken_of (by decide +kernel), by decide +kernel, by decide +kernel, by decide +kernel, by decide +kernel, by decide +kernel,
    ?_, by decide +kernel, by decide +kernel, by decide +kernel, ?_, by decide +kernel, ok_fst (by decide +kernel)⟩
  · exact pair_of (show (reads quoteS quoteC).1.toOption = some (recBytes quoteS quoteC) by decide +kernel)
  · exact pair_of (show (quoteV.codeOf quoteC tinyKern).1.toOption = some (sitesOf tinyCode) by decide +kernel)
def quoteQ (st : QState) : Quote := { quoteOf st with expiry := 9, job := some placedGrid, cores := 4 }
def withQuote (st : QState) (more : List Quote) (s : State) : State := { s with quotes := quoteQ st :: more }
def acceptS (more : List Quote) : State := commanding 4 7 0 id (withQuote .quoted more)
theorem witness_CommandResult_accept : (∀ more, more = [] ∨ more = [{ quoteQ .accepted with qid := 8 }] → Taken (acceptS more) 0 0 4) ∧
    (acceptS []).quote ((acceptS []).commandOf 0 0).a0 = some (quoteQ .quoted) ∧ (acceptS []).reft.toNat ≤ (quoteQ .quoted).expiry.toNat ∧
    (acceptS []).quotes.filter Quote.holds = [] ∧
    ((acceptS []).advanceQueue ((acceptS []).commandOf 0 0)).pinsValid 0 0 (quoteQ .quoted).pins = true ∧
    powerFits [quoteQ .quoted] = true ∧ (acceptS []).openTeamsOn (quoteQ .quoted).cores = [] ∧
    ∃ y ∈ (acceptS [{ quoteQ .accepted with qid := 8 }]).quotes.filter Quote.holds, y.cores &&& (quoteQ .quoted).cores ≠ 0 := by
  refine ⟨?_, by decide +kernel, by decide, by decide +kernel, by decide +kernel, by decide +kernel, by decide +kernel, by decide +kernel⟩
  rintro _ (rfl | rfl) <;> exact taken_of (by decide +kernel)
def declineS : State := commanding 5 7 0 id (withQuote .quoted [])
def launchQ : State := commanding 6 0 7 id (withQuote .accepted [])
def launchS : State := commanding 6 launch0 0 recorded withFile
def launchC : Command := launchS.commandOf 0 0
theorem witness_CommandResult_launch : Taken declineS 0 0 5 ∧ Taken launchQ 0 0 6 ∧ (launchQ.commandOf 0 0).a0 = 0 ∧ (launchQ.commandOf 0 0).a1 ≠ 0 ∧
    launchQ.quote (launchQ.commandOf 0 0).a1 = some (quoteQ .accepted) ∧ Taken launchS 0 0 6 ∧ launchC.a0 ≠ 0 ∧ launchC.a1 = 0 ∧
    launchC.a0.toNat % 64 = 0 ∧ (reads launchS launchC).1.toOption = some (recBytes launchS launchC) ∧
    (reads launchS launchC).2.launchProblem launchC (launchRec (recBytes launchS launchC)) false false [] = none ∧
    (reads launchS launchC).2.kernelFor launchC.space (launchRec (recBytes launchS launchC)) = some tinyKern :=
  ⟨taken_of (by decide +kernel), taken_of (by decide +kernel), by decide +kernel, by decide +kernel, by decide +kernel, taken_of (by decide +kernel),
    by decide +kernel, by decide +kernel, by decide +kernel, by decide +kernel, by decide +kernel, by decide +kernel⟩
def bindS (gs : List Graph) : State := commanding 7 bindVa 0 described fun s => { withFile s with graphs := gs }
def bindC : Command := (bindS []).commandOf 0 0
def bound (gs : List Graph) : Except BindErr Bound × State := ((bindS gs).advanceQueue bindC).solveBind bindC bindC.a0 none false
def boundGraph : Graph := { oneGraph with ctl := BitVec.ofNat 64 (launch0 + 0x800) }
def unbindS : State := commanding 8 (launch0 + 0x800) 0 id fun s => { s with graphs := [boundGraph] }
theorem witness_BindResult (gs : List Graph) (hg : gs = [] ∨ gs = [boundGraph]) : Taken (bindS gs) 0 0 7 ∧ (bindS gs).commandOf 0 0 = bindC ∧
    ((bindS gs).spaceRoot 0 bindC.space).isSome = true ∧ bindC.a1 = 0 ∧ ∃ b v, bound gs = (.ok b, v) ∧
      b.desc.ctl = boundGraph.ctl ∧ b.desc.space = 0 ∧ (∀ g ∈ (bindS gs).graphs, g.unbind = none) ∧
      ∃ w, v.frontStore 0 b.desc.space b.plan.tableVa b.plan.tableBytes = (.ok (), w) := by
  refine ⟨?_, ?_, ?_, by decide +kernel, ?_⟩
  · obtain rfl | rfl := hg <;> exact taken_of (by decide +kernel)
  · obtain rfl | rfl := hg <;> decide +kernel
  · obtain rfl | rfl := hg <;> decide +kernel
  have h : (match (bound gs).1 with
      | .ok b => b.desc.ctl == boundGraph.ctl && b.desc.space == 0 &&
        ((bound gs).2.frontStore 0 b.desc.space b.plan.tableVa b.plan.tableBytes).1.toOption.isSome
      | .error _ => false) = true := by obtain rfl | rfl := hg <;> decide +kernel
  revert h
  rcases hb : bound gs with ⟨_ | b, v⟩
  · exact fun h => (nomatch h)
  · simp only [Bool.and_eq_true, beq_iff_eq]
    rintro ⟨⟨h1, h2⟩, h3⟩
    obtain ⟨u, h3⟩ := Option.isSome_iff_exists.1 h3
    exact ⟨b, v, rfl, h1, h2, by obtain rfl | rfl := hg <;> decide, ok_fst (a := ()) h3⟩
theorem witness_BindResult_unbind : Taken unbindS 0 0 8 ∧
    unbindS.graphs.find? (fun x => x.ctl == (unbindS.commandOf 0 0).a0 && x.space == (unbindS.commandOf 0 0).space && x.unbind.isNone) =
      some boundGraph := ⟨taken_of (by decide +kernel), by decide +kernel⟩

/-! ### The start, the mailbox, stops and register writes -/

/-- What the stages' signatures and the self-test come to is not fixed: whatever it is, one case of the statement holds at reset. -/
theorem witness_StartEvents : State.reset.pkg.mbstate = .booting ∧
    (let good (n : Fin 4) := Config.stageVerifies (State.reset.pkg.stageImage n) = true;
      ((∀ n, good n) ∧ selfTestFails State.reset.fresh = none) ∨
      (∃ n : Fin 3, (∀ m : Fin 3, m < n → good (Fin.ofNat 4 m.val)) ∧ ¬good (Fin.ofNat 4 n.val)) ∨
      (good 0 ∧ good 1 ∧ good 2 ∧ ((∃ item, selfTestFails State.reset.fresh = some item) ∨
        selfTestFails State.reset.fresh = none ∧ ¬good 3))) ∧ base.pkg.mbstate = .running ∧
    ∀ image, Config.stageVerifies image = true ∨ Config.stageVerifies image = false := by
  refine ⟨rfl, ?_, rfl, fun _ => Bool.eq_false_or_eq_true _⟩
  intro good
  by_cases h0 : good 0
  · by_cases h1 : good 1
    · by_cases h2 : good 2
      · cases hs : selfTestFails State.reset.fresh with
        | some item => exact .inr (.inr ⟨h0, h1, h2, .inl ⟨item, rfl⟩⟩)
        | none =>
          by_cases h3 : good 3
          · refine .inl ⟨fun n => ?_, rfl⟩
            match n with
            | 0 => exact h0
            | 1 => exact h1
            | 2 => exact h2
            | 3 => exact h3
          · exact .inr (.inr ⟨h0, h1, h2, .inr ⟨rfl, h3⟩⟩)
      · refine .inr (.inl ⟨2, fun m hm => ?_, h2⟩)
        match m, hm with
        | 0, _ => exact h0
        | 1, _ => exact h1
    · refine .inr (.inl ⟨1, fun m hm => ?_, h1⟩)
      match m, hm with
      | 0, _ => exact h0
  · exact .inr (.inl ⟨0, fun m hm => absurd hm (Fin.not_lt_zero m), h0⟩)
theorem witness_MailboxResult :
    ({ base with pkg := { base.pkg with mbstate := .suspended } } : State).pkg.mbstate = .suspended ∧ base.pkg.mbstate ≠ .suspended ∧
    ({ base with pkg := { base.pkg with cmd := some 4 } } : State).pkg.cmd ≠ none ∧ base.pkg.cmd = none ∧
    (base.pkg.mbstate = .running ∨ base.pkg.mbstate = .safe) ∧ base.pkg.mbarg.toNat % 4096 = 0 ∧ 1216 ≤ (1216 : BitVec 56).toNat ∧
    (1215 : BitVec 56).toNat < 1216 ∧ 8 + certLength ≤ (4104 : BitVec 56).toNat ∧
    ∀ image, (∀ n : Fin 4, Config.stageVerifies (Config.flashStage image n) = true) ∨
      ∃ n : Fin 4, Config.stageVerifies (Config.flashStage image n) = false := by
  refine ⟨rfl, by decide, by decide, rfl, .inl rfl, by decide, by decide, by decide, ?_, fun image => ?_⟩
  · have : certLength < 4097 := Nat.mod_lt _ (by decide)
    show 8 + certLength ≤ 4104
    omega
  · by_cases h : ∃ n : Fin 4, Config.stageVerifies (Config.flashStage image n) = false
    · exact .inr h
    · exact .inl fun n => Bool.not_eq_false _ ▸ fun e => h ⟨n, e⟩
/-- A group whose first lane is parked on the record of SEQ 9. -/
def parkedGroup : Group := { young with lst := young.lst.set 0 .parked }
def parkedRec : FaultRec := ⟨4, 9, 0, 7, .load, 0, ⟨0, 0, 65536⟩, [(0, 1)], [(0, 0, 0, .load)], 0, 0⟩
def parkedS : State := (trapping parkedGroup).modCore 0 fun k => { k with recs := [parkedRec] }
theorem witness_StopResult :
    (parkedS.group 0 0 = some parkedGroup ∧ (parkedS.core 0).recs.find? (fun e => e.seq == field (9 : DWord).toNat 0 32) = some parkedRec ∧
      parkedRec.waiters = [(parkedGroup.uid, 1)] ∧ parkedS.findGroup 0 parkedGroup.uid = some 0 ∧ (parkedS.core 0).replay = [] ∧ parkedS.reqs = [] ∧
      field (9 : DWord).toNat 32 8 = 0) ∧
    (field (0x600000009 : DWord).toNat 32 8 = 6 ∧ parkedRec.code ≠ 0 ∧ parkedGroup.hmode = false ∧ parkedGroup.halted = false ∧
      parkedGroup.dels = [] ∧ (1 : Lanes) &&& parkedGroup.inState .parked = 1 ∧ parkedGroup.minLpc 1 = some 0 ∧ (parkedS.core 0).trapvec.getLsbD 0 = true ∧
      (∃ b, parkedS.handler 0 0 parkedGroup = some b ∧ parkedS.handlerEntry 0 ≠ b.hlen) ∧ (parkedS.core 0).banks.get parkedGroup.part = none ∧
      parkedS.olderPending 0 0 parkedGroup = false) ∧
    young.stop = .none ∧ ((withGroup { young with stop := .stopped true false }).team 0 0).bind Team.stop = none :=
  ⟨⟨rfl, by decide +kernel, rfl, by decide +kernel, rfl, rfl, by decide⟩,
    ⟨by decide, by decide, rfl, rfl, rfl, by decide +kernel, by decide +kernel, by decide +kernel, ⟨_, rfl, by decide +kernel⟩, rfl,
      alone_older parkedGroup⟩, rfl, rfl⟩
def doorS (prod : Nat) : State :=
  { base.modDie 0 fun d => { d with wqtab := 0x200002 } with
    mem := (base.mem.putNum 0x200040 8 0x300000).putNum 0x200050 8 (2 ^ 34 + prod * 2 ^ 32) }
theorem witness_RegisterWriteResult :
    base.isRetiring (base.die 0).part 1 = false ∧ (base.pkg.mbstate = .running ∧ base.pkg.suspPhase = 0) ∧ (base.core 0).power = .active ∧
    (((powered .gated []).core 1).power ≠ .active ∧ ((powered .gated []).die (dieOf 1)).chive.length < 64) ∧ base.powered = true ∧
    (let s := commanding 1 0 0 id id; let w := s.mem.num (s.queueEntry 0 0 + 0x10) 8;
      field (0x500000000 : DWord).toNat 0 16 < field (s.die 0).lqtab.toNat 0 8 ∧ field w 37 1 = 1 ∧ field w 38 2 = 0 ∧ s.powered = true ∧
      (∀ y ∈ (s.die 0).doors, y.line ≠ 1) ∧ s.diesHeld 0 0 = false) ∧
    (let s := doorS 1; let w := s.mem.num (s.workEntry 0 1 + 0x10) 8;
      (∀ y ∈ (s.die 0).doors, y.line ≠ 0) ∧ s.workOpen 0 1 = true ∧ 1 < field (s.die 0).wqtab.toNat 0 16 ∧ field w 34 1 = 1 ∧ field w 32 2 = 1 ∧ s.powered = true ∧
      (4 + 2 ^ 32 - s.workHead (s.workEntry 0 1)) % 2 ^ 32 ≤ s.workSize (s.workEntry 0 1) ∧
      s.workSize (s.workEntry 0 1) < (5 + 2 ^ 32 - s.workHead (s.workEntry 0 1)) % 2 ^ 32) ∧
    (let s := (doorS 1).modDie 0 fun d => { d with doors := [.work 2] }; ∃ y ∈ (s.die 0).doors, y.line = 0) ∧
    field ((doorS 0).mem.num ((doorS 0).workEntry 0 1 + 0x10) 8) 32 2 ≠ 1 ∧ (base.die 3).part = (base.die 0).part :=
  ⟨by decide +kernel, ⟨rfl, rfl⟩, rfl, ⟨by decide +kernel, by decide +kernel⟩, by decide +kernel,
    ⟨by decide +kernel, by decide +kernel, by decide +kernel, by decide +kernel, fun y hy => (by cases hy), by decide +kernel⟩,
    ⟨fun y hy => (by cases hy), by decide +kernel, by decide +kernel, by decide +kernel, by decide +kernel, by decide +kernel, by decide +kernel, by decide +kernel⟩,
    ⟨.work 2, by decide +kernel, rfl⟩, by decide +kernel, rfl⟩

end Sys2Proof.Tests
end

section
/-! Registers read back what was written (O25): the kept bits of a value, and the registers that hold them. -/
namespace Sys2Proof.Machine

/-! ### Kept bits of a register -/

theorem testBit_field (v lo len i : Nat) : (field v lo len).testBit i = (decide (i < len) && v.testBit (lo + i)) := by
  unfold field
  rw [Nat.testBit_mod_two_pow, Nat.testBit_div_two_pow, Nat.add_comm]

theorem getLsbD_keepBits (v : DWord) (lo len i : Nat) :
    (keepBits v lo len).getLsbD i = (decide (lo ≤ i ∧ i < lo + len) && v.getLsbD i) := by
  unfold keepBits
  rw [BitVec.getLsbD_ofNat, Nat.testBit_mul_two_pow, testBit_field, BitVec.testBit_toNat]
  by_cases h : lo ≤ i
  · by_cases h64 : i < 64
    · have : i - lo < len ↔ i < lo + len := by omega
      simp [h, h64, this, Nat.add_sub_cancel' h]
    · simp [h64, BitVec.getLsbD_of_ge v i (by omega)]
  · simp [h]

/-- Kept bits are the bits of a mask. -/
theorem keepBits_eq_and (v : DWord) (lo len : Nat) : keepBits v lo len = v &&& BitVec.ofNat 64 ((2 ^ len - 1) * 2 ^ lo) := by
  apply BitVec.eq_of_getLsbD_eq
  intro i hi
  rw [getLsbD_keepBits, BitVec.getLsbD_and, BitVec.getLsbD_ofNat, Nat.testBit_mul_two_pow, Nat.testBit_two_pow_sub_one]
  have : lo ≤ i ∧ i < lo + len ↔ lo ≤ i ∧ i - lo < len := by omega
  simp [this, hi, Bool.and_comm]

theorem field_bit (v : DWord) (i : Nat) : (field v.toNat i 1 == 0) = !v.getLsbD i := by
  have h : field v.toNat i 1 = (v.getLsbD i).toNat := by
    rw [BitVec.getLsbD, Nat.testBit_eq_decide_div_mod_eq, field]
    have := Nat.mod_two_eq_zero_or_one (v.toNat / 2 ^ i)
    rcases this with h | h <;> simp [h]
  rw [h]; cases v.getLsbD i <;> rfl

/-- The two bits of CORECTL. -/
theorem setWidth_ofNat_two (v : DWord) : (BitVec.ofNat 2 v.toNat).setWidth 64 = v &&& 3 := by
  have h : (BitVec.ofNat 2 v.toNat).setWidth 64 = keepBits v 0 2 := by
    apply BitVec.eq_of_toNat_eq
    simp [keepBits, field]
  rw [h, keepBits_eq_and]
  rfl

/-! ### Reading back -/

/-- Settles O25: each register holds the kept bits of the value, which are those of a mask. -/
theorem registerReadsBack : Obligations.RegisterReadsBack := by
  intro s c v
  refine ⟨?_, ?_, ?_, ?_, ?_, ?_, ?_, ?_, ?_⟩
  · show (((s.modCore c _).core c).corectl).setWidth 64 = _
    rw [State.core_modCore_eq, setWidth_ofNat_two]
  · show ((s.modCore c _).core c).trapvec = _
    rw [State.core_modCore_eq, keepBits_eq_and, keepBits_eq_and, ← BitVec.and_or_distrib_left]
    rfl
  · show ((s.modCore c _).core c).ctxbase = _
    rw [State.core_modCore_eq, keepBits_eq_and]; rfl
  · show ((s.modCore c _).core c).ctxlen = _
    rw [State.core_modCore_eq, keepBits_eq_and]; rfl
  · show ((s.modCore c _).core c).timerm = _
    rw [State.core_modCore_eq]
  · show ((s.modDie _ _).die (dieOf c)).spacetb = _
    rw [State.die_modDie_eq, keepBits_eq_and]; rfl
  · show ((s.modDie _ _).die (dieOf c)).retcnt = _
    rw [State.die_modDie_eq, keepBits_eq_and]; rfl
  · show ((s.modCore c _).core c).tev = _
    rw [State.core_modCore_eq, ← field_bit]
  · show ((s.modCore c _).core c).hbad = _
    rw [State.core_modCore_eq, ← field_bit]
end Sys2Proof.Machine

end

section
/-! The frame of a retirement: every operation that SPRETIRE is made of keeps the list of spaces that are being retired and the
partition of each die, so that what it adds to the list stands at its end (R314). -/
namespace Sys2Proof.Machine

/-- What a retirement rests on beside the entries in memory: the spaces that are being retired, and the partition of each die. -/
def State.retirement (s : State) : List Retiring × (Fin 4 → Fin 4) := (s.retiring, fun d => (s.die d).part)

theorem State.retirement_eq_iff {s t : State} :
    t.retirement = s.retirement ↔ t.retiring = s.retiring ∧ ∀ d, (t.die d).part = (s.die d).part := by
  simp only [State.retirement, Prod.mk.injEq, funext_iff]

/-- Every field but the dies and the list itself may change. -/
@[simp] theorem State.retirement_with (s : State) cores ports links pkg mem reft tags marks reqs copies tokens xlinvs files grids quotes
    graphs saved past claims late served outbox nextId fresh picks agenda cur :
    State.retirement ⟨cores, s.dies, ports, links, pkg, mem, reft, tags, marks, reqs, copies, tokens, xlinvs, s.retiring, files, grids,
      quotes, graphs, saved, past, claims, late, served, outbox, nextId, fresh, picks, agenda, cur⟩ = s.retirement := rfl

/-! ### The state's own operations -/

@[simp] theorem State.retirement_setCore (s : State) (c k) : (s.setCore c k).retirement = s.retirement := rfl
@[simp] theorem State.retirement_modCore (s : State) (c f) : (s.modCore c f).retirement = s.retirement := rfl
@[simp] theorem State.retirement_setGroup (s : State) (c g x) : (s.setGroup c g x).retirement = s.retirement := rfl
@[simp] theorem State.retirement_setTeam (s : State) (c t x) : (s.setTeam c t x).retirement = s.retirement := rfl
@[simp] theorem State.retirement_setStream (s : State) (c b x) : (s.setStream c b x).retirement = s.retirement := rfl
@[simp] theorem State.retirement_modGrid (s : State) (id f) : (s.modGrid id f).retirement = s.retirement := rfl
@[simp] theorem State.retirement_modQuote (s : State) (id f) : (s.modQuote id f).retirement = s.retirement := rfl
@[simp] theorem State.retirement_modGraph (s : State) (id f) : (s.modGraph id f).retirement = s.retirement := rfl
@[simp] theorem State.retirement_modReq (s : State) (id f) : (s.modReq id f).retirement = s.retirement := rfl
@[simp] theorem State.retirement_dropReq (s : State) (id) : (s.dropReq id).retirement = s.retirement := rfl
@[simp] theorem State.retirement_freeBank (s : State) (c p) : (s.freeBank c p).retirement = s.retirement := rfl
@[simp] theorem State.retirement_freeSpan (s : State) (c a) : (s.freeSpan c a).retirement = s.retirement := rfl
@[simp] theorem State.retirement_notifyScheduler (s : State) (d) : (s.notifyScheduler d).retirement = s.retirement := rfl
@[simp] theorem State.retirement_unmark (s : State) (arr c a n) : (s.unmark arr c a n).retirement = s.retirement := rfl
@[simp] theorem State.retirement_voidQuotes (s : State) (f) : (s.voidQuotes f).retirement = s.retirement := rfl
@[simp] theorem State.retirement_draw (s : State) : s.draw.2.retirement = s.retirement := rfl
@[simp] theorem State.retirement_newId (s : State) : s.newId.2.retirement = s.retirement := rfl
@[simp] theorem State.retirement_portSend (s : State) (p n m) : (s.portSend p n m).retirement = s.retirement := rfl
@[simp] theorem State.retirement_putLate (s : State) (d sp va bs) : (s.putLate d sp va bs).retirement = s.retirement := rfl

@[simp] theorem State.retirement_modGroup (s : State) (c g f) : (s.modGroup c g f).retirement = s.retirement := by
  unfold State.modGroup; split <;> simp
@[simp] theorem State.retirement_modTeam (s : State) (c t f) : (s.modTeam c t f).retirement = s.retirement := by
  unfold State.modTeam; split <;> simp

/-- A change of a die that leaves it in its partition. -/
@[simp] theorem State.retirement_modDie (s : State) (d : Fin 4) (f : Die → Die) (h : (f (s.die d)).part = (s.die d).part) :
    (s.modDie d f).retirement = s.retirement := by
  rw [State.retirement_eq_iff]
  refine ⟨rfl, fun e => ?_⟩
  by_cases he : d = e
  · subst he; rw [State.die_modDie_eq, h]
  · rw [State.die_modDie_ne _ _ he]

/-- A fold of operations that keep it. -/
theorem State.retirement_foldl {α : Type} {f : State → α → State} (h : ∀ s a, (f s a).retirement = s.retirement) (l : List α) :
    ∀ s : State, (l.foldl f s).retirement = s.retirement := by
  induction l with
  | nil => intro s; rfl
  | cons a as ih => intro s; rw [List.foldl_cons, ih, h]

/-! ### Memory and the arrays -/

@[simp] theorem State.retirement_inject (s : State) (d arr c a n) : (s.inject d arr c a n).retirement = s.retirement := by
  unfold State.inject
  dsimp only
  split
  · exact (State.retirement_with (s.modDie d _) ..).trans (by simp)
  · rfl
@[simp] theorem State.retirement_wrote (s : State) (pa bs m) : (s.wrote pa bs m).retirement = s.retirement := by simp [State.wrote]
@[simp] theorem State.retirement_pstore (s : State) (pa bs) : (s.pstore pa bs).retirement = s.retirement := by simp [State.pstore]
@[simp] theorem State.retirement_pput (s : State) (pa n v) : (s.pput pa n v).retirement = s.retirement := by simp [State.pput]
@[simp] theorem State.retirement_logError (s : State) (d arr ue inj core addr ctx) :
    (s.logError d arr ue inj core addr ctx).retirement = s.retirement := by
  unfold State.logError
  dsimp only
  rw [State.retirement_modDie _ _ _ rfl]
  split <;> simp
@[simp] theorem State.retirement_consume (s : State) (d arr c a n ctx) : (s.consume d arr c a n ctx).2.retirement = s.retirement := by
  unfold State.consume
  exact State.retirement_foldl (fun s m => by simp) _ s
@[simp] theorem State.retirement_consumeVault (s : State) (d pa n ctx) : (s.consumeVault d pa n ctx).2.retirement = s.retirement := by
  simp [State.consumeVault]

/-! ### Translation -/

@[simp] theorem State.retirement_orEntry (s : State) (ent a d) : (s.orEntry ent a d).retirement = s.retirement := by
  unfold State.orEntry
  exact (apply_ite State.retirement ..).trans (ite_self _)

@[simp] theorem State.retirement_walkFrom (d va ctx) : ∀ (n t : Nat) (s : State),
    (s.walkFrom d va ctx n t).2.retirement = s.retirement
  | 0, _, _ => rfl
  | lvl + 1, t, s => by
    have hc := State.retirement_consumeVault s d (t + 8 * walkIndex lvl va) 8 ctx
    have ih := State.retirement_walkFrom d va ctx lvl
    unfold State.walkFrom
    dsimp only
    split
    · rfl
    · split
      · rename_i u hu
        rw [hu] at hc
        exact hc
      · rename_i u hu
        rw [hu] at hc
        split
        · exact hc
        · split
          · exact hc
          · split
            · split <;> exact hc
            · split
              · exact hc
              · split
                · exact (ih ..).trans hc
                · exact hc

@[simp] theorem State.retirement_meetTlb (s : State) (d sp va k who ctx t) : (s.meetTlb d sp va k who ctx t).2.retirement = s.retirement := by
  have hc := State.retirement_consume s d 5 0 (t.slice * 4096 + t.way) 1 ctx
  unfold State.meetTlb
  split
  · simp_all
  · split <;> simp_all
    split <;> simp_all

@[simp] theorem State.retirement_meetLeaf (s : State) (d sp va k who slice level ent e) :
    (s.meetLeaf d sp va k who slice level ent e).2.retirement = s.retirement := by
  unfold State.meetLeaf
  split
  · simp
  · rfl

@[simp] theorem State.retirement_translate (s : State) (c sp va k who ctx) : (s.translate c sp va k who ctx).2.retirement = s.retirement := by
  unfold State.translate
  dsimp only
  split
  · rfl
  split
  · rfl
  · rename_i e _
    have hc := State.retirement_consumeVault s (homeDie va) e 16 ctx
    split
    · simp
    · split
      · rfl
      · split
        · simp_all
        · split
          · simp_all
          · rename_i u _ _ root _
            have hw := State.retirement_walkFrom (homeDie va) va.toNat ctx 5 root u
            split <;> simp_all

/-! ### Records and deliveries -/

@[simp] theorem State.retirement_writeRecord (s : State) (c ws fr) : (s.writeRecord c ws fr).retirement = s.retirement := by
  unfold State.writeRecord
  dsimp only
  rw [State.retirement_modCore, State.retirement_notifyScheduler]
  split <;> simp
@[simp] theorem State.retirement_pushRecord (s : State) (c ws fr) : (s.pushRecord c ws fr).retirement = s.retirement := by
  unfold State.pushRecord; split <;> simp

@[simp] theorem State.retirement_beginDeliveries (c gid) : ∀ (ds : List Delivery) (s : State),
    (s.beginDeliveries c gid ds).retirement = s.retirement
  | [], s => by simp [State.beginDeliveries]
  | d :: rest, s => by
    have ih := State.retirement_beginDeliveries c gid rest
    unfold State.beginDeliveries
    split
    · rfl
    · split
      · split
        · split
          · simp
          · dsimp only
            split <;> simp
        · simp [ih]
      · simp [ih]

@[simp] theorem State.retirement_pumpDeliveries (s : State) (c gid) : (s.pumpDeliveries c gid).retirement = s.retirement := by
  unfold State.pumpDeliveries
  split
  · rfl
  · split <;> simp
@[simp] theorem State.retirement_deliver (s : State) (c gid ds) : (s.deliver c gid ds).retirement = s.retirement := by
  unfold State.deliver
  split
  · rfl
  · split
    · rfl
    · dsimp only
      split
      · simp
      · split <;> simp
@[simp] theorem State.retirement_dropHandler (s : State) (c gid) : (s.dropHandler c gid).retirement = s.retirement := by
  unfold State.dropHandler
  split
  · rfl
  · split
    · dsimp only
      split
      · split <;> simp
      · simp
    · rfl

/-! ### A front end's accesses -/

@[simp] theorem State.retirement_frontXlate (s : State) (d sp va k) : (s.frontXlate d sp va k).2.retirement = s.retirement := by
  simp [State.frontXlate]
@[simp] theorem State.retirement_frameSend (s : State) (id pa op data) : (s.frameSend id pa op data).retirement = s.retirement := by
  unfold State.frameSend; split <;> simp
@[simp] theorem State.retirement_frontWrite (s : State) (pa bs) : (s.frontWrite pa bs).retirement = s.retirement := by
  unfold State.frontWrite
  split
  · simp
  · exact (State.retirement_frameSend ..).trans rfl

@[simp] theorem State.retirement_frontStoreGo (d sp) : ∀ (n va : Nat) (bs : List Byte) (s : State),
    (State.frontStoreGo d sp n va bs s).2.retirement = s.retirement
  | 0, _, _, _ => rfl
  | n + 1, va, bs, s => by
    have hx := State.retirement_frontXlate s d sp (BitVec.ofNat 64 va) .store
    have ih := State.retirement_frontStoreGo d sp n
    unfold State.frontStoreGo
    split
    · rfl
    · split <;> simp_all only
      split
      · exact hx
      · rw [ih, State.retirement_frontWrite, hx]

@[simp] theorem State.retirement_frontStore (s : State) (d sp va bs) : (s.frontStore d sp va bs).2.retirement = s.retirement := by
  simp [State.frontStore]
@[simp] theorem State.retirement_frontPut (s : State) (d sp va bs) : (s.frontPut d sp va bs).retirement = s.retirement := by
  have h := State.retirement_frontStore s d sp va bs
  unfold State.frontPut
  split
  · simp
  · split <;> simp_all
@[simp] theorem State.retirement_frontForce (s : State) (d sp va bs) : (s.frontForce d sp va bs).retirement = s.retirement := by
  have h := State.retirement_frontXlate s d sp va .store
  unfold State.frontForce
  split <;> simp_all
@[simp] theorem State.retirement_writeStatus (s : State) (d sp st w) : (s.writeStatus d sp st w).retirement = s.retirement := by
  simp [State.writeStatus]
@[simp] theorem State.retirement_writeAt (s : State) (a w) : (s.writeAt a w).retirement = s.retirement := by simp [State.writeAt]
@[simp] theorem State.retirement_forceAt (s : State) (a w) : (s.forceAt a w).retirement = s.retirement := by simp [State.forceAt]
@[simp] theorem State.retirement_putCtl (s : State) (g off n v) : (s.putCtl g off n v).retirement = s.retirement := by
  simp [State.putCtl]

/-! ### The end of work -/

@[simp] theorem State.retirement_writeBreach (s : State) (q ws) : (s.writeBreach q ws).retirement = s.retirement := by
  simp [State.writeBreach, State.writeBreachAt]
@[simp] theorem State.retirement_breachCheck (s : State) (q kind p) : (s.breachCheck q kind p).retirement = s.retirement := by
  unfold State.breachCheck
  dsimp only
  split <;> simp
@[simp] theorem State.retirement_settleQuote (s : State) (qid kind) : (s.settleQuote qid kind).retirement = s.retirement := by
  unfold State.settleQuote; split <;> simp
@[simp] theorem State.retirement_zeroRecords (g e) : ∀ (n i : Nat) (s : State), (s.zeroRecords g e i n).retirement = s.retirement
  | 0, _, _ => rfl
  | n + 1, i, s => by simp [State.zeroRecords, State.retirement_zeroRecords g e n]
@[simp] theorem State.retirement_completeFiring (s : State) (gid fid) : (s.completeFiring gid fid).retirement = s.retirement := by
  unfold State.completeFiring
  split
  · rfl
  · split
    · rfl
    · dsimp only
      rw [State.retirement_modGraph]
      split <;> simp [State.retirement_foldl]
@[simp] theorem State.retirement_reapGrid (s : State) (id) : (s.reapGrid id).retirement = s.retirement := by
  unfold State.reapGrid
  split
  · rfl
  · dsimp only
    split <;> simp
@[simp] theorem State.retirement_finishGrid (s : State) (id code kind) : (s.finishGrid id code kind).retirement = s.retirement := by
  unfold State.finishGrid
  split
  · rfl
  · dsimp only
    split <;> split <;> split <;> simp
@[simp] theorem State.retirement_teamFinished (s : State) (id) : (s.teamFinished id).retirement = s.retirement := by
  unfold State.teamFinished
  split
  · rfl
  · split
    · rfl
    · split <;> simp

@[simp] theorem State.retirement_closeServed (s : State) (team tids) : (s.closeServed team tids).retirement = s.retirement := by
  unfold State.closeServed
  dsimp only
  rw [State.retirement_foldl]
  · simp
  · intro s r
    split
    · split <;> simp
    · rfl
@[simp] theorem State.retirement_endServed (s : State) (c g) : (s.endServed c g).retirement = s.retirement := by
  unfold State.endServed; split <;> simp
@[simp] theorem State.retirement_endLoan (s : State) (c) : (s.endLoan c).retirement = s.retirement := by
  unfold State.endLoan
  dsimp only
  split <;> simp
@[simp] theorem State.retirement_dropLoan (s : State) (c uid) : (s.dropLoan c uid).retirement = s.retirement := by
  unfold State.dropLoan; split <;> simp
@[simp] theorem State.retirement_returnLoan (s : State) (c gid n) : (s.returnLoan c gid n).retirement = s.retirement := by
  unfold State.returnLoan
  split
  · rfl
  · dsimp only
    split <;> simp
@[simp] theorem State.retirement_exitGroup (s : State) (c gid g) : (s.exitGroup c gid g).retirement = s.retirement := by
  unfold State.exitGroup
  dsimp only
  split
  · simp
  · split
    · rw [State.retirement_teamFinished]
      split <;> simp
    · simp

/-! ### Regrouping and settling -/

@[simp] theorem State.retirement_branchAll (s : State) (c set) : (s.branchAll c set).retirement = s.retirement :=
  State.retirement_foldl (fun s x => by simp) _ s
@[simp] theorem State.retirement_placeNew (c set) : ∀ (l : List ((NewGroup × Option Nat) × Fin 128 × (Nat × Nat))) (s : State),
    (s.placeNew c set l).retirement = s.retirement
  | [], _ => rfl
  | ((n, share), num, age) :: rest, s => by
    have ih := State.retirement_placeNew c set rest
    unfold State.placeNew
    dsimp only
    split
    · rw [ih, State.retirement_newId]
    · rw [ih]
      split <;> simp
@[simp] theorem State.retirement_vacate (s : State) (c : Fin 128) (l : List (Fin 128)) :
    (l.foldl (fun s i => s.setGroup c i none) s).retirement = s.retirement := State.retirement_foldl (fun s i => by simp) l s
@[simp] theorem State.retirement_regroupSet (s : State) (c t set) : (s.regroupSet c t set).retirement = s.retirement := by
  unfold State.regroupSet
  split
  · split
    · rfl
    · dsimp only
      split
      · split <;> simp
      · simp
  · rfl
@[simp] theorem State.retirement_regroupAt (s : State) (c t site) : (s.regroupAt c t site).retirement = s.retirement := by
  unfold State.regroupAt
  refine State.retirement_foldl (fun s w => ?_) _ s
  dsimp only
  split <;> simp
@[simp] theorem State.retirement_regroupDue (s : State) (c t begun) : (s.regroupDue c t begun).retirement = s.retirement := by
  unfold State.regroupDue
  dsimp only
  split
  · exact State.retirement_foldl (fun s a => by simp) _ s
  · split
    · split <;> simp
    · rfl

@[simp] theorem State.retirement_settleOne (s : State) (c gid) : (s.settleOne c gid).1.retirement = s.retirement := by
  unfold State.settleOne
  split
  · rfl
  · dsimp only
    split
    · simp
    · split
      · simp
      · split <;> simp
@[simp] theorem State.retirement_settleGo (c) : ∀ (n : Nat) (l : List (Fin 128)) (s : State), (s.settleGo c n l).retirement = s.retirement
  | 0, _, _ => rfl
  | _ + 1, [], _ => rfl
  | n + 1, gid :: rest, s => by
    have h1 := State.retirement_settleOne s c gid
    have ih := State.retirement_settleGo c n
    unfold State.settleGo
    split <;> simp_all
@[simp] theorem State.retirement_settle (s : State) (c gid) : (s.settle c gid).retirement = s.retirement := by simp [State.settle]

/-! ### Accesses that end -/

@[simp] theorem State.retirement_modEntryOf (s : State) (c uid q e f) : (s.modEntryOf c uid q e f).retirement = s.retirement := by
  unfold State.modEntryOf
  split
  · rfl
  · dsimp only
    split
    · simp
    · split <;> simp
@[simp] theorem State.retirement_recordGone (s : State) (c r ls code d) : (s.recordGone c r ls code d).retirement = s.retirement := by
  unfold State.recordGone
  dsimp only
  split <;> simp
@[simp] theorem State.retirement_streamFault (s : State) (y code acc va d0 d1 w) :
    (s.streamFault y code acc va d0 d1 w).retirement = s.retirement := by
  simp [State.streamFault]
@[simp] theorem State.retirement_refuseIn (s : State) (c gid r m code d) : (s.refuseIn c gid r m code d).retirement = s.retirement := by
  unfold State.refuseIn; split <;> simp
@[simp] theorem State.retirement_refuseReplay (s : State) (c r code d told) :
    (s.refuseReplay c r code d told).retirement = s.retirement := by
  unfold State.refuseReplay
  dsimp only
  split
  · split
    · split <;> simp
    · split <;> simp
  · rw [State.retirement_foldl (fun s i => by simp), State.retirement_recordGone]
    split <;> simp
@[simp] theorem State.retirement_deliverHeld (s : State) (c rs code d told) : (s.deliverHeld c rs code d told).retirement = s.retirement := by
  unfold State.deliverHeld
  refine State.retirement_foldl (fun s gid => ?_) _ s
  split
  · rfl
  · dsimp only
    split <;> simp
@[simp] theorem State.retirement_refuseHeld (s : State) (c rs code d told) : (s.refuseHeld c rs code d told).retirement = s.retirement := by
  unfold State.refuseHeld
  rw [State.retirement_deliverHeld]
  refine State.retirement_foldl (fun s r => ?_) _ s
  rw [State.retirement_dropReq]
  split <;> simp
@[simp] theorem State.retirement_refuseAccess (s : State) (r rs code d) : (s.refuseAccess r rs code d).retirement = s.retirement := by
  unfold State.refuseAccess
  split
  · dsimp only
    split <;> simp
  · simp

/-! ### The retirement itself -/

@[simp] theorem State.retirement_dropSaves (s : State) (ids) : (s.dropSaves ids).retirement = s.retirement := by
  unfold State.dropSaves
  dsimp only
  refine (State.retirement_with (List.foldl _ s _) ..).trans (State.retirement_foldl (fun s x => ?_) _ s)
  refine State.retirement_foldl (fun s h => ?_) _ s
  split <;> simp
@[simp] theorem State.retirement_settleXlinvs (s : State) (p n) : (s.settleXlinvs p n).retirement = s.retirement := by
  unfold State.settleXlinvs
  refine State.retirement_foldl (fun s v => ?_) _ s
  have h := State.retirement_translate s v.core v.space v.counter .store .host none
  split <;> simp_all
@[simp] theorem State.retirement_retireGraph (s : State) (g) : (s.retireGraph g).retirement = s.retirement := by
  unfold State.retireGraph
  dsimp only
  rw [State.retirement_modGraph]
  split <;> split <;> simp
@[simp] theorem State.retirement_setRet (s : State) (n d) : (s.setRet n d).retirement = s.retirement := by
  unfold State.setRet; split <;> simp
@[simp] theorem State.retirement_parkEnded (s : State) (c i n) : (s.parkEnded c i n).retirement = s.retirement := by
  unfold State.parkEnded
  split
  · split <;> simp
  · simp
@[simp] theorem State.retirement_endParks (s : State) (c n) : (s.endParks c n).retirement = s.retirement := by
  unfold State.endParks
  dsimp only
  rw [State.retirement_foldl]
  · simp
  · intro s r
    refine State.retirement_foldl (fun s w => ?_) _ s
    split
    · rfl
    · split
      · rfl
      · split <;> simp
@[simp] theorem State.retirement_endHeld (s : State) (c n) : (s.endHeld c n).retirement = s.retirement := by
  unfold State.endHeld
  dsimp only
  have pairs : ∀ (l : List Replay) (a : List (Nat × BitVec 12) × State), (l.foldl (fun a r =>
      (a.1 ++ r.threads.map fun l => (r.team, l.1), a.2.refuseReplay c r 0x10 (spaceDetail n) a.1)) a).2.retirement = a.2.retirement := by
    intro l
    induction l with
    | nil => intro a; rfl
    | cons r rs ih => intro a; rw [List.foldl_cons, ih]; simp
  rw [pairs, State.retirement_modCore, State.retirement_refuseHeld, State.retirement_foldl]
  simp

/-! ### What SPRETIRE does -/

theorem State.retirement_append {s t : State} (h : t.retirement = s.retirement) (r : Retiring) (claims : List Claim) :
    State.retirement { t with retiring := t.retiring ++ [r], claims := claims } = (s.retiring ++ [r], fun e => (s.die e).part) := by
  obtain ⟨h1, h2⟩ := State.retirement_eq_iff.1 h
  exact Prod.ext (congrArg (· ++ [r]) h1) (funext h2)

/-- The first SPRETIRE of a space: whatever it ends, the space then stands at the end of the list, no die has changed its partition,
and last of all the space's quotations become VOID. -/
theorem State.startRetire_first {s : State} {d : Fin 4} {n : Word} (h : s.isRetiring (s.die d).part n = false) :
    ∃ t : State, s.startRetire d n = t.voidQuotes (fun q => q.space == n && (t.die q.die).part == (s.die d).part) ∧
      t.retirement = (s.retiring ++ [⟨n, (s.die d).part, [d]⟩], fun e => (s.die e).part) := by
  unfold State.startRetire
  dsimp only
  rw [if_neg (by simp [h])]
  refine ⟨_, rfl, ?_⟩
  rw [State.retirement_foldl (fun s c => by simp), State.retirement_foldl (fun s x => by simp)]
  refine State.retirement_append ?_ _ _
  rw [State.retirement_settleXlinvs, State.retirement_dropSaves, State.retirement_foldl, State.retirement_foldl]
  · intro s g; simp
  · intro s id
    split
    · split <;> simp
    · rfl

/-- A space that is being retired is valid on no die of the partition. -/
theorem State.spaceRoot_retiring {s : State} {d : Fin 4} {n : Word} (h : s.isRetiring (s.die d).part n = true) :
    s.spaceRoot d n = none := by
  unfold State.spaceRoot
  split
  · rfl
  · simp [h]

/-- No quotation of those that are made VOID stays QUOTED. -/
theorem State.voidQuotes_state {s : State} {f : Quote → Bool} {q : Quote}
    (hq : q ∈ (s.voidQuotes f).quotes) (h : f q = true) : q.state ≠ .quoted := by
  obtain ⟨o, -, rfl⟩ := List.mem_map.1 hq
  by_cases ho : o.state = .quoted ∧ f o = true
  · rw [if_pos ho]; simp
  · rw [if_neg ho] at h ⊢
    exact fun e => ho ⟨e, h⟩

/-- SPRETIRE of a space that is not being retired yet (R314). -/
theorem State.startRetire_spec {s : State} {d : Fin 4} {n : Word} (h : s.isRetiring (s.die d).part n = false) :
    (s.startRetire d n).retiring = s.retiring ++ [⟨n, (s.die d).part, [d]⟩] ∧
    (∀ e, (s.die e).part = (s.die d).part → (s.startRetire d n).spaceRoot e n = none) ∧
    ∀ q ∈ (s.startRetire d n).quotes, q.space = n → (s.die q.die).part = (s.die d).part → q.state ≠ .quoted := by
  obtain ⟨t, ht, hr⟩ := State.startRetire_first h
  obtain ⟨hret, hpart⟩ := Prod.ext_iff.1 hr
  have hpart (e) : (t.die e).part = (s.die e).part := congrFun hpart e
  rw [ht]
  refine ⟨hret, fun e he => ?_, fun q hq hn hp => ?_⟩
  · refine State.spaceRoot_retiring ?_
    show (t.retiring.any fun r => r.space == n && r.part == (t.die e).part) = true
    rw [show t.retiring = _ from hret, hpart, he]
    simp
  · exact State.voidQuotes_state hq (by simp [hn, hpart, hp])

end Sys2Proof.Machine

end

section
/-! What a write of each register that acts does (O60): suspends, doorbells, wake events, and the front end's tables. -/
namespace Sys2Proof.Machine

/-! ### A device suspend -/

@[simp] theorem State.team_setStream (s : State) (c : Fin 128) (b : Bool) (x : Option Stream) (k : Fin 128) (i : Fin 16) :
    (s.setStream c b x).team k i = s.team k i := by
  unfold State.team State.setStream
  by_cases h : c = k
  · subst h
    rw [State.core_modCore_eq]
    split <;> rfl
  · rw [State.core_modCore_ne _ _ h]

theorem State.team_setTeam_ne (s : State) {c k : Fin 128} {t i : Fin 16} (x : Option Team) (h : (c, t) ≠ (k, i)) :
    (s.setTeam c t x).team k i = s.team k i := by
  unfold State.team State.setTeam
  by_cases hc : c = k
  · subst hc
    have ht : t ≠ i := fun e => h (by rw [e])
    simp [Tab.get_set_ne _ _ ht]
  · rw [State.core_modCore_ne _ _ hc]

/-- A quantity that every step of a fold keeps. -/
theorem State.foldl_keeps {α β : Type} (v : State → β) {f : State → α → State} (h : ∀ s a, v (f s a) = v s) (l : List α) :
    ∀ s : State, v (l.foldl f s) = v s := by
  induction l with
  | nil => intro s; rfl
  | cons a as ih => intro s; rw [List.foldl_cons, ih, h]

/-- A half as a stop leaves it: a first request stands, and a further one joins it (R343). -/
def Team.asked (m : Team) (safe : Bool) (span : Option (Nat × Nat)) (suspend : Bool) : Team :=
  { m with stop := some (match m.stop with
    | some x => { x with safePoint := x.safePoint && safe, span := if x.span.isSome then x.span else span, suspend := x.suspend && suspend }
    | none => ⟨safe, 0, span, suspend⟩) }

/-- Beside the half itself, a stop asks groups and streams alone. -/
theorem State.askHalf_beside {β : Type} (v : State → β) (hg : ∀ s c i x, v (s.setGroup c i x) = v s)
    (hs : ∀ s c b x, v (s.setStream c b x) = v s) {s : State} {c : Fin 128} {slot : Fin 16} {m : Team} (h : s.team c slot = some m)
    (safe : Bool) (span : Option (Nat × Nat)) (suspend : Bool) :
    v (s.askHalf c slot safe span suspend) = v (s.setTeam c slot (some (m.asked safe span suspend))) := by
  have streams : ∀ s b, v (match (s.core c).stream b with
      | some st => if st.team = slot then s.setStream c b (some { st with stopped := true }) else s
      | none => s) = v s := by
    intro s b
    split
    · split
      · exact hs ..
      · rfl
    · rfl
  unfold State.askHalf Team.asked
  rw [h]
  dsimp only
  cases hm : m.stop <;> dsimp only <;> split
  · exact State.foldl_keeps v (fun s x => hg ..) _ _
  · exact (State.foldl_keeps v streams _ _).trans (State.foldl_keeps v (fun s x => hg ..) _ _)
  · exact State.foldl_keeps v (fun s x => hg ..) _ _
  · exact (State.foldl_keeps v streams _ _).trans (State.foldl_keeps v (fun s x => hg ..) _ _)

theorem State.team_askHalf {s : State} {c : Fin 128} {slot : Fin 16} {m : Team} (h : s.team c slot = some m) (safe : Bool)
    (span : Option (Nat × Nat)) (suspend : Bool) (k : Fin 128) (i : Fin 16) :
    (s.askHalf c slot safe span suspend).team k i = (s.setTeam c slot (some (m.asked safe span suspend))).team k i :=
  State.askHalf_beside (fun s => s.team k i) (fun _ _ _ _ => State.team_setGroup ..) (fun _ _ _ _ => State.team_setStream ..) h ..

/-- A stop leaves alone what is no part of a core. -/
theorem State.askHalf_keeps {β : Type} (v : State → β) (hv : ∀ s c k, v (s.setCore c k) = v s) (s : State) (c : Fin 128) (slot : Fin 16)
    (safe : Bool) (span : Option (Nat × Nat)) (suspend : Bool) : v (s.askHalf c slot safe span suspend) = v s := by
  cases h : s.team c slot with
  | none => unfold State.askHalf; rw [h]
  | some m => exact (State.askHalf_beside v (fun _ _ _ _ => hv ..) (fun _ _ _ _ => hv ..) h ..).trans (hv ..)

/-- What a suspend does to a team that was not asked to stop before. -/
def Team.suspended (m : Team) (safe : Bool) : Team := { m with stop := some ⟨safe, 0, none, true⟩ }

/-- Asking a team twice for one suspend asks it once. -/
theorem State.team_askHalf_eq {s : State} {c : Fin 128} {slot : Fin 16} {m : Team} {safe : Bool} (hm : m.stop = none)
    (h : s.team c slot = some m ∨ s.team c slot = some (m.suspended safe)) :
    (s.askHalf c slot safe none true).team c slot = some (m.suspended safe) := by
  rcases h with h | h
  · rw [State.team_askHalf h, State.team_setTeam_eq]
    simp [Team.asked, Team.suspended, hm]
  · rw [State.team_askHalf h, State.team_setTeam_eq]
    simp [Team.asked, Team.suspended]

theorem State.team_askHalf_ne (s : State) {c k : Fin 128} {slot i : Fin 16} (safe : Bool) (span : Option (Nat × Nat)) (suspend : Bool)
    (h : (c, slot) ≠ (k, i)) : (s.askHalf c slot safe span suspend).team k i = s.team k i := by
  cases ht : s.team c slot with
  | none => unfold State.askHalf; rw [ht]
  | some m => rw [State.team_askHalf ht, State.team_setTeam_ne _ _ h]

/-- The stop of every team of a list for a suspend: at safe points, or at instruction boundaries where the grid's queue has IMM set. -/
def State.suspendTeams (s : State) (l : List (Fin 128 × Fin 16 × Team)) : State :=
  l.foldl (fun s x => s.askHalf x.1 x.2.1 (!(s.grid x.2.2.grid).elim false Grid.imm) none true) s

theorem State.suspendTeams_keeps {β : Type} (v : State → β) (hv : ∀ s c k, v (s.setCore c k) = v s) (s : State)
    (l : List (Fin 128 × Fin 16 × Team)) : v (s.suspendTeams l) = v s :=
  State.foldl_keeps v (fun _ _ => State.askHalf_keeps v hv ..) l s

theorem State.team_suspendTeams {k : Fin 128} {i : Fin 16} {m : Team} {safe : Bool} (hm : m.stop = none) :
    ∀ (l : List (Fin 128 × Fin 16 × Team)) (s : State), (∀ x ∈ l, (x.1, x.2.1) = (k, i) → x.2.2 = m) →
      safe = !(s.grid m.grid).elim false Grid.imm →
      (s.team k i = some m ∧ (k, i, m) ∈ l ∨ s.team k i = some (m.suspended safe)) →
      (s.suspendTeams l).team k i = some (m.suspended safe)
  | [], s, _, _, h => h.resolve_left fun h => List.not_mem_nil h.2
  | (c, j, t) :: l, s, hl, hs, h => by
    have step : (s.suspendTeams ((c, j, t) :: l)) = (s.askHalf c j (!(s.grid t.grid).elim false Grid.imm) none true).suspendTeams l := rfl
    rw [step]
    refine State.team_suspendTeams hm l _ (fun x hx => hl x (List.mem_cons_of_mem _ hx)) ?_ ?_
    · rw [State.askHalf_keeps (fun s => s.grid m.grid) (fun _ _ _ => rfl)]; exact hs
    · by_cases hk : (c, j) = (k, i)
      · have ht : t = m := hl _ List.mem_cons_self hk
        cases hk
        subst ht
        rw [← hs]
        exact .inr (State.team_askHalf_eq hm (h.imp_left And.left))
      · rw [State.team_askHalf_ne _ _ _ _ hk]
        refine h.imp_left fun h => ⟨h.1, (List.mem_cons.1 h.2).resolve_left fun e => ?_⟩
        cases e
        exact hk rfl

/-- Every team is among those that satisfy a test it satisfies, and each one listed is what stands at its place. -/
theorem State.mem_teamsWhere {s : State} {f : Fin 128 → Team → Bool} {k : Fin 128} {i : Fin 16} {m : Team} :
    (k, i, m) ∈ s.teamsWhere f ↔ s.team k i = some m ∧ f k m = true := by
  unfold State.teamsWhere
  simp only [List.mem_flatMap, List.mem_filterMap, List.mem_finRange, allCores, true_and]
  constructor
  · rintro ⟨c, j, h⟩
    split at h
    · split at h
      · cases h; exact ⟨by assumption, by assumption⟩
      · cases h
    · cases h
  · rintro ⟨h, hf⟩
    exact ⟨k, i, by rw [h]; simp [hf]⟩

/-- The quotations of a device that suspends. -/
theorem State.suspendQuotes_state {s : State} {q : Quote} (hq : q ∈ s.suspendQuotes.quotes) :
    q.state ≠ .quoted ∧ (q.state = .running → q.paused = true) := by
  obtain ⟨o, ho, rfl⟩ := List.mem_map.1 hq
  have h := State.voidQuotes_state ho rfl
  split
  · exact ⟨h, fun _ => rfl⟩
  · exact ⟨h, fun e => absurd e (by assumption)⟩

/-- SUSPCTL.GO of a running device (R372). -/
theorem State.startSuspend_eq {s : State} (h1 : s.pkg.mbstate = .running) (h2 : s.pkg.suspPhase = 0) :
    s.startSuspend = (s.suspendQuotes.modPkg fun p => { p with suspPhase := 1 }).suspendTeams
      ((s.suspendQuotes.modPkg fun p => { p with suspPhase := 1 }).teamsWhere fun _ _ => true) := by
  unfold State.startSuspend
  rw [if_neg (by simp [h1, h2])]
  rfl

theorem State.startSuspend_spec {s : State} (h1 : s.pkg.mbstate = .running) (h2 : s.pkg.suspPhase = 0) :
    s.startSuspend.pkg.suspPhase = 1 ∧ s.startSuspend.mem = s.mem ∧
    (∀ q ∈ s.startSuspend.quotes, q.state ≠ .quoted ∧ (q.state = .running → q.paused = true)) ∧
    ∀ k i m, s.team k i = some m → m.stop = none →
      s.startSuspend.team k i = some { m with stop := some ⟨!((s.grid m.grid).elim false Grid.imm), 0, none, true⟩ } := by
  rw [State.startSuspend_eq h1 h2]
  refine ⟨?_, ?_, fun q hq => ?_, fun k i m hm hstop => ?_⟩
  · rw [State.suspendTeams_keeps State.pkg fun _ _ _ => rfl]; rfl
  · rw [State.suspendTeams_keeps State.mem fun _ _ _ => rfl]; rfl
  · rw [State.suspendTeams_keeps State.quotes fun _ _ _ => rfl] at hq
    exact State.suspendQuotes_state hq
  · refine State.team_suspendTeams hstop _ _ (fun x hx he => ?_) rfl (.inl ⟨hm, State.mem_teamsWhere.2 ⟨hm, rfl⟩⟩)
    obtain ⟨c, j, t⟩ := x
    cases he
    exact Option.some.inj ((State.mem_teamsWhere.1 hx).1.symm.trans hm)

/-! ### Doorbells and the front-end aperture -/

/-- A register of a part that has power takes the host's write. -/
theorem State.hostPost_powered {s : State} (h : s.powered = true) (k : State → State) : s.hostPost k = k s := if_pos h

/-- A doorbell that stands behind none of its line and can be taken is taken at once. -/
theorem State.askDoor_taken {s : State} {d : Fin 4} {x : Door} (hl : ∀ y ∈ (s.die d).doors, y.line ≠ x.line) (ho : s.doorOpen d x = true) :
    s.askDoor d x = s.takeDoor d x := by
  unfold State.askDoor
  rw [if_pos]
  simp only [Bool.and_eq_true, List.all_eq_true, bne_iff_ne]
  exact ⟨hl, ho⟩

/-- Any other is held. -/
theorem State.askDoor_held {s : State} {d : Fin 4} {x : Door} (h : (∃ y ∈ (s.die d).doors, y.line = x.line) ∨ s.doorOpen d x = false) :
    s.askDoor d x = s.setDie d { s.die d with doors := (s.die d).doors ++ [x] } := by
  unfold State.askDoor
  rw [if_neg]
  · rfl
  simp only [Bool.and_eq_true, List.all_eq_true, bne_iff_ne]
  rintro ⟨hl, ho⟩
  rcases h with ⟨y, hy, he⟩ | h
  · exact hl y hy he
  · rw [h] at ho; cases ho

/-- A launch-queue doorbell that is taken (R316). -/
theorem State.ringLaunch_spec {s : State} {d : Fin 4} {v : DWord} (hq : field v.toNat 0 16 < field (s.die d).lqtab.toNat 0 8)
    (hw : field (s.mem.num (s.queueEntry d (field v.toNat 0 16) + 0x10) 8) 37 1 = 1)
    (hp : (s.die (s.launchDie d v)).part = (s.die d).part) :
    (s.ringLaunch d v).mem = s.mem ∧ ((s.ringLaunch d v).die (s.launchDie d v)).tails.find? (fun y => y.1 == field v.toNat 0 16) =
      some (field v.toNat 0 16, BitVec.ofNat 32 (field v.toNat 16 32)) := by
  unfold State.ringLaunch
  dsimp only
  rw [if_neg]
  · refine ⟨rfl, ?_⟩
    rw [State.die_modDie_eq]
    simp [setTail]
  · rintro (h | h | h)
    · omega
    · exact absurd (h.symm.trans hw) (by decide)
    · exact h hp

@[simp] theorem State.inject_mem (s : State) (d arr c a n) : (s.inject d arr c a n).mem = s.mem := by
  unfold State.inject
  dsimp only
  split <;> rfl
@[simp] theorem State.wrote_mem (s : State) (pa bs m) : (s.wrote pa bs m).mem = m := by simp [State.wrote]
@[simp] theorem State.pstore_mem (s : State) (pa bs) : (s.pstore pa bs).mem = s.stored pa bs := by simp [State.pstore]

/-- A wake event changes no memory. -/
@[simp] theorem State.wakeEvent_mem (s : State) (c kind) : (s.wakeEvent c kind).mem = s.mem := by
  unfold State.wakeEvent
  split
  · split <;> rfl
  · rfl
@[simp] theorem State.wakeWork_mem (s : State) (d n) : (s.wakeWork d n).mem = s.mem :=
  State.foldl_keeps State.mem (fun s c => State.wakeEvent_mem s c .work) _ s

/-- A host's doorbell of a work queue whose producer is the host and that the new TAIL fits (R353). -/
theorem State.ringWork_mem {s : State} {d : Fin 4} {v : DWord} (hn : field v.toNat 0 16 < field (s.die d).wqtab.toNat 0 16)
    (hw : field (s.mem.num (s.workEntry d (field v.toNat 0 16) + 0x10) 8) 34 1 = 1) :
    let e := s.workEntry d (field v.toNat 0 16)
    let bad := field (s.mem.num (e + 0x10) 8) 32 2 ≠ 1 ∨ s.workSize e < (field v.toNat 16 32 + 2 ^ 32 - s.workHead e) % 2 ^ 32
    (bad → (s.ringWork d v).mem = s.stored (e + 0x14) (leBytes 1 ((s.mem.get (e + 0x14)).toNat ||| 8))) ∧
    (¬bad → (s.ringWork d v).mem = s.stored (e + 12) (leBytes 4 (field v.toNat 16 32))) := by
  have h0 : ¬(field (s.die d).wqtab.toNat 0 16 ≤ field v.toNat 0 16 ∨
      field (s.mem.num (s.workEntry d (field v.toNat 0 16) + 0x10) 8) 34 1 = 0) := by omega
  refine ⟨fun hb => ?_, fun hb => ?_⟩
  · unfold State.ringWork
    dsimp only [State.pnum]
    rw [if_neg h0, if_pos hb, State.pput, State.pstore_mem]
  · unfold State.ringWork
    dsimp only [State.pnum]
    rw [if_neg h0, if_neg hb, State.wakeWork_mem, State.pput, State.pstore_mem]

/-- A table register of the front end after it is written on the dies of a partition. -/
theorem State.die_wideWrite {s : State} {d e : Fin 4} (f : Die → Die) (hf : ∀ x, f (f x) = f x) (h : (s.die e).part = (s.die d).part) :
    (s.wideWrite d f).die e = f (s.die e) := by
  have gen : ∀ (l : List (Fin 4)) (t : State), (e ∈ l ∧ t.die e = s.die e ∨ t.die e = f (s.die e)) →
      (l.foldl (fun s x => s.modDie x f) t).die e = f (s.die e) := by
    intro l
    induction l with
    | nil => intro t ht; exact ht.resolve_left fun h => List.not_mem_nil h.1
    | cons x xs ih =>
      intro t ht
      rw [List.foldl_cons]
      refine ih _ ?_
      by_cases hx : x = e
      · subst hx
        rw [State.die_modDie_eq]
        rcases ht with ⟨-, ht⟩ | ht <;> simp [ht, hf]
      · rw [State.die_modDie_ne _ _ hx]
        exact ht.imp_left fun ht => ⟨(List.mem_cons.1 ht.1).resolve_left (Ne.symm hx), ht.2⟩
  exact gen _ s (.inl ⟨by simp [State.diesOf, allDies, h], rfl⟩)

/-- A wake event of a core that is up wakes its IDLE groups (R371). -/
theorem State.group_wakeIdle (s : State) (c i : Fin 128) :
    (s.modCore c Core.wakeIdle).group c i = (s.group c i).map fun g => if g.idle then { g with woken := true } else g := by
  simp [State.group, Core.wakeIdle]

/-- One of a gated core stands among Chive's entries if one is free. -/
theorem State.wakeEvent_gated {s : State} {c : Fin 128} (kind : WakeKind) (h : (s.core c).power ≠ .active)
    (hl : (s.die (dieOf c)).chive.length < 64) :
    (c, kind) ∈ ((s.wakeEvent c kind).die (dieOf c)).chive ∧ (s.wakeEvent c kind).cores = s.cores := by
  unfold State.wakeEvent
  rw [if_neg h]
  refine ⟨?_, rfl⟩
  rw [State.die_modDie_eq]
  by_cases hc : (s.die (dieOf c)).chive.contains (c, kind) = true
  · rw [if_pos hc]; exact List.contains_iff_mem.1 hc
  · rw [if_neg hc, if_pos hl]; exact List.mem_append_right _ (List.mem_singleton_self _)

theorem dieOf_frontCore (d : Fin 4) : dieOf (frontCore d) = d := by revert d; decide

end Sys2Proof.Machine

namespace Sys2Proof.Certificates
open Sys2Proof.Machine

/-- Settles O60: register by register, each write is the operation that its rule names. -/
theorem registerWriteResult : Obligations.RegisterWriteResult := by
  intro s d c
  refine ⟨fun n h => ⟨_, rfl, State.startRetire_spec h⟩, fun n => rfl, rfl, fun r => rfl, fun n => rfl,
    fun h1 h2 => ⟨_, rfl, State.startSuspend_spec h1 h2⟩, ?notifyActive, fun h hl => ⟨_, rfl, State.wakeEvent_gated .notify h hl⟩,
    fun hp => ⟨fun v => ?hbeat, fun own => ?owner, ?lqdoor, ?wqdoorHeld, ?wqdoor, ?registers, ?lqtab⟩, fun v => rfl, ?mbdoor⟩
  case notifyActive =>
    refine fun h => ⟨_, rfl, State.wakeEvent_mem .., fun i g hg => ?_⟩
    rw [State.wakeEvent, if_pos h, if_pos rfl, State.group_wakeIdle, hg]
    rfl
  case hbeat => exact congrArg Host.Outcome.next (State.hostPost_powered hp _)
  case owner => exact congrArg Host.Outcome.next (State.hostPost_powered hp _)
  case lqdoor =>
    refine fun v hq hw he hd hh => ⟨_, rfl, ?_⟩
    rw [State.hostPost_powered hp, State.askDoor_taken (x := .launch v) hd (congrArg (! ·) hh)]
    exact State.ringLaunch_spec hq hw he
  case wqdoorHeld =>
    refine fun v h => congrArg Host.Outcome.next ?_
    rw [State.hostPost_powered hp, State.askDoor_held (x := .work v) h]
  case wqdoor =>
    refine fun v hl ho hn hw => ⟨fun h1 h2 => ⟨_, rfl, ?_⟩, fun h => ⟨_, rfl, ?_⟩⟩
    · rw [State.hostPost_powered hp, State.askDoor_taken (x := .work v) hl ho]
      exact (State.ringWork_mem hn hw).2 (by omega)
    · rw [State.hostPost_powered hp, State.askDoor_taken (x := .work v) hl ho]
      exact (State.ringWork_mem hn hw).1 h
  case registers =>
    exact fun sel v => ⟨fun h => congrArg Host.Outcome.next ((State.hostPost_powered hp _).trans (if_pos h)),
      fun h => ⟨frontCore d, dieOf_frontCore d, congrArg Host.Outcome.next ((State.hostPost_powered hp _).trans (if_pos h))⟩⟩
  case lqtab =>
    refine fun v e he => ⟨_, rfl, ?_⟩
    show ((s.hostPost fun s => s.writeAperture d 0 v).die e).lqtab = _
    rw [State.hostPost_powered hp]
    show ((s.wideWrite d _).die e).lqtab = _
    rw [State.die_wideWrite _ (fun _ => by rfl) he, keepBits_eq_and]
    rfl
  case mbdoor =>
    refine fun v h => congrArg Host.Outcome.next ?_
    show s.mbDoor v = _
    unfold State.mbDoor
    rw [h]
    rfl

end Sys2Proof.Certificates

end

section
/-! The faults of every lane of ACT as one delivery, and the SEQ of its record (R297, R303). -/
namespace Sys2Proof.Machine
open Sys2Proof.Certificates

/-! ### The faults of every lane of ACT -/

theorem filterMap_eq_singleton {α β : Type} {f : α → Option β} {a : α} {b : β} {l : List α} (hl : l.Nodup) (ha : a ∈ l)
    (hf : f a = some b) (hn : ∀ x, x ≠ a → f x = none) : l.filterMap f = [b] := by
  obtain ⟨l₁, l₂, rfl⟩ := List.append_of_mem ha
  obtain ⟨-, h2, h1⟩ := List.nodup_append.1 hl
  have h2 := (List.nodup_cons.1 h2).1
  rw [List.filterMap_append, List.filterMap_cons_some hf,
    List.filterMap_eq_nil_iff.2 fun x hx => hn x (h1 x hx a List.mem_cons_self), List.filterMap_eq_nil_iff.2 fun x hx => hn x fun e => h2 (e ▸ hx)]
  rfl

@[simp] theorem Ctx.faultLanes_all (x : Ctx) (code va d0 d1) : faultLanes (x.all code va d0 d1) = x.act := by
  apply Lanes.ext_has
  intro p
  rw [faultLanes, Lanes.has_ofFn, Bool.eq_iff_iff]
  simp [Ctx.all]

theorem Ctx.mem_all {x : Ctx} {code va d0 d1} {f : LaneFault} (h : f ∈ x.all code va d0 d1) : f.code = code ∧ f.va = va ∧ f.d0 = d0 ∧ f.d1 = d1 := by
  obtain ⟨p, -, rfl⟩ := List.mem_map.1 h
  exact ⟨rfl, rfl, rfl, rfl⟩

/-- The one delivery of a fault that every lane of ACT takes (R297). -/
def Ctx.faultDelivery (x : Ctx) (sh : Shape) (code : Byte) (va d0 d1 : DWord) : Delivery :=
  ⟨.fault, code, x.act, x.pc, sh.wide, sh.acc, 0, va, d0, d1, false⟩

/-- The faults of one code all fall to the delivery of that code. -/
theorem Ctx.deliveriesOf_all {x : Ctx} (sh : Shape) {code : Byte} (va d0 d1 : DWord) (hx : ∃ p, x.act.has p = true)
    (hc : code.toNat < 18) : deliveriesOf x.pc sh.wide sh.acc (x.all code va d0 d1) = [x.faultDelivery sh code va d0 d1] := by
  refine filterMap_eq_singleton List.nodup_range (List.mem_range.2 hc) ?_ fun n hn => ?_
  · obtain ⟨f, rest, hl⟩ : ∃ f rest, x.all code va d0 d1 = f :: rest := by
      obtain ⟨p, hp⟩ := hx
      refine List.exists_cons_of_ne_nil fun h => ?_
      exact List.not_mem_nil (List.map_eq_nil_iff.1 h ▸ (Lanes.mem_list x.act p).2 hp)
    obtain ⟨h1, h2, h3, h4⟩ := Ctx.mem_all (hl ▸ List.mem_cons_self : f ∈ x.all code va d0 d1)
    rw [List.filter_eq_self.2 fun f hf => by simp [(Ctx.mem_all hf).1], hl]
    dsimp only
    rw [← hl, Ctx.faultLanes_all, h1, h2, h3, h4]
    rfl
  · rw [List.filter_eq_nil_iff.2 fun f hf => by simp [(Ctx.mem_all hf).1, Ne.symm hn]]

/-! ### The record of a delivery -/

theorem recordWords_withSeq (code : Byte) {kind : Nat} (hk : kind < 16) (acc : AccKind) (wide hbad : Bool) (trapno : Byte) (seq : Word)
    (site va lanes tid home gid core seqr space d0 d1) :
    withSeq (recordWords code kind acc wide hbad trapno 0 site va lanes tid home gid core seqr space d0 d1) seq =
      recordWords code kind acc wide hbad trapno seq.toNat site va lanes tid home gid core seqr space d0 d1 := by
  have hc := code.isLt
  have hs := seq.isLt
  have ht := trapno.isLt
  have ha : acc.number < 4 := by cases acc <;> decide
  have hw := Bool.toNat_le wide
  have hh := Bool.toNat_le hbad
  simp only [recordWords, withSeq, BitVec.toNat_ofNat]
  congr 2
  omega

end Sys2Proof.Machine

end

section
/-! What settling a group comes to while some lane of it runs, and what leaves a group's threads as they stand. -/
namespace Sys2Proof.Machine
open Sys2Proof.Certificates

/-! ### Settling a group of which some lane runs -/

/-- A group's freed registers change the loans alone. -/
theorem State.returnLoan_loan (s : State) (c gid : Fin 128) (n : Nat) :
    ∃ l, s.returnLoan c gid n = s.modCore c fun k => { k with loan := l } := by
  have same : s = s.modCore c fun k => { k with loan := (s.core c).loan } := by
    show s = s.setCore c (s.core c)
    simp
  unfold State.returnLoan
  split
  · exact ⟨_, same⟩
  · dsimp only
    split
    · exact State.endLoan_loan _ _ _
    · exact ⟨_, same⟩

theorem Group.over_running {g : Group} {p : Fin 64} (h : g.lst.get p = .running) : g.over = false ∧ g.inState .running ≠ 0 := by
  have hne : g.inState .running ≠ 0 := Lanes.ne_zero p (by simp [Group.inState, h])
  refine ⟨?_, hne⟩
  unfold Group.over
  rw [beq_eq_false_iff_ne.mpr hne]
  simp

/-- A group settles alone when, once its ended lanes have exited and its deliveries have begun, some lane of it runs. -/
theorem State.settle_runs {s u : State} {c gid : Fin 128} {g h : Group} (hg : s.group c gid = some g)
    (hu : ((s.setGroup c gid (some (g.endLanes (s.kernLen c g) (s.handLen c gid g)).freePassed)).dropHandler c gid).pumpDeliveries
      c gid = u) (hh : u.group c gid = some h) {p : Fin 64} (hr : h.lst.get p = .running) :
    ∃ l, s.settle c gid = u.modCore c fun k => { k with loan := l } := by
  obtain ⟨hover, hne⟩ := Group.over_running hr
  obtain ⟨l, hl⟩ := State.returnLoan_loan u c gid (s.regCount c gid g)
  refine ⟨l, State.settleGo_one hg ?_⟩
  have hgrp : (u.modCore c fun k => { k with loan := l }).group c gid = some h := by
    rw [← hh]; simp [State.group]
  unfold State.settleOne
  rw [hg]
  dsimp only
  rw [hu, hl, hgrp]
  dsimp only
  rw [hover, if_neg Bool.false_ne_true, if_neg fun e => hne e.1]

/-- A group in no handler leaves none. -/
theorem State.dropHandler_none {s : State} {c gid : Fin 128} {g : Group} (hg : s.group c gid = some g) (hm : g.hmode = false) :
    s.dropHandler c gid = s := by
  unfold State.dropHandler
  rw [hg]
  dsimp only
  rw [hm, if_neg Bool.false_ne_true]

/-- A group none of whose handler lanes has exited stays in its handler (R302). -/
theorem State.dropHandler_stays {s : State} {c gid : Fin 128} {g : Group} (hg : s.group c gid = some g) (hm : g.hmode = true)
    (hl : g.hlanes &&& (g.inState .running ||| g.inState .parked) = g.hlanes) : s.dropHandler c gid = s.setGroup c gid (some g) := by
  unfold State.dropHandler
  rw [hg]
  dsimp only
  rw [hm, if_pos rfl, hl, if_neg (bne_iff_ne.1 hm)]

/-- No delivery of a group in a handler begins (R298). -/
theorem State.pump_inHandler {s : State} {c gid : Fin 128} {g : Group} (hg : s.group c gid = some g) (hm : g.hmode = true) :
    s.pumpDeliveries c gid = s := by
  unfold State.pumpDeliveries
  rw [hg]
  dsimp only
  rw [hm]
  rfl

/-! ### What the end of a group's lanes and of its registers leaves -/

/-- Two groups whose threads stand alike: they differ in lane states, queues, registers and the scoreboard at most. -/
structure Group.Like (g h : Group) : Prop where
  tid : h.tid = g.tid
  lpc : h.lpc = g.lpc
  s : h.s = g.s
  k : h.k = g.k
  depth : h.depth = g.depth
  hlanes : h.hlanes = g.hlanes
  part : h.part = g.part
  team : h.team = g.team
  age : h.age = g.age
  grant : h.grant = g.grant
  block : h.block = g.block
  stop : h.stop = g.stop

theorem Group.Like.trans {f g h : Group} (a : f.Like g) (b : g.Like h) : f.Like h :=
  ⟨b.tid.trans a.tid, b.lpc.trans a.lpc, b.s.trans a.s, b.k.trans a.k, b.depth.trans a.depth, b.hlanes.trans a.hlanes,
    b.part.trans a.part, b.team.trans a.team, b.age.trans a.age, b.grant.trans a.grant, b.block.trans a.block, b.stop.trans a.stop⟩

theorem Group.like_dels (g : Group) (ds : List Delivery) : g.Like { g with dels := ds } :=
  ⟨rfl, rfl, rfl, rfl, rfl, rfl, rfl, rfl, rfl, rfl, rfl, rfl⟩

theorem Group.like_exitLanes (g : Group) (m : Lanes) : g.Like (g.exitLanes m) :=
  ⟨rfl, rfl, rfl, rfl, rfl, rfl, rfl, rfl, rfl, rfl, rfl, rfl⟩

theorem Group.like_endLanes (g : Group) (k n : Nat) : g.Like (g.endLanes k n) := by
  unfold Group.endLanes
  dsimp only
  split
  · exact g.like_dels g.dels
  · exact g.like_exitLanes _

theorem Group.like_freePassed (g : Group) : g.Like g.freePassed := by
  rw [Group.freePassed_eq]
  exact ⟨rfl, rfl, rfl, rfl, rfl, rfl, rfl, rfl, rfl, rfl, rfl, rfl⟩

/-- The group after an instruction whose lanes of ACT all fault: no lane has moved. -/
theorem Ctx.like_retire (x : Ctx) (sh : Shape) (next : Fin 64 → Word) : x.g.Like (x.retire sh x.g next x.act) := by
  refine ⟨rfl, ?_, rfl, rfl, rfl, rfl, rfl, rfl, rfl, rfl, rfl, rfl⟩
  apply Tab.ext_get
  intro p
  simp [Ctx.retire, Group.setLpc]

theorem Group.Like.hmode {g h : Group} (l : g.Like h) : h.hmode = g.hmode := by unfold Group.hmode; rw [l.hlanes]
theorem Group.Like.halted {g h : Group} (l : g.Like h) : h.halted = g.halted := by unfold Group.halted; rw [l.stop]
theorem Group.Like.home {g h : Group} (l : g.Like h) : h.home = g.home := by funext p; unfold Group.home; rw [l.block, l.grant]

/-- A running lane that waits for a delivery, or that stands short of its section's end, does not end. -/
theorem Group.endLanes_running {g : Group} {k n : Nat} {p : Fin 64} (hr : g.lst.get p = .running)
    (h : (g.dels.any fun d => d.lanes.has p) = true ∨ (g.lpc.get p).toNat ≠ if g.hlanes.has p then n else k) :
    (g.endLanes k n).lst.get p = .running := by
  unfold Group.endLanes
  dsimp only
  split
  · exact hr
  · simp only [Group.exitLanes, Group.setLst, Tab.get_ofFn, Lanes.has_ofFn]
    rw [if_neg, hr]
    rcases h with h | h <;> simp [h]

@[simp] theorem Group.endLanes_dels (g : Group) (k n : Nat) : (g.endLanes k n).dels = g.dels := by
  unfold Group.endLanes
  dsimp only
  split <;> rfl

@[simp] theorem Group.exitLanes_lst (g : Group) (m : Lanes) (p : Fin 64) :
    (g.exitLanes m).lst.get p = if m.has p then .exited else g.lst.get p := by
  simp [Group.exitLanes, Group.setLst]

/-! ### A group in its place -/

/-- The state in which a group stands in its place after an issue, and all else is as it was (R341). -/
def State.issued (s : State) (c gid : Fin 128) (h : Group) : State :=
  s.setCore c { s.core c with groups := (s.core c).groups.set gid (some h), idleCount := -1 }

section
variable (s : State) (c gid : Fin 128) (h : Group)

@[simp] theorem State.issued_mem : (s.issued c gid h).mem = s.mem := rfl
@[simp] theorem State.issued_dies : (s.issued c gid h).dies = s.dies := rfl
@[simp] theorem State.issued_die (d : Fin 4) : (s.issued c gid h).die d = s.die d := rfl
@[simp] theorem State.issued_retiring : (s.issued c gid h).retiring = s.retiring := rfl
@[simp] theorem State.issued_grids : (s.issued c gid h).grids = s.grids := rfl

@[simp] theorem State.core_issued : (s.issued c gid h).core c =
    { s.core c with groups := (s.core c).groups.set gid (some h), idleCount := -1 } := by simp [State.issued]
@[simp] theorem State.group_issued : (s.issued c gid h).group c gid = some h := by simp [State.group]
theorem State.group_issued_ne {i : Fin 128} (hi : i ≠ gid) : (s.issued c gid h).group c i = s.group c i := by
  simp [State.group, Tab.get_set_ne _ _ hi.symm]
@[simp] theorem State.team_issued (t : Fin 16) : (s.issued c gid h).team c t = s.team c t := by simp [State.team]
@[simp] theorem State.setGroup_issued (g : Group) : (s.issued c gid h).setGroup c gid (some g) = s.issued c gid g := by
  simp [State.issued, State.setGroup, State.modCore]
@[simp] theorem State.modGroup_issued (f : Group → Group) : (s.issued c gid h).modGroup c gid f = s.issued c gid (f h) := by
  rw [State.modGroup_some _ _ (State.group_issued ..), State.setGroup_issued]
@[simp] theorem State.gridOf_issued (g : Group) : (s.issued c gid h).gridOf c g = s.gridOf c g := by
  simp [State.gridOf, State.grid]
@[simp] theorem State.kernLen_issued (g : Group) : (s.issued c gid h).kernLen c g = s.kernLen c g := by simp [State.kernLen]
end

end Sys2Proof.Machine

end

section
/-! How a delivery begins, with a handler and without one (R297, R301, R304), and when the fault of every lane of ACT does. -/
namespace Sys2Proof.Machine
open Sys2Proof.Certificates

/-! ### Deliveries that begin -/

theorem State.spaceRoot_congr {s u : State} (hm : u.mem = s.mem) (hd : u.dies = s.dies) (hr : u.retiring = s.retiring) (d : Fin 4)
    (n : Word) : u.spaceRoot d n = s.spaceRoot d n := by
  unfold State.spaceRoot State.spaceEntry State.isRetiring State.pnum State.die
  rw [hm, hd, hr]

/-- The handler's descriptor says nothing of the group but the snapshot that its bank keeps (R300). -/
theorem State.handler_congr {s u : State} {c gid : Fin 128} {g : Group} {b : Bank} (h : s.handler c gid g = some b)
    (hm : u.mem = s.mem) (hd : u.dies = s.dies) (hr : u.retiring = s.retiring) (ht : (u.core c).trapvec = (s.core c).trapvec) (i : Group) :
    u.handler c gid i = some { b with snap := i } := by
  unfold State.handler State.pnum at h ⊢
  dsimp only at h ⊢
  rw [State.spaceRoot_congr hm hd hr, hm, ht]
  split at h
  · cases h
  · cases h
    rw [if_neg (by assumption)]

theorem State.handler_gid {s : State} {c gid : Fin 128} {g : Group} {b : Bank} (h : s.handler c gid g = some b) : b.gid = gid := by
  unfold State.handler at h
  dsimp only at h
  split at h
  · cases h
  · cases h; rfl

theorem State.olderPending_issued (s : State) (c gid : Fin 128) {g h : Group} (l : g.Like h) (i : Group) :
    (s.issued c gid i).olderPending c gid h = s.olderPending c gid g := by
  unfold State.olderPending
  refine congrArg (List.any _) (funext fun j => ?_)
  by_cases hj : j = gid
  · subst hj
    rw [State.group_issued]
    cases s.group c j <;> simp
  · rw [State.group_issued_ne _ _ _ _ hj, l.part, l.age]

/-- The group as it enters the handler for a delivery that ends its waiting. -/
def Group.trapped (g : Group) (d : Delivery) (entry : Word) (ws : List DWord) : Group := { g.enterHandler d.lanes entry ws with dels := [] }

/-- With a valid handler and its bank free, the one delivery of a group begins (R297, R301). -/
theorem State.pump_enters {u : State} {c gid : Fin 128} {h : Group} {d : Delivery} {b : Bank} (hg : u.group c gid = some h)
    (hm : h.hmode = false) (hh : h.halted = false) (hd : h.dels = [d]) (ht : (u.core c).trapvec.getLsbD 0 = true)
    (hb : u.handler c gid (h.setLpc d.lanes fun _ => d.site) = some b) (hf : (u.core c).banks.get h.part = none)
    (ho : u.olderPending c gid h = false) :
    u.pumpDeliveries c gid = (u.modCore c fun k => { k with banks := k.banks.set h.part (some (b.reporting d)) }).setGroup c gid
      (some (h.trapped d (u.handlerEntry c) (u.deliveryWords c gid h d d.number false d.resume))) := by
  unfold State.pumpDeliveries
  rw [hg]
  dsimp only
  rw [hm, hh, hd, if_neg (by simp)]
  unfold State.beginDeliveries
  rw [hg]
  dsimp only
  rw [ht, if_pos rfl, hb]
  dsimp only
  rw [hf]
  dsimp only
  rw [ho, if_neg Bool.false_ne_true, State.modGroup_some (x := h)]
  · unfold Group.trapped State.handlerEntry State.pnum
    rw [State.core_modCore_eq]
    rfl
  · rw [← hg]; simp [State.group]

/-- With no handler, the trapped lanes end and the record of it is written (R297, R304). -/
theorem State.pump_ends {u : State} {c gid : Fin 128} {h : Group} {d : Delivery} (hg : u.group c gid = some h)
    (hm : h.hmode = false) (hh : h.halted = false) (hd : h.dels = [d]) (ht : (u.core c).trapvec.getLsbD 0 = false) :
    u.pumpDeliveries c gid = ((u.pushRecord c (u.deliveryWords c gid h d 5 false d.site) none).modGroup c gid fun x =>
      x.exitLanes d.lanes).modGroup c gid fun x => { x with dels := [] } := by
  unfold State.pumpDeliveries
  rw [hg]
  dsimp only
  rw [hm, hh, hd, if_neg (by simp)]
  unfold State.beginDeliveries
  rw [hg]
  dsimp only
  rw [ht, if_neg Bool.false_ne_true]
  rfl

/-- The record of a fault of ACT (R303), of a kind and with the SEQ that it has in its queue. -/
def Ctx.record (x : Ctx) (sh : Shape) (code : Byte) (kind seq : Nat) (va d0 d1 : DWord) : List DWord :=
  recordWords code kind sh.acc sh.wide false 0 seq x.pc va x.act (x.g.tid.get x.act.first).toNat (x.g.home x.act.first) x.gid.val x.c.val 0
    x.grid.space d0 d1

theorem Ctx.record_withSeq (x : Ctx) (sh : Shape) (code : Byte) {kind : Nat} (hk : kind < 16) (seq : Word) (va d0 d1 : DWord) :
    withSeq (x.record sh code kind 0 va d0 d1) seq = x.record sh code kind seq.toNat va d0 d1 := recordWords_withSeq _ hk ..

/-- The words of the delivery's record, which the group's threads and its grid fix. -/
theorem State.deliveryWords_like {s u : State} {x : Ctx} {h : Group} (hx : s.ctxOf x.c x.gid = some x) (l : x.g.Like h)
    (hg : u.gridOf x.c h = s.gridOf x.c h) (sh : Shape) (code : Byte) (va d0 d1 : DWord) (kind : Nat) :
    u.deliveryWords x.c x.gid h (x.faultDelivery sh code va d0 d1) kind false x.pc = x.record sh code kind 0 va d0 d1 := by
  obtain ⟨-, ht, hr, -⟩ := State.ctxOf_group hx
  have : s.gridOf x.c h = some x.grid := by
    unfold State.gridOf
    rw [l.team, ht]
    exact hr
  unfold State.deliveryWords
  rw [hg, this, l.tid, l.home]
  rfl

/-! ### The end of a fault that every lane of ACT takes -/

/-- The group as the fault leaves it before the delivery: no lane has moved. -/
def Ctx.faulted (x : Ctx) (sh : Shape) : Group := x.retire { sh with prod := [] } x.g (fun p => x.g.lpc.get p) x.act

/-- The same with its delivery waiting. -/
def Ctx.awaiting (x : Ctx) (sh : Shape) (d : Delivery) : Group := { x.faulted sh with dels := [d] }

theorem Ctx.like_awaiting (x : Ctx) (sh : Shape) (d : Delivery) : x.g.Like (x.awaiting sh d) :=
  (x.like_retire _ _).trans (Group.like_dels _ _)

@[simp] theorem Ctx.awaiting_lst (x : Ctx) (sh : Shape) (d : Delivery) : (x.awaiting sh d).lst = x.g.lst := rfl
@[simp] theorem Ctx.awaiting_dels (x : Ctx) (sh : Shape) (d : Delivery) : (x.awaiting sh d).dels = [d] := rfl

/-- A group in no handler that issues has no delivery waiting (R297). -/
theorem Ctx.dels_nil {s : State} {x : Ctx} (hx : s.ctxOf x.c x.gid = some x) (hm : x.g.hmode = false) : x.g.dels = [] := by
  obtain ⟨p, hp⟩ := Ctx.act_mem hx
  rcases (Group.issuing_running (Ctx.act_issuing hx hp).1).2 with ⟨h, -⟩ | ⟨-, h⟩
  · rw [hm] at h; cases h
  · exact h

/-- The fault waits as a delivery; it begins at once, or, in a group that a double fault has stopped, as the group settles. -/
theorem State.faultAll_eq {s : State} {x : Ctx} (sh : Shape) {code : Byte} (va d0 d1 : DWord) (hx : s.ctxOf x.c x.gid = some x)
    (hm : x.g.hmode = false) (hc : code.toNat < 18) :
    let u := s.issued x.c x.gid (x.awaiting sh (x.faultDelivery sh code va d0 d1))
    s.faultAll x sh code va d0 d1 = u.settle x.c x.gid ∨
    s.faultAll x sh code va d0 d1 = (u.pumpDeliveries x.c x.gid).settle x.c x.gid := by
  have hd : ((s.setGroup x.c x.gid (some (x.faulted sh))).modCore x.c fun k => { k with idleCount := -1 }) =
      s.issued x.c x.gid (x.faulted sh) := by
    simp [State.issued, State.setGroup, State.modCore]
  have hmode : (x.faulted sh).hmode = false := hm
  have hdels : (x.faulted sh).dels = [] := Ctx.dels_nil hx hm
  unfold State.faultAll State.finish State.finishWith
  rw [Ctx.faultLanes_all, Ctx.deliveriesOf_all { sh with prod := [] } va d0 d1 (Ctx.act_mem hx) hc]
  dsimp only
  rw [show x.retire { sh with prod := [] } x.g (fun p => x.g.lpc.get p) x.act = x.faulted sh from rfl, hd]
  unfold State.deliver
  rw [State.group_issued]
  dsimp only
  rw [hmode, Bool.false_and, if_neg Bool.false_ne_true, State.modGroup_issued, hdels, List.nil_append]
  split
  · exact .inl rfl
  · exact .inr rfl

end Sys2Proof.Machine

end

section
/-! A fault of ACT with a handler: whether the group settles before or after it enters, it stands there with its record (O21). -/
namespace Sys2Proof.Machine
open Sys2Proof.Certificates

/-! ### A handler entered -/

/-- The state in which a group has entered its partition's handler, with the bank that it holds. -/
def State.trappedIn (s : State) (c gid : Fin 128) (g : Group) (b : Bank) : State :=
  (s.modCore c fun k => { k with banks := k.banks.set g.part (some b) }).setGroup c gid (some g)

section
variable (s : State) (c gid : Fin 128) (g : Group) (b : Bank)

@[simp] theorem State.trappedIn_mem : (s.trappedIn c gid g b).mem = s.mem := rfl
@[simp] theorem State.group_trappedIn : (s.trappedIn c gid g b).group c gid = some g := by simp [State.trappedIn]
@[simp] theorem State.banks_trappedIn : ((s.trappedIn c gid g b).core c).banks.get g.part = some b := by
  simp [State.trappedIn, State.setGroup]

/-- The handler's section is that of the bank. -/
theorem State.handLen_trappedIn (h : b.gid = gid) : (s.trappedIn c gid g b).handLen c gid g = b.hlen.toNat := by
  simp [State.handLen, State.bankOf, h]
end

/-- What the entry of a handler says of a group holds of every group whose threads stand alike. -/
theorem enteredHandler_like {s : State} {x : Ctx} {g h : Group} {ws : List DWord} (e : EnteredHandler s x g ws) (l : g.Like h) :
    EnteredHandler s x h ws := by
  obtain ⟨h1, h2, h3, h4, h5, h6⟩ := e
  exact ⟨fun p => by rw [l.lpc, h1], l.hlanes.trans h2, l.tid.trans h3, fun i => by rw [l.s, h4], l.k.trans h5, l.depth.trans h6⟩

theorem enteredHandler_trapped {s : State} {x : Ctx} {h : Group} (l : x.g.Like h) {d : Delivery} (hd : d.lanes = x.act)
    (ws : List DWord) : EnteredHandler s x (h.trapped d (s.handlerEntry x.c) ws) ws := by
  refine ⟨fun p => ?_, hd, l.tid, fun i => ?_, l.k, l.depth⟩
  · simp [Group.trapped, Group.enterHandler, Group.setLpc, hd, l.lpc]
  · simp [Group.trapped, Group.enterHandler, Group.setLpc, l.s]

/-- The fault of ACT has been delivered to the handler: with its record, in the bank of the group's partition, and with nothing written. -/
def Ctx.Trapped (x : Ctx) (s : State) (sh : Shape) (code : Byte) (va d0 d1 : DWord) (t : State) : Prop :=
  ∃ g b, t.group x.c x.gid = some g ∧
    EnteredHandler s x g (x.record sh code 2 0 va d0 d1) ∧
    (t.core x.c).banks.get x.g.part = some b ∧ b.gid = x.gid ∧ b.code = code ∧ b.site = x.pc ∧ t.mem = s.mem

section
variable {s : State} {x : Ctx} {sh : Shape} {code : Byte} {va d0 d1 : DWord}

/-- A loan says nothing of it. -/
theorem Ctx.Trapped.loan {t : State} (h : x.Trapped s sh code va d0 d1 t) (l : List (Nat × Nat)) :
    x.Trapped s sh code va d0 d1 (t.modCore x.c fun k => { k with loan := l }) := by
  obtain ⟨g, b, hg, h⟩ := h
  refine ⟨g, b, ?_, ?_⟩
  · rw [← hg]; simp [State.group]
  · simpa using h

/-- Nor does anything in which the group's threads stand alike. -/
theorem Ctx.Trapped.setGroup {t : State} (h : x.Trapped s sh code va d0 d1 t) {g e : Group} (hg : t.group x.c x.gid = some g)
    (l : g.Like e) : x.Trapped s sh code va d0 d1 (t.setGroup x.c x.gid (some e)) := by
  obtain ⟨f, b, hf, he, hb⟩ := h
  cases hg.symm.trans hf
  exact ⟨e, b, State.group_setGroup_eq .., enteredHandler_like he l, by simpa [State.setGroup] using hb⟩

/-- The delivery of a group in its place begins: it stands in the handler. -/
theorem Ctx.pump_trapped (hx : s.ctxOf x.c x.gid = some x) (hf : HandlerFree s x) {h : Group} (l : x.g.Like h)
    (hd : h.dels = [x.faultDelivery sh code va d0 d1]) :
    ∃ g b, (s.issued x.c x.gid h).pumpDeliveries x.c x.gid = (s.issued x.c x.gid h).trappedIn x.c x.gid g b ∧
      x.Trapped s sh code va d0 d1 ((s.issued x.c x.gid h).trappedIn x.c x.gid g b) ∧ g.lst = h.lst ∧ b.gid = x.gid ∧
      (s.handlerEntry x.c).toNat ≠ b.hlen.toNat ∧ EnteredHandler s x g (x.record sh code 2 0 va d0 d1) := by
  obtain ⟨hm, hh, ht, ⟨b, hb, hne⟩, hfree, ho⟩ := hf
  have hbank := State.handler_congr hb (u := s.issued x.c x.gid h) rfl rfl rfl (by simp)
    (h.setLpc x.act fun _ => x.pc)
  have hent : (s.issued x.c x.gid h).handlerEntry x.c = s.handlerEntry x.c := by simp [State.handlerEntry, State.pnum]
  have hpump := State.pump_enters (u := s.issued x.c x.gid h) (State.group_issued ..) (l.hmode.trans hm) (l.halted.trans hh) hd
    (by simpa using ht) hbank (by simpa [l.part] using hfree) ((State.olderPending_issued s x.c x.gid l h).trans ho)
  rw [hent, show Delivery.resume (x.faultDelivery sh code va d0 d1) = x.pc from rfl,
    State.deliveryWords_like hx l (State.gridOf_issued ..)] at hpump
  have hent := enteredHandler_trapped (s := s) l (d := x.faultDelivery sh code va d0 d1) rfl (x.record sh code 2 0 va d0 d1)
  obtain ⟨B, hB, hBgid, hBcode, hBsite, hBlen⟩ : ∃ B : Bank,
      B = Bank.reporting { b with snap := h.setLpc x.act fun _ => x.pc } (x.faultDelivery sh code va d0 d1) ∧
        B.gid = x.gid ∧ B.code = code ∧ B.site = x.pc ∧ B.hlen = b.hlen := ⟨_, rfl, show b.gid = _ from State.handler_gid hb, rfl, rfl, rfl⟩
  refine ⟨h.trapped (x.faultDelivery sh code va d0 d1) (s.handlerEntry x.c) _, B, hB ▸ hpump,
    ⟨_, B, State.group_trappedIn .., hent, ?_, hBgid, hBcode, hBsite, rfl⟩, rfl, hBgid, hBlen ▸ hne, hent⟩
  rw [← l.part]
  exact State.banks_trappedIn ..

/-- Every lane of ACT runs. -/
theorem Ctx.act_running (hx : s.ctxOf x.c x.gid = some x) {p : Fin 64} (hp : x.act.has p = true) : x.g.lst.get p = .running :=
  (Group.issuing_running (Ctx.act_issuing hx hp).1).1

/-- A group whose delivery still waits enters the handler as it settles. -/
theorem Ctx.settle_awaiting (hx : s.ctxOf x.c x.gid = some x) (hf : HandlerFree s x) :
    x.Trapped s sh code va d0 d1 ((s.issued x.c x.gid (x.awaiting sh (x.faultDelivery sh code va d0 d1))).settle x.c x.gid) := by
  obtain ⟨p, hp⟩ := Ctx.act_mem hx
  have hm : x.g.hmode = false := hf.1
  generalize ha : x.awaiting sh (x.faultDelivery sh code va d0 d1) = a
  have la : x.g.Like a := ha ▸ x.like_awaiting sh _
  have hrun : (a.endLanes (s.kernLen x.c a) ((s.issued x.c x.gid a).handLen x.c x.gid a)).lst.get p = .running :=
    Group.endLanes_running (by rw [← ha]; exact Ctx.act_running hx hp) (.inl (by rw [← ha]; simp [Ctx.faultDelivery, hp]))
  have le := (la.trans (Group.like_endLanes _ _ _)).trans (Group.like_freePassed
    (a.endLanes (s.kernLen x.c a) ((s.issued x.c x.gid a).handLen x.c x.gid a)))
  obtain ⟨g, b, hpump, ht, hl, -⟩ := Ctx.pump_trapped (sh := sh) (code := code) (va := va) (d0 := d0) (d1 := d1) hx hf le
    (by rw [Group.freePassed_dels, Group.endLanes_dels, ← ha, Ctx.awaiting_dels])
  obtain ⟨l, hs⟩ := State.settle_runs (s := s.issued x.c x.gid a) (State.group_issued ..) (p := p) (h := g) (by
    rw [State.kernLen_issued, State.setGroup_issued, State.dropHandler_none (State.group_issued ..) (le.hmode.trans hm)]
    exact hpump) (State.group_trappedIn ..) (by rw [hl, Group.freePassed_lst]; exact hrun)
  rw [hs]
  exact ht.loan l

/-- A group that has entered the handler settles there. -/
theorem Ctx.settle_trapped (hx : s.ctxOf x.c x.gid = some x) (hf : HandlerFree s x) :
    x.Trapped s sh code va d0 d1 (((s.issued x.c x.gid (x.awaiting sh (x.faultDelivery sh code va d0 d1))).pumpDeliveries x.c x.gid).settle
      x.c x.gid) := by
  obtain ⟨p, hp⟩ := Ctx.act_mem hx
  obtain ⟨g, b, hpump, ht, hl, hgid, hne, he⟩ := Ctx.pump_trapped (sh := sh) (code := code) (va := va) (d0 := d0) (d1 := d1) hx hf
    (x.like_awaiting sh _) (x.awaiting_dels sh _)
  generalize hh : (s.issued x.c x.gid (x.awaiting sh (x.faultDelivery sh code va d0 d1))).trappedIn x.c x.gid g b = u at hpump ht
  generalize hk : (g.endLanes (u.kernLen x.c g) (u.handLen x.c x.gid g)).freePassed = e
  obtain ⟨hlpc, hlanes, -⟩ := he
  have le : g.Like e := hk ▸ (Group.like_endLanes ..).trans (Group.like_freePassed _)
  have hrun (p) (hp : x.act.has p = true) : e.lst.get p = .running := by
    rw [← hk, Group.freePassed_lst]
    refine Group.endLanes_running (by rw [hl]; exact Ctx.act_running hx hp) (.inr ?_)
    rw [hlanes, hlpc, if_pos hp, if_pos hp, ← hh, State.handLen_trappedIn _ _ _ _ _ hgid]
    exact hne
  have hleft : e.hlanes &&& (e.inState .running ||| e.inState .parked) = e.hlanes := by
    apply Lanes.ext_has
    intro q
    rw [le.hlanes, hlanes, Lanes.has_and]
    by_cases hq : x.act.has q = true
    · simp [Group.inState, hrun q hq, hq]
    · simp [hq]
  have hmode : e.hmode = true := by
    unfold Group.hmode
    rw [le.hlanes, hlanes, bne_iff_ne]
    exact Lanes.ne_zero p hp
  have hgrp : u.group x.c x.gid = some g := by rw [← hh]; simp
  obtain ⟨l, hs⟩ := State.settle_runs (u := u.setGroup x.c x.gid (some e)) hgrp (by
    rw [hk, State.dropHandler_stays (State.group_setGroup_eq ..) hmode hleft, State.setGroup_setGroup,
      State.pump_inHandler (State.group_setGroup_eq ..) hmode]) (State.group_setGroup_eq ..) (hrun p hp)
  rw [hpump, hs]
  exact (ht.setGroup hgrp le).loan l

/-- A fault of ACT with a handler (R9, R297, R301, R303). -/
theorem Ctx.faultAll_trapped (hx : s.ctxOf x.c x.gid = some x) (hf : HandlerFree s x) (hc : code.toNat < 18) :
    x.Trapped s sh code va d0 d1 (s.faultAll x sh code va d0 d1) := by
  rcases State.faultAll_eq sh va d0 d1 hx hf.1 hc with h | h
  · rw [h]; exact Ctx.settle_awaiting hx hf
  · rw [h]; exact Ctx.settle_trapped hx hf
end

end Sys2Proof.Machine

end

section
/-! A fault of ACT with no handler: its lanes end, and its record is written (O21). -/
namespace Sys2Proof.Machine
open Sys2Proof.Certificates

/-! ### A record written at once -/

@[simp] theorem State.inject_cores (s : State) (d arr c a n) : (s.inject d arr c a n).cores = s.cores := by
  unfold State.inject
  dsimp only
  split <;> rfl
@[simp] theorem State.inject_grids (s : State) (d arr c a n) : (s.inject d arr c a n).grids = s.grids := by
  unfold State.inject
  dsimp only
  split <;> rfl
@[simp] theorem State.pstore_cores (s : State) (pa bs) : (s.pstore pa bs).cores = s.cores := by simp [State.pstore, State.wrote]
@[simp] theorem State.pstore_grids (s : State) (pa bs) : (s.pstore pa bs).grids = s.grids := by simp [State.pstore, State.wrote]

/-- A record that the fault queue has room for is written at TAIL, which moves on by one, and wakes the core's IDLE groups (R190, R304). -/
theorem State.pushRecord_written {u : State} {c : Fin 128} (hq : (u.core c).queueFull = false) (hr : (u.core c).recPend = [])
    (hb : ringBase (u.core c).faultqb ≠ 0) (ws : List DWord) :
    (u.pushRecord c ws none).mem = u.stored
      (ringBase (u.core c).faultqb + 64 * ((u.core c).faultqt.toNat % ringSize (u.core c).faultqb))
      (dwordBytes (withSeq ws (u.core c).faultqt)) ∧
    (u.pushRecord c ws none).core c = { (u.core c).wakeIdle with faultqt := (u.core c).faultqt + 1 } ∧
    (u.pushRecord c ws none).grids = u.grids := by
  unfold State.pushRecord
  rw [hq, hr, if_neg (by simp)]
  unfold State.writeRecord
  dsimp only
  rw [if_neg hb]
  refine ⟨?_, ?_, ?_⟩
  · rw [State.modCore_mem]
    exact State.pstore_mem ..
  · rw [State.core_modCore_eq]
    unfold State.core State.notifyScheduler
    rw [State.pstore_cores]
    rfl
  · exact State.pstore_grids ..

/-! ### A fault with no handler -/

/-- The fault of ACT has ended its lanes: its record stands in the fault queue, and the other lanes are as they were. -/
def Ctx.Ended (x : Ctx) (s : State) (sh : Shape) (code : Byte) (va d0 d1 : DWord) (t : State) : Prop :=
  (t.core x.c).faultqt = (s.core x.c).faultqt + 1 ∧
  t.mem = s.stored (ringBase (s.core x.c).faultqb + 64 * ((s.core x.c).faultqt.toNat % ringSize (s.core x.c).faultqb))
    (dwordBytes (x.record sh code 5 (s.core x.c).faultqt.toNat va d0 d1)) ∧
  ∃ g, t.group x.c x.gid = some g ∧ ∀ p, g.lst.get p = if x.act.has p then .exited else x.g.lst.get p

/-- A group as a wake event of its core leaves it (R190). -/
def Group.notified (g : Group) : Group := if g.idle then { g with woken := true } else g

theorem Group.like_notified (g : Group) : g.Like g.notified := by
  unfold Group.notified
  split
  · exact ⟨rfl, rfl, rfl, rfl, rfl, rfl, rfl, rfl, rfl, rfl, rfl, rfl⟩
  · exact g.like_dels g.dels

@[simp] theorem Group.notified_lst (g : Group) : g.notified.lst = g.lst := by unfold Group.notified; split <;> rfl

/-- No handler is installed, and the fault queue takes a record at once (R297, R304). -/
structure Ctx.Unhandled (s : State) (x : Ctx) : Prop where
  ctx : s.ctxOf x.c x.gid = some x
  hmode : x.g.hmode = false
  halted : x.g.halted = false
  trapvec : (s.core x.c).trapvec.getLsbD 0 = false
  room : (s.core x.c).queueFull = false
  first : (s.core x.c).recPend = []
  base : ringBase (s.core x.c).faultqb ≠ 0

section
variable {s : State} {x : Ctx} {sh : Shape} {code : Byte} {va d0 d1 : DWord}

/-- A loan says nothing of it. -/
theorem Ctx.Ended.loan {t : State} (h : x.Ended s sh code va d0 d1 t) (l : List (Nat × Nat)) :
    x.Ended s sh code va d0 d1 (t.modCore x.c fun k => { k with loan := l }) := by
  obtain ⟨hq, hm, g, hg, hl⟩ := h
  refine ⟨by simpa using hq, hm, g, ?_, hl⟩
  rw [← hg]; simp [State.group]

/-- Nor do the group's registers. -/
theorem Ctx.Ended.setGroup {t : State} (h : x.Ended s sh code va d0 d1 t) {g e : Group} (hg : t.group x.c x.gid = some g)
    (l : e.lst = g.lst) : x.Ended s sh code va d0 d1 (t.setGroup x.c x.gid (some e)) := by
  obtain ⟨hq, hm, f, hf, hl⟩ := h
  cases hg.symm.trans hf
  exact ⟨by simpa [State.setGroup] using hq, hm, e, State.group_setGroup_eq .., fun p => by rw [l, hl]⟩

/-- The delivery of a group in its place begins: its lanes end. -/
theorem Ctx.pump_ended (hu : Ctx.Unhandled s x) {h : Group} (l : x.g.Like h) (hl : h.lst = x.g.lst)
    (hd : h.dels = [x.faultDelivery sh code va d0 d1]) :
    ∃ t g, (s.issued x.c x.gid h).pumpDeliveries x.c x.gid = t ∧ x.Ended s sh code va d0 d1 t ∧ t.group x.c x.gid = some g ∧
      x.g.Like g ∧ g.dels = [] ∧ (∀ p, g.lst.get p = if x.act.has p then .exited else x.g.lst.get p) ∧
      ∀ i, t.kernLen x.c i = s.kernLen x.c i := by
  have hpump := State.pump_ends (u := s.issued x.c x.gid h) (State.group_issued ..) (l.hmode.trans hu.hmode) (l.halted.trans hu.halted) hd
    (by simpa using hu.trapvec)
  rw [show Delivery.site (x.faultDelivery sh code va d0 d1) = x.pc from rfl,
    State.deliveryWords_like hu.ctx l (State.gridOf_issued ..)] at hpump
  obtain ⟨hmem, hcore, hgrids⟩ := State.pushRecord_written (u := s.issued x.c x.gid h) (c := x.c) (by simpa [Core.queueFull] using hu.room)
    (by simpa using hu.first) (by simpa using hu.base) (x.record sh code 5 0 va d0 d1)
  rw [Ctx.record_withSeq _ _ _ (by decide)] at hmem
  rw [State.core_issued] at hmem hcore
  generalize (s.issued x.c x.gid h).pushRecord x.c _ none = w at hpump hmem hcore hgrids
  have hgrp : w.group x.c x.gid = some h.notified := by
    unfold State.group
    rw [hcore]
    simp [Core.wakeIdle, Group.notified]
  rw [State.modGroup_some _ _ hgrp, State.modGroup_some _ _ (State.group_setGroup_eq ..), State.setGroup_setGroup] at hpump
  refine ⟨_, _, hpump, ⟨?_, hmem, _, State.group_setGroup_eq .., fun p => ?_⟩, State.group_setGroup_eq ..,
    (l.trans h.like_notified).trans ((Group.like_exitLanes _ _).trans (Group.like_dels _ _)), rfl, fun p => ?_, fun i => ?_⟩
  · simp [State.setGroup, hcore]
  · exact (Group.exitLanes_lst ..).trans (by rw [Group.notified_lst, hl]; rfl)
  · exact (Group.exitLanes_lst ..).trans (by rw [Group.notified_lst, hl]; rfl)
  · rw [State.kernLen_setGroup]
    unfold State.kernLen State.gridOf State.team State.grid
    rw [hcore, hgrids]
    rfl

/-- The lanes of a group in no handler that run and wait for no delivery stand short of the kernel's end. -/
theorem Ctx.inside_kernel (hx : s.ctxOf x.c x.gid = some x) (hm : x.g.hmode = false) (hi : s.Inside x fun _ => x.pc) {p : Fin 64}
    (hr : x.g.lst.get p = .running) : (x.g.lpc.get p).toNat ≠ s.kernLen x.c x.g := by
  have hl : x.g.hlanes = 0 := by simpa [Group.hmode] using hm
  have h := hi p hr (by rw [Ctx.dels_nil hx hm]; rfl)
  have hlpc : (x.lpcAfter fun _ => x.pc).get p = x.g.lpc.get p := by
    simp only [Ctx.lpcAfter, Tab.get_ofFn]
    split
    · exact (Ctx.act_issuing hx (by assumption)).2.symm
    · rfl
  have hlen : s.laneLen x.c x.gid x.g p = s.kernLen x.c x.g := by
    unfold State.laneLen
    rw [hl, show Lanes.has 0 p = false from Lanes.has_zero p]
    rfl
  rwa [hlpc, hlen] at h

/-- So no lane of a group that stands alike ends as it settles, but for those that wait for a delivery or have exited. -/
theorem Ctx.endLanes_none (hu : Ctx.Unhandled s x) (hi : s.Inside x fun _ => x.pc) {g : Group} (l : x.g.Like g) (n : Nat)
    (hr : ∀ p, g.lst.get p = .running → x.g.lst.get p = .running) : g.endLanes (s.kernLen x.c g) n = g := by
  have hl : g.hlanes = 0 := by simpa [Group.hmode, l.hlanes] using hu.hmode
  refine Group.endLanes_inside fun p hp _ => ?_
  rw [hl, show Lanes.has 0 p = false from Lanes.has_zero p, l.lpc, State.kernLen_congr _ _ l.team]
  exact Ctx.inside_kernel hu.ctx hu.hmode hi (hr p hp)

/-- A group whose delivery still waits ends its lanes as it settles. -/
theorem Ctx.settle_awaiting_ended (hu : Ctx.Unhandled s x) (hi : s.Inside x fun _ => x.pc) {p : Fin 64}
    (hp : x.g.issuing.has p = true) (ha : x.act.has p = false) :
    x.Ended s sh code va d0 d1 ((s.issued x.c x.gid (x.awaiting sh (x.faultDelivery sh code va d0 d1))).settle x.c x.gid) := by
  have la := x.like_awaiting sh (x.faultDelivery sh code va d0 d1)
  have lf := la.trans (Group.like_freePassed _)
  obtain ⟨t, g, hpump, ht, hg, -, -, hl, -⟩ := Ctx.pump_ended (sh := sh) (code := code) (va := va) (d0 := d0) (d1 := d1) hu lf
    (by rw [Group.freePassed_lst, Ctx.awaiting_lst]) (by rw [Group.freePassed_dels, Ctx.awaiting_dels])
  obtain ⟨l, hs⟩ := State.settle_runs (s := s.issued x.c x.gid (x.awaiting sh (x.faultDelivery sh code va d0 d1))) (u := t) (h := g)
    (State.group_issued ..) (p := p) (by
      rw [State.kernLen_issued, Ctx.endLanes_none hu hi la _ fun _ h => h, State.setGroup_issued,
        State.dropHandler_none (State.group_issued ..) (lf.hmode.trans hu.hmode)]
      exact hpump) hg (by rw [hl, ha]; exact (Group.issuing_running hp).1)
  rw [hs]
  exact ht.loan l

/-- A group whose lanes have ended settles without them. -/
theorem Ctx.settle_ended (hu : Ctx.Unhandled s x) (hi : s.Inside x fun _ => x.pc) {p : Fin 64}
    (hp : x.g.issuing.has p = true) (ha : x.act.has p = false) :
    x.Ended s sh code va d0 d1 (((s.issued x.c x.gid (x.awaiting sh (x.faultDelivery sh code va d0 d1))).pumpDeliveries x.c x.gid).settle
      x.c x.gid) := by
  obtain ⟨t, g, hpump, ht, hg, lg, hd, hl, hk⟩ := Ctx.pump_ended (sh := sh) (code := code) (va := va) (d0 := d0) (d1 := d1) hu
    (x.like_awaiting sh _) (x.awaiting_lst sh _) (x.awaiting_dels sh _)
  have hrun (q) (h : g.lst.get q = .running) : x.g.lst.get q = .running := by
    rw [hl] at h
    split at h
    · cases h
    · exact h
  have hm : g.hmode = false := lg.hmode.trans hu.hmode
  obtain ⟨l, hs⟩ := State.settle_goes hg p (by rw [hl, ha]; exact (Group.issuing_running hp).1) (.inr ⟨hm, hd⟩)
    (by rw [hk]; exact Ctx.endLanes_none hu hi lg _ hrun)
  rw [hpump, hs]
  simpa [State.setGroup, State.modCore] using (ht.setGroup hg (e := g.freePassed.trimmed) (by simp)).loan l

/-- A fault of ACT with no handler (R297, R303, R304). -/
theorem Ctx.faultAll_ended (hu : Ctx.Unhandled s x) (hi : s.Inside x fun _ => x.pc) (hc : code.toNat < 18)
    (hp : ∃ p, x.g.issuing.has p = true ∧ x.act.has p = false) : x.Ended s sh code va d0 d1 (s.faultAll x sh code va d0 d1) := by
  obtain ⟨p, hp, ha⟩ := hp
  rcases State.faultAll_eq sh va d0 d1 hu.ctx hu.hmode hc with h | h
  · rw [h]; exact Ctx.settle_awaiting_ended hu hi hp ha
  · rw [h]; exact Ctx.settle_ended hu hi hp ha
end

end Sys2Proof.Machine

namespace Sys2Proof.Certificates
open Sys2Proof.Machine

/-- Settles O21: the one delivery of the fault begins at once, or, in a group that a double fault has stopped, as the group settles. -/
theorem faultTaken : Obligations.FaultTaken := by
  refine ⟨fun s x sh code va d0 d1 hx hf hc => Ctx.faultAll_trapped hx hf hc,
    fun s x sh code va d0 d1 hx hc hm hh ht hq hr hb hp hi => Ctx.faultAll_ended ⟨hx, hm, hh, ht, hq, hr, hb⟩ hi hc hp⟩

end Sys2Proof.Certificates

end

section
/-! Calls and returns (O16): what their checks let pass, and what is left when every lane of ACT calls or returns (R177 to R179). -/
namespace Sys2Proof.Machine
open Sys2Proof.Certificates

/-! ### The checks of a lane -/

theorem branchTarget_eq_targetAt {w : Nat} (pc : Word) (off : BitVec w) : branchTarget pc off = targetAt pc off := by
  unfold branchTarget targetAt BitVec.signExtend
  rw [Int.mul_comm, BitVec.ofInt_add, BitVec.ofInt_mul, BitVec.ofInt_natCast, BitVec.ofNat_toNat, BitVec.setWidth_eq]
  rfl

/-- A good target passes the check of R173. -/
theorem badTarget_of_good {s : State} {x : Ctx} {a : Word} (h : goodTarget s x a) : badTarget (s.codeLen x.c x.gid x.g) a = false := by
  obtain ⟨heven, hlen⟩ := h
  have h0 : a.getLsbD 0 = false := by
    unfold BitVec.getLsbD
    rw [Nat.testBit_zero, heven]
    rfl
  unfold badTarget
  rw [h0, Bool.false_or, decide_eq_false_iff_not]
  exact Nat.not_le.mpr hlen

/-- A lane of a group in no handler may call while its depth is below the one declared (R38). -/
theorem Ctx.tooDeep_false {x : Ctx} {p : Fin 64} (hm : x.g.hmode = false) (hp : (x.g.depth.get p).toNat < x.grid.kern.depth) :
    x.tooDeep p = false := by
  unfold Ctx.tooDeep
  rw [hm, Bool.false_or, decide_eq_false_iff_not]
  exact Nat.not_le.mpr hp

/-- An instruction whose checks every lane of ACT passes raises no fault. -/
theorem Ctx.no_faults {x : Ctx} {f : Fin 64 → Option LaneFault} (h : ∀ p, x.act.has p = true → f p = none) :
    x.act.list.filterMap f = [] :=
  List.filterMap_eq_nil_iff.mpr fun p hp => h p ((Lanes.mem_list _ p).mp hp)

theorem Lanes.has_empty (p : Fin 64) : Lanes.has 0 p = false := Lanes.has_zero p

theorem Lanes.and_not_empty (m : Lanes) : m &&& ~~~(0 : Lanes) = m :=
  Lanes.ext_has fun p => by rw [Lanes.has_and, Lanes.has_not, Lanes.has_empty, Bool.not_false, Bool.and_true]

/-! ### Depths -/

/-- The call depths of a group once the lanes of `m` have moved by `f` (R38). -/
def Group.deepen (g : Group) (m : Lanes) (f : Byte → Byte) : Group :=
  { g with depth := Tab.ofFn fun p => if m.has p then f (g.depth.get p) else g.depth.get p }

/-! ### Calls -/

/-- A CALL THAT EVERY LANE OF ACT MAKES: the return address in V63, one level deeper, at the target. -/
theorem State.callLanes_completes {s : State} {x : Ctx} {i : Instr} {sh : Shape} {l : Group} {target : Fin 64 → Word}
    {ls : List (Fin 64)} (he : exec i s = .next (s.callLanes x sh l target [])) (hx : s.ctxOf x.c x.gid = some x)
    (ha : s.alloc x.c x.gid x.g x.t x.grid [63] = .ok) (hi : s.Inside x target)
    (hl : ∃ pf, l = { x.g with pendFree := pf }) (hp : ∀ e ∈ l.pendFree, e.1 ∈ ls ∨ e ∈ x.g.pendFree) :
    s.Completes s x i (x.g.deepen x.act (· + 1)) target sh.st x.act ls [(63, fun _ => x.pc + 4)] := by
  obtain ⟨p, hact⟩ := Ctx.act_mem hx
  obtain ⟨pf, rfl⟩ := hl
  unfold State.Completes
  rw [he]
  unfold State.callLanes
  rw [faultLanes_nil, Lanes.and_not_empty]
  dsimp only
  rw [if_neg (Lanes.ne_zero p hact), State.withSlices_ok (ds := [link]) _ ha]
  exact ⟨_, _, rfl, State.finish_plain sh hx rfl rfl rfl rfl rfl rfl hi, x.leaves sh rfl,
    Ctx.regs_one (l := { x.g with pendFree := pf }) (fun _ _ => rfl) hp (fun _ _ => rfl) rfl⟩

/-- The shape of CALL and CALLI, whose one result is V63 (R177, R178). -/
abbrev callShape (st : Fin 8) (uses : List Nat) : Shape := ⟨true, st.val, [], uses, [(keyV link, 2)], .other⟩

/-- CALL runs as a call of every lane when the depth and the target are good (R177). -/
theorem State.exec_call_good {s : State} {x : Ctx} {off : BitVec 21} {st : Fin 8} (h : s.Issues x [] []) (hm : x.g.hmode = false)
    (hd : ∀ p, x.act.has p = true → (x.g.depth.get p).toNat < x.grid.kern.depth) (ht : goodTarget s x (targetAt x.pc off)) :
    exec (.call off st) s = .next (s.callLanes x (callShape st []) x.g (fun _ => targetAt x.pc off) []) := by
  rw [exec_call]
  unfold execCall
  rw [State.Issues.issue (sh := callShape st []) h]
  dsimp only
  rw [branchTarget_eq_targetAt, badTarget_of_good ht, Ctx.no_faults fun p hp => ?_]
  rw [Ctx.tooDeep_false hm (hd p hp)]
  rfl

/-- CALLI runs as a call of every lane when each lane's target is declared and good, and its depth too (R39, R178). -/
theorem State.exec_calli_good {s : State} {x : Ctx} {a : Fin 64} {la : Bool} {st : Fin 8} (h : s.Issues x [] [keyV a])
    (hm : x.g.hmode = false) (hd : ∀ p, x.act.has p = true → (x.g.depth.get p).toNat < x.grid.kern.depth)
    (ht : ∀ p, x.act.has p = true → goodTarget s x (x.g.readV a p) ∧ (x.pc.toNat, (x.g.readV a p).toNat) ∈ x.grid.kern.targets) :
    exec (.calli a la st) s =
      .next (s.callLanes x (callShape st [keyV a]) (x.g.lastIf a la x.pc) (x.g.readV a) []) := by
  rw [exec_calli]
  unfold execCalli
  rw [State.Issues.issue (sh := callShape st [keyV a]) h]
  dsimp only
  rw [Ctx.no_faults fun p hp => ?_]
  obtain ⟨hgood, hdecl⟩ := ht p hp
  have hany : (x.grid.kern.targets.any fun e => e.1 == x.pc.toNat && e.2 == (x.g.readV a p).toNat) = true :=
    List.any_eq_true.mpr ⟨_, hdecl, by simp⟩
  simp [hany, Ctx.tooDeep_false hm (hd p hp), badTarget_of_good hgood]

/-! ### Returns -/

/-- The end of no lane changes nothing. -/
theorem Group.exitLanes_empty (g : Group) : g.exitLanes 0 = g := by
  have hlst : (g.exitLanes 0).lst = g.lst := Tab.ext_get fun p => by
    rw [Group.exitLanes_lst]
    exact if_neg (ne_true_of_eq_false (Lanes.has_empty p))
  have hq : (g.exitLanes 0).q = g.q := Tab.ext_get fun k => by
    unfold Group.exitLanes
    rw [Tab.get_map]
    refine (List.map_congr_left fun e _ => ?_).trans (List.map_id _)
    dsimp only
    rw [show (0 : Lanes) &&& e.deferred = 0 from BitVec.zero_and, Lanes.and_not_empty, Lanes.and_not_empty]
    rfl
  calc g.exitLanes 0 = { g with lst := (g.exitLanes 0).lst, q := (g.exitLanes 0).q } := rfl
    _ = g := by rw [hlst, hq]

/-- RET of lanes that are all in a call goes back to V63, and no lane ends (R179). -/
theorem State.exec_ret_good {s : State} {x : Ctx} {st : Fin 8} (h : s.Issues x [] [keyV 63])
    (hr : ∀ p, x.act.has p = true → x.g.depth.get p ≠ 0 ∧ goodTarget s x (x.g.readV 63 p)) :
    exec (.ret st) s = .next (s.finish x (ctl st.val [keyV 63]) (x.g.deepen x.act (· - 1)) (x.g.readV 63) []) := by
  have htop : (Lanes.ofFn fun p => x.act.has p && x.g.depth.get p == 0) = 0 := Lanes.ext_has fun p => by
    rw [Lanes.has_ofFn, Lanes.has_empty]
    cases hp : x.act.has p with
    | false => rfl
    | true => exact beq_eq_false_iff_ne.mpr (hr p hp).1
  rw [exec_ret]
  unfold execRet
  rw [State.Issues.issue (sh := ctl st.val [keyV link]) h]
  dsimp only
  rw [htop, Ctx.no_faults fun p hp => ?_]
  · rw [faultLanes_nil, Lanes.and_not_empty, Lanes.and_not_empty, Group.exitLanes_empty]
    have hnext : (fun p => if Lanes.has 0 p = true then x.pc else x.g.readV link p) = x.g.readV 63 := funext fun p =>
      if_neg (ne_true_of_eq_false (Lanes.has_empty p))
    rw [hnext]
    rfl
  · exact if_neg (by simp [link, badTarget_of_good (hr p hp).2])

end Sys2Proof.Machine

namespace Sys2Proof.Certificates
open Sys2Proof.Machine

/-- Settles O16: with its checks passed, CALL and CALLI are a call of every lane of ACT, and RET a return of every lane. -/
theorem callResult : Obligations.CallResult := by
  intro s x st deeper shallow room
  refine ⟨fun off h ⟨hm, hd, ha⟩ ht hi => ?call, fun a la h ⟨hm, hd, ha⟩ ht hi => ?calli, fun h hr hi => ?ret⟩
  case call =>
    exact State.callLanes_completes (State.exec_call_good h hm hd ht) h.ctx ha hi ⟨x.g.pendFree, rfl⟩ fun _ he => Or.inr he
  case calli =>
    exact State.callLanes_completes (State.exec_calli_good h hm hd ht) h.ctx ha hi (Group.lastIf_pend ..) fun _ he =>
      Group.pendFree_lastOne he
  case ret =>
    exact ⟨_, _, State.exec_ret_good h hr, State.finish_plain _ h.ctx rfl rfl rfl rfl rfl rfl hi, x.leaves _ rfl,
      Ctx.regs_none _ (fun _ _ => rfl) fun _ he => Or.inr he⟩

end Sys2Proof.Certificates

end

section
/-! Conversions through a format slot (O10): what each does when the slot's descriptor is accepted, and when it is not (R84, R210). -/
namespace Sys2Proof.Machine
open Sys2Proof.Certificates

/-! ### The row of a conversion -/

/-- The lane row of a conversion that computes `f` of the descriptor, its format, the source and the destination as it was; with `old`
the destination is also a source. -/
def convertRow (d a : Fin 64) (la : Bool) (st : Fin 8) (old : Bool) (f : Word → Fmt → Word → Word → Word × Flags) (D : Word) (F : Fmt) :
    LaneRow :=
  ⟨4, st.val, d, [], keyV a :: (if old then [keyV d] else []), lastOf a la, fun x p => f D F (x.g.readV a p) (x.g.readV d p)⟩

/-- Every instruction with a slot row is a conversion, and its row is the conversion's. -/
theorem laneSlot_convert {i : Instr} {row : SlotRow} (h : laneSlot i = some row) :
    ∃ d a la st old f, row.row = convertRow d a la st old f ∧
      ∀ s, exec i s = s.convert (cvtShape st.val d a old) row.fs d a la row.accepts f := by
  unfold laneSlot at h
  split at h
  case h_1 fs d a la st => cases h; exact ⟨d, a, la, st, false, _, rfl, exec_cvtNarrow fs d a la st⟩
  case h_2 fs d a la st => cases h; exact ⟨d, a, la, st, false, _, rfl, exec_cvtWiden fs d a la st⟩
  case h_3 fs e d a la st => cases h; exact ⟨d, a, la, st, true, _, rfl, exec_pk8 fs e d a la st⟩
  case h_4 fs e d a la st => cases h; exact ⟨d, a, la, st, false, _, rfl, exec_upk8 fs e d a la st⟩
  case h_5 fs e d a la st => cases h; exact ⟨d, a, la, st, true, _, rfl, exec_pk4 fs e d a la st⟩
  case h_6 fs e d a la st => cases h; exact ⟨d, a, la, st, false, _, rfl, exec_upk4 fs e d a la st⟩
  case h_7 => cases h

/-! ### The two outcomes of a conversion -/

section
variable {s : State} {x : Ctx} {sh : Shape} {fs : Fin 8} {d a : Fin 64} {la : Bool} {accepts : Word → Bool}
  {f : Word → Fmt → Word → Word → Word × Flags}

/-- With a descriptor that it accepts, a conversion is the lane instruction of its format. -/
theorem State.convert_accepted (h : s.Issues x sh.toks sh.uses) (hw : sh.wide = true) {F : Fmt}
    (hF : slotFmt (x.grid.fmt.get fs) = some F) (ha : accepts (x.grid.fmt.get fs) = true) :
    s.convert sh fs d a la accepts f = s.lane sh d (fun y => y.g.lastIf a la y.pc) fun y p =>
      f (x.grid.fmt.get fs) F (y.g.readV a p) (y.g.readV d p) := by
  have hlen : sh.len = 4 := by unfold Shape.len; rw [hw]; rfl
  unfold State.convert State.lane
  rw [h.issue, h.issue]
  dsimp only
  rw [hF, ha, hlen]
  dsimp only
  simp only [← foldl_or_flags]

/-- With a descriptor that it does not accept, or that names no format, every lane of ACT faults: with BOUND where the destination
would pass the ceiling, and with SLOT otherwise. -/
theorem State.convert_rejected (h : s.Issues x sh.toks sh.uses)
    (hr : slotFmt (x.grid.fmt.get fs) = none ∨ accepts (x.grid.fmt.get fs) = false) :
    s.convert sh fs d a la accepts f = .next (if s.alloc x.c x.gid x.g x.t x.grid [d] = .ceiling then s.faultAll x sh 0x01 0 2 0
      else s.faultAll x sh 0x0D 0 (BitVec.ofNat 64 fs.val) 0) := by
  unfold State.convert
  rw [h.issue]
  dsimp only
  split
  case h_1 F hF ha =>
    rcases hr with hr | hr
    · exact nomatch hF.symm.trans hr
    · exact nomatch ha.symm.trans hr
  case h_2 => rfl

end

end Sys2Proof.Machine

namespace Sys2Proof.Certificates
open Sys2Proof.Machine

/-- Settles O10: an accepted descriptor makes the conversion a lane instruction, and a rejected one makes ACT fault. -/
theorem laneSlotResult : Obligations.LaneSlotResult := by
  intro i row s x hi
  obtain ⟨d, a, la, st, old, f, hrow, he⟩ := laneSlot_convert hi
  rw [hrow]
  refine ⟨fun F hF hacc ⟨hs, hal, hin⟩ => ?accepted, fun F hr hs => ⟨fun hal => ?slot, fun hal => ?bound⟩⟩
  case accepted =>
    exact State.lane_completes (sh := cvtShape st.val d a old) ((he s).trans (State.convert_accepted hs rfl hF hacc)) hs hal hin
      (Group.lastIf_pend x.g a la x.pc) fun e h => Group.pendFree_lastOne h
  case slot => exact ⟨_, ((he s).trans (State.convert_rejected hs hr)).trans (congrArg _ (if_neg hal))⟩
  case bound => exact ⟨_, ((he s).trans (State.convert_rejected hs hr)).trans (congrArg _ (if_pos hal))⟩

end Sys2Proof.Certificates

end

section
/-! Little-endian words of a memory, and a list of them updated in turn (O41). -/
namespace Sys2Proof.Machine

/-! ### A field read after a field is written -/

/-- A field written reads back as the natural written, narrowed to its bytes. -/
theorem Memory.num_putNum_eq {m : Memory} (h : m.wf = true) (a n v : Nat) : (m.putNum a n v).num a n = v % 256 ^ n := by
  have hb : (m.putNum a n v).bytes a n = leBytes n v := List.ext_getElem (by simp [Memory.bytes]) fun i h1 _ => by
    simp only [Memory.bytes, List.length_map, List.length_range] at h1
    simp only [Memory.bytes, List.getElem_map, List.getElem_range]
    exact Memory.get_store_in _ _ i h (by rwa [length_leBytes])
  rw [Memory.num, hb, leNat_leBytes]

/-- Bytes beside a field written read as before. -/
theorem Memory.get_putNum_out {m : Memory} (h : m.wf = true) {a n v y : Nat} (hy : y < a ∨ a + n ≤ y) :
    (m.putNum a n v).get y = m.get y := Memory.get_store_out _ _ _ h (by rwa [length_leBytes])

/-- A field beside a field written reads as before. -/
theorem Memory.num_putNum_ne {m : Memory} (h : m.wf = true) {a b n k v : Nat} (hab : b + k ≤ a ∨ a + n ≤ b) :
    (m.putNum a n v).num b k = m.num b k :=
  congrArg leNat (List.map_congr_left fun i hi => Memory.get_putNum_out h (by have := List.mem_range.mp hi; omega))

/-! ### Words updated in turn -/

/-- The word of four bytes at an address. -/
def Memory.word (m : Memory) (a : Nat) : Word := BitVec.ofNat 32 (m.num a 4)

theorem Memory.word_putNum_eq {m : Memory} (h : m.wf = true) (a : Nat) (w : Word) : (m.putNum a 4 w.toNat).word a = w := by
  rw [Memory.word, Memory.num_putNum_eq h, Nat.mod_eq_of_lt (show w.toNat < 256 ^ 4 from w.isLt), BitVec.ofNat_toNat, BitVec.setWidth_eq]

/-- Two words share no byte. -/
def Apart (a b : Nat) : Prop := b + 4 ≤ a ∨ a + 4 ≤ b

theorem Memory.word_putNum_ne {m : Memory} (h : m.wf = true) {a b : Nat} (v : Nat) (hab : Apart a b) :
    (m.putNum a 4 v).word b = m.word b := congrArg (BitVec.ofNat 32) (Memory.num_putNum_ne h hab)

section
variable {ι : Type} (loc : ι → Nat) (f : ι → Word → Word × Flags)

/-- The word of `x` replaced by its image under `f`, and the flags that `f` raises joined to those so far. -/
def updateWord (a : Memory × Flags) (x : ι) : Memory × Flags :=
  (a.1.putNum (loc x) 4 (f x (a.1.word (loc x))).1.toNat, a.2 ||| (f x (a.1.word (loc x))).2)

/-- The words of a list updated one after the other. -/
def updateWords (l : List ι) (a : Memory × Flags) : Memory × Flags := l.foldl (updateWord loc f) a

theorem updateWords_cons (x : ι) (l : List ι) (a : Memory × Flags) :
    updateWords loc f (x :: l) a = updateWords loc f l (updateWord loc f a x) := rfl

variable {loc f}

/-- A byte of none of the words keeps its value. -/
theorem updateWords_get {y : Nat} : ∀ {l : List ι} {a : Memory × Flags}, a.1.wf = true → (∀ x ∈ l, y < loc x ∨ loc x + 4 ≤ y) →
    (updateWords loc f l a).1.get y = a.1.get y
  | [], _, _, _ => rfl
  | x :: l, a, h, hy => by
    obtain ⟨hx, hl⟩ := List.forall_mem_cons.mp hy
    rw [updateWords_cons, updateWords_get (Memory.wf_putNum h _ _ _) hl]
    exact Memory.get_putNum_out h hx

/-- A word apart from all of them keeps its value. -/
theorem updateWords_word_ne {b : Nat} : ∀ {l : List ι} {a : Memory × Flags}, a.1.wf = true → (∀ x ∈ l, Apart (loc x) b) →
    (updateWords loc f l a).1.word b = a.1.word b
  | [], _, _, _ => rfl
  | x :: l, a, h, hb => by
    obtain ⟨hx, hl⟩ := List.forall_mem_cons.mp hb
    rw [updateWords_cons, updateWords_word_ne (Memory.wf_putNum h _ _ _) hl]
    exact Memory.word_putNum_ne h _ hx

/-- Words that are apart are each updated once, from what they held at first. -/
theorem updateWords_word : ∀ {l : List ι} {a : Memory × Flags}, a.1.wf = true → l.Pairwise (fun x y => Apart (loc x) (loc y)) →
    ∀ x ∈ l, (updateWords loc f l a).1.word (loc x) = (f x (a.1.word (loc x))).1
  | z :: l, a, h, hl, x, hx => by
    obtain ⟨hz, hl⟩ := List.pairwise_cons.mp hl
    have hwf : (updateWord loc f a z).1.wf = true := Memory.wf_putNum h _ _ _
    rw [updateWords_cons]
    rcases List.mem_cons.mp hx with rfl | hx
    · rw [updateWords_word_ne hwf fun y hy => (hz y hy).symm]
      exact Memory.word_putNum_eq h _ _
    · rw [updateWords_word hwf hl x hx]
      exact congrArg (fun w => (f x w).1) (Memory.word_putNum_ne h _ (hz x hx))

/-- The flags of words that are apart are joined, each as raised from what its word held at first. -/
theorem updateWords_flags (i : Nat) : ∀ {l : List ι} {a : Memory × Flags}, a.1.wf = true →
    l.Pairwise (fun x y => Apart (loc x) (loc y)) →
    ((updateWords loc f l a).2.getLsbD i = true ↔ a.2.getLsbD i = true ∨ ∃ x ∈ l, (f x (a.1.word (loc x))).2.getLsbD i = true)
  | [], _, _, _ => by simp [updateWords]
  | z :: l, a, h, hl => by
    obtain ⟨hz, hl⟩ := List.pairwise_cons.mp hl
    have hsame : ∀ x ∈ l, (updateWord loc f a z).1.word (loc x) = a.1.word (loc x) := fun x hx => Memory.word_putNum_ne h _ (hz x hx)
    have hrest : (∃ x ∈ l, (f x ((updateWord loc f a z).1.word (loc x))).2.getLsbD i = true) ↔
        ∃ x ∈ l, (f x (a.1.word (loc x))).2.getLsbD i = true :=
      exists_congr fun x => and_congr_right fun hx => by rw [hsame x hx]
    have hcons : (∃ x ∈ z :: l, (f x (a.1.word (loc x))).2.getLsbD i = true) ↔
        (f z (a.1.word (loc z))).2.getLsbD i = true ∨ ∃ x ∈ l, (f x (a.1.word (loc x))).2.getLsbD i = true := by
      simp only [List.mem_cons, or_and_right, exists_or, exists_eq_left]
    rw [updateWords_cons, updateWords_flags i (Memory.wf_putNum h _ _ _) hl, hrest, hcons, ← or_assoc, updateWord,
      BitVec.getLsbD_or, Bool.or_eq_true]

end

end Sys2Proof.Machine

end

section
/-! The product of MMA and MMAS (O41): its accumulator words lie apart, and it updates them in turn (R88, R90, R91, R263). -/
namespace Sys2Proof.Machine
open Sys2Proof.Certificates

/-! ### Where accumulator words lie -/

/-- The bytes of an accumulator word lie one after the other. -/
theorem Eng.accLoc_add (e : Eng) {o k : Nat} (ho : o % 4 = 0) (hk : k < 4) : e.accLoc (o + k) = e.accLoc o + k := by
  unfold Eng.accLoc
  rw [show (o + k) / 65536 = o / 65536 by omega, show (o + k) % 65536 = o % 65536 + k by omega, Nat.add_assoc]

/-- An offset inside the accumulator lies in the granule that its team holds for it (R65). -/
theorem Eng.accLoc_of_lt (e : Eng) {o : Nat} (h : o / 65536 < e.t.accG.length) :
    e.accLoc o = (e.t.accG[o / 65536]).val * 65536 + o % 65536 := by
  unfold Eng.accLoc
  rw [List.getElem?_eq_getElem h]
  rfl

/-- Two accumulator words of a team that holds no granule twice share no byte. -/
theorem Eng.accLoc_apart {e : Eng} (hn : e.t.accG.Nodup) {o q : Nat} (ho : o % 4 = 0) (hq : q % 4 = 0) (hne : o ≠ q)
    (hol : o < 65536 * e.t.accG.length) (hql : q < 65536 * e.t.accG.length) : Apart (e.accLoc o) (e.accLoc q) := by
  have hoi : o / 65536 < e.t.accG.length := Nat.div_lt_of_lt_mul hol
  have hqi : q / 65536 < e.t.accG.length := Nat.div_lt_of_lt_mul hql
  unfold Apart
  rw [e.accLoc_of_lt hoi, e.accLoc_of_lt hqi]
  by_cases hd : o / 65536 = q / 65536
  · simp only [hd]
    omega
  · have hg : (e.t.accG[o / 65536]).val ≠ (e.t.accG[q / 65536]).val := fun h => hd ((List.getElem_inj hn).mp (Fin.ext h))
    omega

/-! ### An accumulator word written in a sound machine -/

theorem State.unmark_of_sound {s : State} (h : Sound s) (arr c a n) : s.unmark arr c a n = s := by
  unfold State.unmark
  rw [h.1, List.filter_nil, ← h.1]

theorem State.inject_of_sound {s : State} (h : Sound s) (d arr c a n) : s.inject d arr c a n = s := by
  have hf : field (s.die d).errinj.toNat 8 1 ≠ 1 := fun he => by
    have h0 := field_bit (s.die d).errinj 8
    rw [he, h.2 d] at h0
    exact Bool.noConfusion h0
  exact if_neg fun hc => hf hc.1

/-- The machine with another pool in a core. -/
def State.withPool (s : State) (c : Fin 128) (m : Memory) : State := s.modCore c fun k => { k with pool := m }

theorem State.withPool_pool (s : State) (c : Fin 128) : s.withPool c (s.core c).pool = s := State.setCore_core s c
theorem State.pool_withPool (s : State) (c : Fin 128) (m : Memory) : ((s.withPool c m).core c).pool = m := by simp [State.withPool]
theorem State.withPool_withPool (s : State) (c : Fin 128) (m n : Memory) : (s.withPool c m).withPool c n = s.withPool c n := by
  simp [State.withPool, State.modCore]

theorem State.sound_withPool {s : State} (h : Sound s) (c : Fin 128) (m : Memory) : Sound (s.withPool c m) := h

theorem State.accWord_eq_word (s : State) (e : Eng) (o : Nat) : s.accWord e o = (s.core e.c).pool.word (e.accLoc o) := rfl

theorem State.accWord_withPool (s : State) (e : Eng) (m : Memory) (o : Nat) : (s.withPool e.c m).accWord e o = m.word (e.accLoc o) := by
  rw [State.accWord_eq_word, State.pool_withPool]

theorem State.putAcc_withPool {s : State} (h : Sound s) (e : Eng) (m : Memory) (o : Nat) (w : Word) :
    (s.withPool e.c m).putAcc e o w = s.withPool e.c (m.putNum (e.accLoc o) 4 w.toNat) := by
  have hput : (s.withPool e.c m).modCore e.c (fun k => { k with pool := k.pool.putNum (e.accLoc o) 4 w.toNat }) =
      s.withPool e.c (m.putNum (e.accLoc o) 4 w.toNat) := by simp [State.withPool, State.modCore]
  have hs := State.sound_withPool h e.c (m.putNum (e.accLoc o) 4 w.toNat)
  unfold State.putAcc
  dsimp only
  rw [hput, State.unmark_of_sound hs, State.inject_of_sound hs]

/-! ### The elements of a product -/

/-- A block added only joins flags to those before it. -/
theorem accumulate_flags (w : Word) (a b : Flags) (x : Exact) :
    accumulate (w, a ||| b) x = ((accumulate (w, b) x).1, a ||| (accumulate (w, b) x).2) := by
  simp only [accumulate, BitVec.or_assoc]

theorem foldl_accumulate_flags {ι : Type} (x : ι → Exact) : ∀ (l : List ι) (w : Word) (a b : Flags),
    l.foldl (fun acc k => accumulate acc (x k)) (w, a ||| b) =
      ((l.foldl (fun acc k => accumulate acc (x k)) (w, b)).1, a ||| (l.foldl (fun acc k => accumulate acc (x k)) (w, b)).2)
  | [], _, _, _ => rfl
  | k :: l, w, a, b => by
    rw [List.foldl_cons, List.foldl_cons, accumulate_flags, foldl_accumulate_flags x l]

/-- An update of an element only joins flags to those before it. -/
theorem Product.element_flags (p : Product) (i j : Nat) (w : Word) (fl : Flags) :
    p.element i j (w, fl) = ((p.element i j (w, 0)).1, fl ||| (p.element i j (w, 0)).2) := by
  have h : p.element i j (w, fl ||| 0) = _ := foldl_accumulate_flags _ (List.range p.nb) w fl 0
  rwa [show fl ||| (0 : Flags) = fl from BitVec.or_zero] at h

/-- The elements of a product, row by row. -/
def Product.cells (p : Product) : List (Nat × Nat) := (List.range p.m).flatMap fun i => (List.range p.n).map fun j => (i, j)

theorem Product.mem_cells {p : Product} {x : Nat × Nat} : x ∈ p.cells ↔ x.1 < p.m ∧ x.2 < p.n := by
  unfold Product.cells
  rw [List.mem_flatMap]
  constructor
  · rintro ⟨i, hi, hx⟩
    obtain ⟨j, hj, rfl⟩ := List.mem_map.mp hx
    exact ⟨List.mem_range.mp hi, List.mem_range.mp hj⟩
  · rintro ⟨hi, hj⟩
    exact ⟨x.1, List.mem_range.mpr hi, List.mem_map.mpr ⟨x.2, List.mem_range.mpr hj, rfl⟩⟩

/-- No element stands twice in the list. -/
theorem Product.cells_nodup (p : Product) : p.cells.Nodup := by
  refine List.pairwise_flatMap.mpr ⟨fun i _ => List.pairwise_map.mpr ?_, ?_⟩
  · exact List.nodup_range.imp fun hne h => hne (congrArg Prod.snd h)
  · refine List.nodup_range.imp fun hne x hx y hy h => hne ?_
    obtain ⟨_, _, rfl⟩ := List.mem_map.mp hx
    obtain ⟨_, _, rfl⟩ := List.mem_map.mp hy
    exact congrArg Prod.fst h

/-- The accumulator offset of an element. -/
def Product.offset (p : Product) (x : Nat × Nat) : Nat := p.acc + 4 * (x.1 * p.n + x.2)

theorem Product.offset_le {p : Product} {x : Nat × Nat} (h : x ∈ p.cells) : p.offset x + 4 ≤ p.acc + 4 * p.m * p.n := by
  obtain ⟨hi, hj⟩ := Product.mem_cells.mp h
  have : (x.1 + 1) * p.n ≤ p.m * p.n := Nat.mul_le_mul_right _ hi
  unfold Product.offset
  rw [Nat.mul_assoc]
  rw [Nat.succ_mul] at this
  omega

/-- Two elements have two offsets. -/
theorem Product.offset_inj {p : Product} {x y : Nat × Nat} (hx : x ∈ p.cells) (hy : y ∈ p.cells) (h : p.offset x = p.offset y) : x = y := by
  obtain ⟨-, hx⟩ := Product.mem_cells.mp hx
  obtain ⟨-, hy⟩ := Product.mem_cells.mp hy
  have hp : p.n * x.1 + x.2 = p.n * y.1 + y.2 := by unfold Product.offset at h; rw [Nat.mul_comm p.n, Nat.mul_comm p.n]; omega
  have hdiv (z : Nat × Nat) (hz : z.2 < p.n) : (p.n * z.1 + z.2) / p.n = z.1 := by
    rw [Nat.mul_add_div (by omega), Nat.div_eq_of_lt hz, Nat.add_zero]
  have h1 : x.1 = y.1 := by rw [← hdiv x hx, ← hdiv y hy, hp]
  exact Prod.ext h1 (by rw [h1] at hp; omega)

/-- The words of a product's elements share no byte. -/
theorem Product.cells_apart {e : Eng} {p : Product} (hn : e.t.accG.Nodup) (ha : p.acc % 64 = 0)
    (hl : p.acc + 4 * p.m * p.n ≤ 65536 * e.t.accG.length) :
    p.cells.Pairwise fun x y => Apart (e.accLoc (p.offset x)) (e.accLoc (p.offset y)) := by
  have hmod (x : Nat × Nat) : p.offset x % 4 = 0 := by unfold Product.offset; omega
  have hlt {x} (hx : x ∈ p.cells) : p.offset x < 65536 * e.t.accG.length := by have := Product.offset_le hx; omega
  exact List.Pairwise.imp_of_mem (fun hx hy hne =>
    Eng.accLoc_apart hn (hmod _) (hmod _) (fun h => hne (Product.offset_inj hx hy h)) (hlt hx) (hlt hy)) p.cells_nodup

/-- A byte that no offset of a product names is in none of its words. -/
theorem Product.out_of_words {e : Eng} {p : Product} {a : Nat} (hp : p.acc % 64 = 0)
    (h : ∀ k < 4 * p.m * p.n, e.accLoc (p.acc + k) ≠ a) {x : Nat × Nat} (hx : x ∈ p.cells) :
    a < e.accLoc (p.offset x) ∨ e.accLoc (p.offset x) + 4 ≤ a := by
  refine Decidable.byContradiction fun hin => ?_
  have hle := Product.offset_le hx
  have hge : p.acc ≤ p.offset x := Nat.le_add_right _ _
  have hmod : p.offset x % 4 = 0 := by unfold Product.offset; omega
  refine h (p.offset x - p.acc + (a - e.accLoc (p.offset x))) (by omega) ?_
  rw [← Nat.add_assoc, Nat.add_sub_cancel' hge, e.accLoc_add hmod (by omega)]
  omega

/-! ### The product as updates of words -/

/-- What a product makes of the pool and the flags: each element's word replaced by its update. -/
def Product.updates (p : Product) (e : Eng) : Memory × Flags → Memory × Flags :=
  updateWords (fun x => e.accLoc (p.offset x)) (fun x w => p.element x.1 x.2 (w, 0)) p.cells

/-- A product raises a flag where the update of some element does. -/
theorem Product.updates_flags {s : State} {e : Eng} {p : Product} (hwf : (s.core e.c).pool.wf = true)
    (hap : p.cells.Pairwise fun x y => Apart (e.accLoc (p.offset x)) (e.accLoc (p.offset y))) {f : Nat} :
    (p.updates e ((s.core e.c).pool, 0)).2.getLsbD f = true ↔
      ∃ i < p.m, ∃ j < p.n, (p.element i j (s.accWord e (p.acc + 4 * (i * p.n + j)), 0)).2.getLsbD f = true := by
  refine (updateWords_flags f hwf hap).trans ⟨?_, ?_⟩
  · rintro (h | ⟨x, hx, h⟩)
    · exact absurd h (ne_true_of_eq_false BitVec.getLsbD_zero)
    · obtain ⟨hi, hj⟩ := Product.mem_cells.mp hx
      exact ⟨x.1, hi, x.2, hj, h⟩
  · rintro ⟨i, hi, j, hj, h⟩
    exact Or.inr ⟨(i, j), Product.mem_cells.mpr ⟨hi, hj⟩, h⟩

/-- One element of a product updated in the machine. -/
def State.updateElement (e : Eng) (p : Product) (a : State × Flags) (x : Nat × Nat) : State × Flags :=
  let r := p.element x.1 x.2 (a.1.accWord e (p.offset x), a.2)
  (a.1.putAcc e (p.offset x) r.1, r.2)

theorem State.runProduct_foldl (s : State) (e : Eng) (p : Product) :
    s.runProduct e p = (p.cells.foldl (State.updateElement e p) (s, 0)).1.modCore e.c fun k =>
      { k with mflags := k.mflags ||| (p.cells.foldl (State.updateElement e p) (s, 0)).2 } := by
  unfold Product.cells
  simp only [List.foldl_flatMap, List.foldl_map]
  rfl

/-- In a sound machine the update of an element is that of its word in the pool. -/
theorem State.updateElement_withPool {s : State} (h : Sound s) (e : Eng) (p : Product) (a : Memory × Flags) (x : Nat × Nat) :
    State.updateElement e p (s.withPool e.c a.1, a.2) x =
      let r := updateWord (fun x => e.accLoc (p.offset x)) (fun x w => p.element x.1 x.2 (w, 0)) a x
      (s.withPool e.c r.1, r.2) := by
  unfold State.updateElement
  dsimp only
  rw [State.accWord_withPool, State.putAcc_withPool h, Product.element_flags]
  rfl

theorem State.foldl_updateElement {s : State} (h : Sound s) (e : Eng) (p : Product) : ∀ (l : List (Nat × Nat)) (a : Memory × Flags),
    l.foldl (State.updateElement e p) (s.withPool e.c a.1, a.2) =
      let r := updateWords (fun x => e.accLoc (p.offset x)) (fun x w => p.element x.1 x.2 (w, 0)) l a
      (s.withPool e.c r.1, r.2)
  | [], _ => rfl
  | x :: l, a => by
    rw [List.foldl_cons, State.updateElement_withPool h, updateWords_cons]
    exact State.foldl_updateElement h e p l _

/-- A PRODUCT IN A SOUND MACHINE updates the words of its elements in the pool, joins their flags to MFLAGS, and changes nothing
else. -/
theorem State.runProduct_eq {s : State} (h : Sound s) (e : Eng) (p : Product) :
    s.runProduct e p = (s.withPool e.c (p.updates e ((s.core e.c).pool, 0)).1).modCore e.c fun k =>
      { k with mflags := k.mflags ||| (p.updates e ((s.core e.c).pool, 0)).2 } := by
  have hf := State.foldl_updateElement h e p p.cells ((s.core e.c).pool, 0)
  rw [State.withPool_pool] at hf
  rw [State.runProduct_foldl, hf]
  rfl

end Sys2Proof.Machine

namespace Sys2Proof.Certificates
open Sys2Proof.Machine

/-- Settles O41: the words of the elements lie apart, so each is updated once, from what it held. -/
theorem productResult : Obligations.ProductResult := by
  intro s e p hs hwf hn ha hl t
  have ht : t = _ := State.runProduct_eq hs e p
  have hpool : (t.core e.c).pool = (p.updates e ((s.core e.c).pool, 0)).1 := by
    rw [ht, State.core_modCore_eq, State.pool_withPool]
  have hap := Product.cells_apart hn ha hl
  refine ⟨fun i hi j hj => ?word, fun a hout => ?frame, fun c hc => ?core, by rw [ht]; rfl, by rw [ht]; rfl, fun f => ?flags⟩
  case word =>
    rw [State.accWord_eq_word, hpool]
    exact updateWords_word hwf hap (i, j) (Product.mem_cells.mpr ⟨hi, hj⟩)
  case frame =>
    rw [hpool]
    exact updateWords_get hwf fun x hx => Product.out_of_words ha hout hx
  case core => rw [ht, State.core_modCore_ne _ _ hc.symm, State.withPool, State.core_modCore_ne _ _ hc.symm]
  case flags =>
    have hfl : (t.core e.c).mflags = (s.core e.c).mflags ||| (p.updates e ((s.core e.c).pool, 0)).2 := by
      rw [ht, State.core_modCore_eq, State.withPool, State.core_modCore_eq]
    rw [hfl, BitVec.getLsbD_or, Bool.eq_iff_iff, Bool.or_eq_true, Bool.or_eq_true, Product.updates_flags hwf hap, decide_eq_true_iff]

end Sys2Proof.Certificates

end
